-- ==== Sys2Proof/Word.lean ====
section
/-! DEFINITION. The word types of the model and the shape of its sparse tables. -/

namespace Sys2Proof

/-- A byte. -/
abbrev Byte := BitVec 8

/-- A 64-bit word: registers, stored words, flit words (R13, R62). -/
abbrev Word := BitVec 64

/-- A sparse table: keys strictly rising, and no entry equal to what an unlisted key holds
(Sys2Proof/Machine/Tbl.lean holds its operations). With bytes as entries it is a list of
`Host.Cell`, the memory of this model. -/
abbrev Tbl (α : Type) := List (Nat × α)

/-- A memory: a table of bytes. -/
abbrev Memory := Tbl Byte

end Sys2Proof
end

