-- ==== Sys2Proof/Syntax.lean ====
section
/-! DEFINITION. The commands of the block: one constructor for each row of spec/opcode_table.json,
with the row's operands. A command is a register access, a ring command, an instruction that a rafter
or a thread issues, a packet or frame that arrives, or an event inside the device; what the spec
leaves to the world outside the device's logic (a reading, a test's outcome) is an operand. -/

namespace Sys2Proof

/-- Who makes a register access (R518 class 7; R468 for the stage list; R109 for a ring's REG_READ). -/
inductive Master
  | host
  | rafter (n : Fin 256)
  | stage
  | ring (r : Fin 16)
  deriving DecidableEq, Repr

/-- Who issues an instruction of the rafter instruction set (R231, R257): the sequencer of rafter `n`,
or the subset of threads that R227 picks in yealm slot `y` of rafter `n`. -/
inductive Issuer
  | seq (n : Fin 256)
  | thr (n : Fin 256) (y : Fin 16)
  deriving DecidableEq, Repr

/-- A 64-byte command entry of a command ring (R106). -/
structure Entry where
  w0 : Word
  w1 : Word := 0
  w2 : Word := 0
  w3 : Word := 0
  w4 : Word := 0
  w5 : Word := 0
  w6 : Word := 0
  w7 : Word := 0
  deriving DecidableEq, Repr

/-- What a bay access does (R275, R287): read a line, write whole words, write some bytes (a
read-modify-write), or add to a word at the atomic unit. -/
inductive BayOp
  | readLine
  | writeWords (ws : List Word)
  | writeBytes (bs : List Byte)
  | atomicAdd (v : Word)
  deriving DecidableEq, Repr

/-- The master that a request comes from (R288, R317): a rafter's instruction fetch, its sequencer, a CADD of its, its
yealm engine, one of its stream channels; the session engine or the gate unit at one of the stops S10-S13 (R22); valley
ingress or SHARD_LOAD over an eaves link (R34). -/
inductive Origin
  | fetch (n : Fin 256)
  | seq (n : Fin 256)
  | cadd (n : Fin 256) (ret : Bool)
  | ylm (n : Fin 256)
  | chan (n : Fin 256) (c : Fin 16)
  | ses (k : Fin 4)
  | gate (k : Fin 4)
  | vin (e : Fin 4)
  | shard (e : Fin 4)
  deriving DecidableEq, Repr

/-- A request that one source presents to a bay sub-array (R276): the address of its first byte (a
bay-space address, or an HBM address for an access to a cache way), what it does, the master that asks, and the parity
bits that came with the words it carries (R289). -/
structure BayReq where
  addr : BitVec 40
  op   : BayOp
  org  : Origin
  par  : List Bool := []
  deriving DecidableEq, Repr

/-- An endpoint of the Purlin network (R20, R22, R23): a logical bay, a stop of the central hub, a stop of the session
engine, an HBM controller, an eaves-link end. -/
inductive PDest
  | bay (n : Fin 256)
  | hub (k : Fin 4)
  | ses (d : Fin 4)
  | hbm (s : Fin 8)
  | eaves (e : Fin 4)
  deriving DecidableEq, Repr

/-- A Purlin flit: where it is bound and what it carries (R21). -/
structure PFlit where
  dst : PDest
  req : BayReq
  deriving DecidableEq, Repr

/-- The hops of R290. -/
inductive Hop
  | sparWrite (n : Fin 256) (lane : Fin 16)
  | sparRead (n : Fin 256) (lane : Fin 32)
  | purlin (stop : Fin 272)
  | eaves (e : Fin 4)
  | hbmInput (s : Fin 8)
  | urgenTx (p : Fin 13)
  deriving DecidableEq, Repr

/-- A request to an HBM controller (R317, R320): the master it comes from, for a write its bytes and the parity bits of its
words (R289), and whether it had left its source when a hold reached that (R321). -/
structure HReq where
  addr   : BitVec 40
  write  : Bool
  org    : Origin
  data   : List Byte := []
  par    : List Bool := []
  flight : Bool := false
  deriving DecidableEq, Repr

/-- A frame as the FEC hands it over (R373-R377): the 32 words of the flit, the tag, and, with the first frame of a
codeword set, for each lane in use the corrected bits and the symbols in error of its codeword, 16 or more where it is
uncorrectable (R394). -/
structure Frame where
  words  : List Word
  tag    : Byte
  lanes  : List (Nat × Nat × Nat) := []
  deriving DecidableEq, Repr

/-- A valley control packet (R420) as it reaches an end. -/
structure VCtl where
  vidx   : Fin 65536
  srcdev : BitVec 16
  dgen   : BitVec 16
  minlvl : BitVec 2 := 3
  w2     : Word := 0
  w3     : Word := 0
  hops   : Nat := 0
  deriving DecidableEq, Repr

/-- A valley data packet (R416) as it reaches an end: its valley word's fields, its window word for
WINDOW, and its data. -/
structure VPkt where
  vidx   : Fin 65536
  srcdev : BitVec 16
  dgen   : BitVec 16
  vop    : BitVec 2
  rfmt   : Bool := false
  pseq   : BitVec 32
  win    : Word := 0
  data   : List Byte := []
  hops   : Nat := 0
  port   : Fin 13 := 0
  deriving DecidableEq, Repr

/-- The currents and the power that a loop tick judges (R553): the sliding averages of one course over
10 and 100 microseconds, in 0.1 A, and whether each has stayed so for the span the rule asks. -/
structure CourseMeas where
  q    : Fin 81
  i10  : Nat
  i100 : Nat
  deriving DecidableEq, Repr

/-- One reading of a housekeeping channel (R354, R355): silent, or the value that HK_VALn.VALUE shows. -/
inductive HkReading
  | silent
  | value (v : BitVec 32)
  deriving DecidableEq, Repr

/-- What TRUSS found (R473): the eaves links that locked, and the lines (physical pair 66d + p, line) that failed the
self-test (R277). -/
structure TrussOut where
  eavesUp   : BitVec 4
  badLines  : List (Nat × Nat) := []
  deriving DecidableEq, Repr

/-- What SPAR found (R474), by physical pair 66d + p: pairs that fail by themselves, failing slates, and failing bonds as
(pair, lane, bond), with lanes 0-31 read, 32-47 write and 48 control (R291). -/
structure SparOut where
  badPairs  : List Nat := []
  badSlates : List (Nat × BitVec 8) := []
  bonds     : List (Nat × Nat × Nat) := []
  deriving DecidableEq, Repr

inductive Instr
  -- Register commands
  | registerWrite (m : Master) (addr : BitVec 40) (size : Nat) (v : Word)
  | unmappedRegisterRead (m : Master) (addr : BitVec 40)
  | rclFieldRead (m : Master) (addr : BitVec 40)
  | hubSpareWrite (m : Master) (d : Fin 4) (v : Word)
  | batEtdataWrite (m : Master) (v : Word)
  | batPldataWrite (m : Master) (v : Word)
  | batSidataWrite (m : Master) (v : Word)
  | gateEdataWrite (m : Master) (v : Word)
  | vlyRtdataWrite (m : Master) (v : Word)
  | sesRctlWrite (m : Master) (r : Fin 16) (v : Word)
  | doorbell (m : Master) (r : Fin 16) (v : Word)
  | sesKheadWrite (m : Master) (r : Fin 16) (v : Word)
  | monNctlWrite (m : Master) (v : Word)
  | monNheadWrite (m : Master) (v : Word)
  | secPdataWrite (m : Master) (v : Word)
  | provisioningGo (m : Master) (v : Word)
  | provisioningDone
  | secIddataRead (m : Master)
  | monLdataRead (m : Master)
  | peekdRead (m : Master) (n : Fin 256)
  | ylmPeekdRead (m : Master) (n : Fin 256)
  | bootGoAction (m : Master) (step : Fin 16)
  | bootGoFin (m : Master) (step : Fin 16)
  | bootFwdataWrite (m : Master) (v : Word)
  | flashWriteDone
  | release (m : Master) (n : Fin 256) (v : Word)
  | vopenOpen (m : Master) (n : Fin 256) (v : Word)
  | vopenClose (m : Master) (n : Fin 256) (v : Word)
  | requal (m : Master) (p : Fin 13) (v : Word)
  | flush (m : Master) (q : Fin 60) (v : Word)
  | counterSelectWrite (m : Master) (addr : BitVec 40) (v : Word)
  | monFreezeWrite (m : Master) (v : Word)
  -- Ring commands: the ring and its entry; `cut` + 1 is how many bytes each MRD asks for that fetches its data (R399, R400)
  | sesOpen (r : Fin 16) (e : Entry)
  | sesAppend (r : Fin 16) (e : Entry) (cut : Fin 4096)
  | sesRun (r : Fin 16) (e : Entry)
  | sesPark (r : Fin 16) (e : Entry)
  | sesClose (r : Fin 16) (e : Entry)
  | sesMigrate (r : Fin 16) (e : Entry)
  | shardLoadData (r : Fin 16) (e : Entry) (cut : Fin 4096)
  | shardLoadTable (r : Fin 16) (e : Entry) (cut : Fin 4096)
  | vlyOpen (r : Fin 16) (e : Entry)
  | vlyClose (r : Fin 16) (e : Entry)
  | regRead (r : Fin 16) (e : Entry)
  | thawRafter (r : Fin 16) (e : Entry)
  | thawChannel (r : Fin 16) (e : Entry)
  | thawValley (r : Fin 16) (e : Entry)
  | retireRafter (r : Fin 16) (e : Entry)
  | retireChannel (r : Fin 16) (e : Entry)
  | retireValley (r : Fin 16) (e : Entry)
  | attest (r : Fin 16) (e : Entry)
  | attestReportDone
  | illegalOp (r : Fin 16) (e : Entry)
  -- Scalar class (R259)
  | add (i : Issuer) (w : Word)
  | sub (i : Issuer) (w : Word)
  | and (i : Issuer) (w : Word)
  | or (i : Issuer) (w : Word)
  | xor (i : Issuer) (w : Word)
  | shl (i : Issuer) (w : Word)
  | shr (i : Issuer) (w : Word)
  | sra (i : Issuer) (w : Word)
  | mul (i : Issuer) (w : Word)
  | divs (i : Issuer) (w : Word)
  | divu (i : Issuer) (w : Word)
  | rems (i : Issuer) (w : Word)
  | remu (i : Issuer) (w : Word)
  | slt (i : Issuer) (w : Word)
  | sltu (i : Issuer) (w : Word)
  | seq (i : Issuer) (w : Word)
  | sel (i : Issuer) (w : Word)
  | addi (i : Issuer) (w : Word)
  | subi (i : Issuer) (w : Word)
  | andi (i : Issuer) (w : Word)
  | ori (i : Issuer) (w : Word)
  | xori (i : Issuer) (w : Word)
  | shli (i : Issuer) (w : Word)
  | shri (i : Issuer) (w : Word)
  | srai (i : Issuer) (w : Word)
  | slti (i : Issuer) (w : Word)
  | sltui (i : Issuer) (w : Word)
  | seqi (i : Issuer) (w : Word)
  | li (i : Issuer) (w : Word) (ext : Word)
  | time (i : Issuer) (w : Word)
  | rafid (i : Issuer) (w : Word)
  | ld (i : Issuer) (w : Word)
  | st (i : Issuer) (w : Word)
  -- Branch class (R261)
  | beq (i : Issuer) (w : Word)
  | bne (i : Issuer) (w : Word)
  | blt (i : Issuer) (w : Word)
  | bge (i : Issuer) (w : Word)
  | bltu (i : Issuer) (w : Word)
  | bgeu (i : Issuer) (w : Word)
  | jmp (i : Issuer) (w : Word)
  | jal (i : Issuer) (w : Word)
  | jr (i : Issuer) (w : Word)
  | jalr (i : Issuer) (w : Word)
  | endp (i : Issuer) (w : Word)
  | endpComplete (n : Fin 256)
  | rtt (i : Issuer) (w : Word)
  | frz (i : Issuer) (w : Word)
  | brk (i : Issuer) (w : Word)
  -- Yealm launch (R263) and its events
  | ylaunch (i : Issuer) (w : Word)
  | yealmStart (n : Fin 256)
  | yealmRetire (n : Fin 256) (y : Fin 16)
  | ywait (i : Issuer) (w : Word)
  | ywaitComplete (n : Fin 256)
  | ykill (i : Issuer) (w : Word)
  -- Slates (R264, R148-R177)
  | slate (i : Issuer) (w : Word)
  | slateCommandStart (n : Fin 256) (sl : Fin 8)
  | kSlice (n : Fin 256) (sl : Fin 8)
  | dwellEnd (q : Fin 64)
  | slateCommandComplete (n : Fin 256) (sl : Fin 8)
  -- Streams (R264, R140-R143)
  | str (i : Issuer) (w : Word)
  | strsm (i : Issuer) (w : Word)
  | stclr (i : Issuer) (w : Word)
  | streamDescriptorStart (n : Fin 256) (c : Fin 16)
  | streamDataReturn (n : Fin 256) (c : Fin 16)
  | streamDescriptorEnd (n : Fin 256) (c : Fin 16)
  -- Synchronisation and notice poll (R266, R267)
  | cadd (i : Issuer) (w : Word)
  | caddPerform (n : Fin 256)
  | cwatch (i : Issuer) (w : Word)
  | poll (i : Issuer) (w : Word)
  | polli (i : Issuer) (w : Word) (ext : Word)
  | nclr (i : Issuer) (w : Word)
  | pollWake (n : Fin 256)
  | pollTimeout (n : Fin 256)
  -- Thread class (R268)
  | fadd (i : Issuer) (w : Word)
  | fmul (i : Issuer) (w : Word)
  | fma (i : Issuer) (w : Word)
  | fmin (i : Issuer) (w : Word)
  | fmax (i : Issuer) (w : Word)
  | fcmp (i : Issuer) (w : Word)
  | fcvt (i : Issuer) (w : Word)
  | fsfu (i : Issuer) (w : Word)
  | yld (i : Issuer) (w : Word)
  | yst (i : Issuer) (w : Word)
  | yatom (i : Issuer) (w : Word)
  | ycas (i : Issuer) (w : Word)
  | yswap (i : Issuer) (w : Word)
  | yfence (i : Issuer) (w : Word)
  | yshfl (i : Issuer) (w : Word)
  | yred (i : Issuer) (w : Word)
  | yrand (i : Issuer) (w : Word)
  | ybar (i : Issuer) (w : Word)
  | yexit (i : Issuer) (w : Word)
  -- Session engine
  | passTake (n : Fin 256)
  | batcherSelect
  | holdDue
  | energyPublication
  | publicationGap
  | placementRound
  | budgetReport
  | commitPoint (slot : Fin 1048576)
  | hotPageWritebackDone (slot : Fin 1048576)
  | sessionPagesReleased (slot : Fin 1048576)
  | migrationPacket (v : Fin 65536)
  | finalCommitRecord (v : Fin 65536)
  | migrationAcceptance (slot : Fin 1048576)
  | migrationRefusal (slot : Fin 1048576)
  -- Gate unit
  | gateReport
  | gateDispatchReceived (v : Fin 65536)
  | gateReturnReceived (v : Fin 65536)
  | gateReturnTimeout (tag : BitVec 32)
  -- Bays
  | subarrayAccess (b : Fin 256) (sub : Fin 2) (spar purlin : Option BayReq)
  | correctionWriteback (b : Fin 256) (sub : Fin 2)
  | cacheFillReturn (b : Fin 256) (bytes : List Byte) (ue : BitVec 32)
  | scrubLine (b : Fin 256) (sub : Fin 2)
  | lateScrub (b : Fin 256)
  | bucketLeak
  | bayWatchdog (b : Fin 256)
  | bayInternalError (b : Fin 256)
  | baySelfCheckDone (b : Fin 256) (pass : Bool)
  | bayResetOverrun (b : Fin 256)
  | bayDrainComplete (b : Fin 256)
  | retirementComplete (n : Fin 256)
  -- Purlin, spar channels, eaves links
  | purlinFlitArrival (stop : Fin 272) (f : PFlit)
  | parityRefusal (h : Hop)
  | controlHandshakeError (n : Fin 256)
  | laneTestEnd (n : Fin 256) (bonds : List Nat)
  | sparResponse (n : Fin 256) (idx : Nat) (withdrawn : Bool)
  | eavesLockLoss (e : Fin 4)
  | eavesTakeoverComplete (e : Fin 4)
  -- Time
  | timeBeacon
  | beaconTimeout (reader : Nat)
  | referenceLoss
  | referenceReturn
  | holdoverExpiry
  | monitorReading (q : Fin 81) (i : Fin 4) (margin : Byte) (stepPs : BitVec 16)
  | monitorFail (q : Fin 81) (i : Fin 4)
  -- Boundary queues
  | queueWordWrite (q : Fin 60) (w : Word) (parity : Bool) (endm : Bool) (vb : BitVec 3)
  | queueWordRead (q : Fin 60)
  | packItem (q : Fin 60) (item : List Byte) (endm : Bool)
  | queueTimeout (q : Fin 60)
  -- HBM
  | hbmRequestAccept (s : Fin 8) (r : HReq)
  | hbmSchedule (s : Fin 8) (pc : Fin 32)
  | hbmReadReturn (s : Fin 8) (pc : Fin 32) (parityBad : Bool) (ue : BitVec 32) (ce : Nat) (tctl : Nat)
  | hbmWriteAge (s : Fin 8) (pc : Fin 32)
  | perBankRefresh (s : Fin 8) (pc : Fin 32)
  | hbmPowerDown (s : Fin 8) (pc : Fin 32)
  | hbmWindowBoundary (s : Fin 8)
  | hbmRetrainDone (s : Fin 8) (ok : Bool)
  -- Power
  | feedUndervoltage (f : Fin 2) (v : BitVec 16)
  | feedOvervoltage (f : Fin 2) (v : BitVec 16)
  | feedReclose (f : Fin 2) (v : BitVec 16)
  | phaseFailure (ph : Fin 8)
  | busCollapse (vbus : BitVec 16)
  | cellFailure (c : Fin 516) (cause : Fin 5)
  | powerOnRequest (q : Fin 81)
  | deferTimeout
  | headerStageClose
  | courseLive (q : Fin 81)
  | voltageLoopTick (pmod : Nat) (meas : List CourseMeas)
  | courseIdle (q : Fin 64)
  -- Heat and housekeeping
  | hkChannelRead (r : HkReading)
  | housekeepingLapEnd
  | faultRecordProgrammed
  | sectorEraseDone
  | slateSweepStart (n : Fin 256) (sl : Fin 8)
  | slateSweepEnd (n : Fin 256) (sl : Fin 8) (pass : Bool)
  -- Urgen links
  | frameReceived (p : Fin 13) (f : Frame)
  | flitTransmit (p : Fin 13)
  | nakRepeat (p : Fin 13)
  | nak (p : Fin 13) (busy : Bool) (sq : BitVec 16)
  | notReady (p : Fin 13) (us : BitVec 32)
  | portPauseEnd (p : Fin 13)
  | depart (p : Fin 13) (w1 w2 w3 : Word)
  | txeq (p : Fin 13) (arg : BitVec 32)
  | retrainDone (p : Fin 13) (ok : Bool)
  | linkLockLoss (p : Fin 13)
  | detect (p : Fin 13)
  | level (p : Fin 13) (gen : Fin 8) (maxlvl : Fin 4) (dev : BitVec 16) (pport : Fin 13)
  | eq (p : Fin 13)
  | align (p : Fin 13)
  | qual (p : Fin 13)
  | trainingTimeout (p : Fin 13)
  -- Host port
  | rrd (tag : BitVec 12) (addr : BitVec 40)
  | rwr (addr : BitVec 40) (v : Word)
  | mcpl (tag : BitVec 12) (bytes : List Byte) (last : Bool)
  | mrdTimeout (tag : BitVec 12)
  | mrdRetry (tag : BitVec 12)
  -- Valleys
  | connect (c : VCtl)
  | connack (c : VCtl)
  | connectRepeat (v : Fin 65536)
  | joinTimeout (v : Fin 65536)
  | credit (c : VCtl)
  | done (c : VCtl)
  | gap (c : VCtl)
  | close (c : VCtl)
  | refuse (c : VCtl)
  | creditTimer (v : Fin 65536)
  | valleyRto (v : Fin 65536)
  | valleyPacketSend (v : Fin 65536)
  | streamPacket (p : VPkt)
  | put (p : VPkt)
  | get (p : VPkt)
  | getdata (p : VPkt)
  | reducePacket (p : VPkt)
  | departRepeat
  -- Reset and bring-up
  | resetRelease
  | deviceReset
  | standbyUp
  | feedSwitchClose (f : Fin 2) (v : BitVec 16)
  | feed (failed : BitVec 8) (busOk : Bool) (path0 path1 : BitVec 16)
  | feedRetry
  | ridge (locked : Bool) (badFuse : Option (BitVec 16)) (idok : Bool)
  | image (cut : Fin 4096)
  | truss (o : TrussOut)
  | eavesTrainTimeout (e : Fin 4)
  | spar (o : SparOut)
  | hbm
  | firmwareTraining (s : Fin 8) (rate : Fin 4)
  | link
  | linkStepTimeout
  | qualify
  | load
  | pieceBroadcast (dropped : List Nat)
  | endMark
  | repairRoundDone (n : Fin 256) (ok : Bool)
  | seal
  | write
  | rmw
  | wait
  | waitMet
  | stageTimeout
  | delay
  | delayEnd
  | block
  | copy
  | trainingSaveWrite
  | rollbackBitBlown (fuses : Fin 3)
  | rbgHealthFail
  -- Sideband and boundary scan
  | sidebandRefresh (inlet outlet conv flash : BitVec 16)
  | smbStatus
  | smbFeedCause
  | smbFeedAttempts
  | smbFeed0Voltage
  | smbFeed1Voltage
  | smbModulePower
  | smbFaultRecord
  | smbBlockSelect (n : Byte)
  | smbTemperatures
  | smbDeviceId
  | smbFru
  | bypass
  | idcode
  | samplePreload
  | extest
  | clamp
  | highz
  -- Faults added at the table's end
  | hbmWriteParityFailure (s : Fin 8) (pc : Fin 32)
  | hbmPhyFailure (s : Fin 8)
  | codewordLockLoss (p : Fin 13) (lane : Fin 8)
  deriving DecidableEq, Repr

end Sys2Proof
end

