-- ==== Sys2Proof/Decode.lean ====
section
/-! DEFINITION. The command that a word spells by the table's bits. No row of spec/opcode_table.json gives
bits, so no word spells a command (assumption log 18). -/

namespace Sys2Proof

/-- The command that a word of `nbits` bits spells by spec/opcode_table.json: none of its rows gives bits. -/
def decodeTableWord (nbits w : Nat) : Option Instr :=
  match nbits, w with
  | _, _ => none

end Sys2Proof
end

