-- ==== Sys2Proof/Machine/Bits.lean ====
section
/-! DEFINITION. Bit fields, byte order and small list helpers. Everything on the device is
little-endian (R66, R115, R125): the first byte of a word is its bits [7:0]. -/

namespace Sys2Proof.Machine

/-- Bits [lo + n - 1 : lo] of a word, as a number. -/
def fld (w : Word) (lo n : Nat) : Nat := (w.toNat / 2 ^ lo) % 2 ^ n

/-- Bit `i` of a word. -/
def bitOf (w : Word) (i : Nat) : Bool := w.getLsbD i

/-- A word with ones in bits [lo + n - 1 : lo]. -/
def maskOf (lo n : Nat) : Word := BitVec.ofNat 64 ((2 ^ n - 1) * 2 ^ lo)

/-- `w` with bits [lo + n - 1 : lo] set to `v` modulo 2^n. -/
def setFld (w : Word) (lo n v : Nat) : Word :=
  (w &&& ~~~(maskOf lo n)) ||| BitVec.ofNat 64 ((v % 2 ^ n) * 2 ^ lo)

/-- `w` with bit `i` set to `b`. -/
def setBit (w : Word) (i : Nat) (b : Bool) : Word := setFld w i 1 (if b then 1 else 0)

/-- A word from fields (low bit, width, value) that do not overlap. -/
def mkWord (fs : List (Nat × Nat × Nat)) : Word := fs.foldl (fun w f => setFld w f.1 f.2.1 f.2.2) 0

/-- A truth value as a bit. -/
def b2n (b : Bool) : Nat := if b then 1 else 0

/-- The number that `n` bytes spell, first byte lowest. -/
def bytesNat : List Byte → Nat
  | [] => 0
  | b :: bs => b.toNat + 256 * bytesNat bs

/-- The word that up to eight bytes spell. -/
def bytesWord (bs : List Byte) : Word := BitVec.ofNat 64 (bytesNat bs)

/-- The low `n` bytes of a number, first byte lowest. -/
def natBytes : Nat → Nat → List Byte
  | _, 0 => []
  | v, n + 1 => BitVec.ofNat 8 v :: natBytes (v / 256) n

/-- The eight bytes of a word. -/
def wordBytes (w : Word) : List Byte := natBytes w.toNat 8

/-- Bytes cut into `n` words. -/
def bytesWords (bs : List Byte) : Nat → List Word
  | 0 => []
  | n + 1 => bytesWord (bs.take 8) :: bytesWords (bs.drop 8) n

/-- The bytes of a list of words. -/
def wordsBytes (ws : List Word) : List Byte := ws.flatMap wordBytes

/-- Sign extension of the low `n` bits of a number. -/
def sext (n v : Nat) : Int := let x := v % 2 ^ n; if x < 2 ^ (n - 1) then (x : Int) else (x : Int) - 2 ^ n

/-- A list's element at `i`, or `d`. -/
def nth {α : Type} (l : List α) (i : Nat) (d : α) : α := (l[i]?).getD d

/-- The parity bit of a word: 1 where the word has an odd number of ones. -/
def xorBits (w : Word) : Bool := ((List.range 64).filter (bitOf w)).length % 2 = 1

/-- The number of ones among the low `n` bits of a number. -/
def popcount (v n : Nat) : Nat := ((List.range n).filter (fun i => v.testBit i)).length

/-- The values 0 to n - 1 for which `p` holds. -/
def idxs (n : Nat) (p : Nat → Bool) : List Nat := (List.range n).filter p

/-- A number clamped into [lo, hi]. -/
def clampN (v lo hi : Nat) : Nat := max lo (min hi v)

/-- A saturating increment of a field of width `n`. -/
def satAdd (n v k : Nat) : Nat := min (2 ^ n - 1) (v + k)

/-- The least element of a list of numbers by a key; `none` of an empty list. The first of equals wins. -/
def leastBy {α : Type} (key : α → Nat) : List α → Option α
  | [] => none
  | a :: l =>
    match leastBy key l with
    | none => some a
    | some b => if key a ≤ key b then some a else some b

/-- The list with the first element satisfying `p` removed. -/
def dropFirst {α : Type} (p : α → Bool) : List α → List α
  | [] => []
  | a :: l => if p a then l else a :: dropFirst p l

/-- The list with every element satisfying `p` changed by `f`. -/
def mapIf {α : Type} (p : α → Bool) (f : α → α) (l : List α) : List α := l.map fun a => if p a then f a else a

end Sys2Proof.Machine
end

