-- ==== Sys2Proof/Config.lean ====
section
/-! DEFINITION. What an implementation fixes and the spec leaves open: free values and functions whose
definition lies in a standard the spec only names. None has a body, so no proof can see its value. -/

namespace Sys2Proof.Config

/-- The free values, numbered by `State.free`: random draws (R175, R237, R454, R506), results within a
bound, and values the spec leaves undefined (assumption log 10). -/
opaque free : Nat → Word

/-- Whether an ECDSA P-521 signature verifies: public key, SHA-512 digest, signature, as bytes (R499). -/
opaque ecdsaVerify : List Byte → List Byte → List Byte → Bool

/-- The private scalar of the identity key, from the words of its wrapped form in the fuses and the wrap key that the engine
reconstructs (R498, R500). -/
opaque unwrapKey : List (Nat × Word) → List Byte

/-- A private key's ECDSA signature of a digest: the bytes of r and s; the draw of the random bit generator is its second
argument (R499, R508). -/
opaque identitySign : List Byte → Nat → List Byte → List Byte

/-- The measurement of the boot ROM, fixed in manufacture (R509). -/
opaque romMeasure : BitVec 512

/-- The index that the notice ring gives a master that is neither a rafter nor a port, such as the
stage list: R518 names only rafters and ports (assumption log 13). -/
opaque stageSource : BitVec 12

/-- The spare lanes for lane repair that channel `pc` of stack `s` still has (R314 names no count). -/
opaque hbmSpares : Nat → Nat → Nat

/-- The per-bank refresh cycle time of the stacks fitted, ns; it is at most 200 (R310), and JESD238 gives it. -/
opaque refreshNs : Nat

end Sys2Proof.Config
end

