-- ==== Sys2Proof/Machine/RegMap.lean ====
section
/-! DEFINITION. The register map (R525-R533): every register with its place, its reset value and, for each
access type of R14, the bits that have it. A bit in none of the masks is RO or reserved. -/

namespace Sys2Proof.Machine

/-- The registers of R529-R531, each in the order of its table. -/
inductive Reg
  | sysState | sysDcnt | sysRefstat | bootCtl | bootGo | bootStat | bootLsrc | bootFwaddr | bootFwdata
  | bootSppropd | bootXqCtl | bootXqStat | bootXwqCtl | bootXwqStat | secStat | secPctl | secPidx
  | secPdata | secIdidx | secIddata | hkValn | thmTlim | thmRlim | thmActl | thmqAcct | thmqStat | pwrMctl
  | pwrCtl | pwrBus | pwrFeedf | pwrqSlack | pwrqVctl | pwrqVstat | lnkCtl | lnkQual | lnkpCtl | lnkpStat
  | lnkpErr | lnkpHidx | lnkpHdata | lnkpRxqCtl | lnkpRxqStat | lnkpTxqCtl | lnkpTxqStat | vlyDevid
  | vlyCtl | vlyStat | vlyEidx | vlyEdata | vlyRtidx | vlyRtdata | eaveRrxqCtl | eaveRrxqStat | eaveRtxqCtl
  | eaveRtxqStat | monCtl | monNctl | monNbase | monNhead | monNtail | monNstat | monLctl | monLidx
  | monLdata | monRselk | monRcntk | eaveTrxqCtl | eaveTrxqStat | eaveTtxqCtl | eaveTtxqStat | hubSpared
  | hubRetired | bayWaycfg | bayCtl | baybScrub | baybStat | sprCtl | sprnStat | hbmCtl | hbmsStat
  | hbmsQlvl | hbmsPoison | hbmsRdqCtl | hbmsRdqStat | hbmsWrqCtl | hbmsWrqStat | qosChcls | qosMcls
  | qosSust | qosClsc | qosStatc | qosRdbc | qosWrbc | sesStat | sesKvbase | sesKvcount | sesKvfree
  | sesPlbase | sesKvmax | sesHotbase | sesHotcount | sesDrbase | sesrRctl | sesrCbase | sesrKbase
  | sesrCtail | sesrChead | sesrKhead | sesrKtail | batCtl | batEtidx | batEtdata | batPlidx | batPldata
  | batPlctl | batSiidx | batSidata | batcClass | batcSpec | gateEidx | gateEdata | gateRaoff | gateIbase
  | gateIctl | gateCtl | gateStat | gateThdrt | eccLbctl | eccbStat | eccbAddr | monTselk | monTcntk
  | monHselj | monHcntj | rafnStat | rafnPbase | rafnPeek | rafnPeekd | rafnSkip | rafnVopen | rafnShadow
  | rafnWrel | rafnWink | sltnStat | sltnExc | ylmnStat | ylmnPeek | ylmnPeekd | stmnCstatc | monnSelk
  | monnCntk
  deriving DecidableEq, Repr

/-- A register's row: its offset from 0xF0_0000_0000, the stride and the number of its instances (two
dimensions: block and item), its reset value, and its masks of RW, SW, W1C, WO and RCL bits. -/
structure RegRow where
  base  : Nat
  s1    : Nat := 0
  c1    : Nat := 1
  s2    : Nat := 0
  c2    : Nat := 1
  reset : Word := 0
  rw    : Word := 0
  sw    : Word := 0
  w1c   : Word := 0
  wo    : Word := 0
  rcl   : Word := 0
  deriving DecidableEq, Repr

/-- The register map. The grade-dependent fields read 0 before RIDGE (R532). -/
def regRow : Reg → RegRow
  | .sysState => { base := 0 }
  | .sysDcnt => { base := 0x8 }
  | .sysRefstat => { base := 0x10, w1c := 0x2 }
  | .bootCtl => { base := 0x100000, reset := 0x96006400000001, sw := 0xFFFFFFFF0000FFFF }
  | .bootGo => { base := 0x100008, wo := 0x1F }
  | .bootStat => { base := 0x100010, reset := 0x1000000000000000 }
  | .bootLsrc => { base := 0x100018, rw := 0xFFFFFFFFFFFFF000 }
  | .bootFwaddr => { base := 0x100020, rw := 0x7FFFFFF }
  | .bootFwdata => { base := 0x100028, wo := 0xFFFFFFFFFFFFFFFF }
  | .bootSppropd => { base := 0x100040, s1 := 0x8, c1 := 4 }
  | .bootXqCtl => { base := 0x100100, reset := 0x10000010000000, sw := 0xFFFFFFFF08000000, wo := 0x4000000 }
  | .bootXqStat => { base := 0x100108, reset := 0x200000000000020, w1c := 0x80 }
  | .bootXwqCtl => { base := 0x100110, reset := 0x40000000, sw := 0xFFFFFFFF08000000, wo := 0x4000000 }
  | .bootXwqStat => { base := 0x100118, reset := 0x200000000000020, w1c := 0x80 }
  | .secStat => { base := 0x200000 }
  | .secPctl => { base := 0x200008, sw := 0x8000000000000000 }
  | .secPidx => { base := 0x200010, sw := 0x3F }
  | .secPdata => { base := 0x200018, sw := 0xFFFFFFFFFFFFFFFF }
  | .secIdidx => { base := 0x200020, rw := 0x3F }
  | .secIddata => { base := 0x200028 }
  | .hkValn => { base := 0x300000, s1 := 0x8, c1 := 1024 }
  | .thmTlim => { base := 0x400000, reset := 0x5A646E7600000000, sw := 0xFFFFFFFF00000000 }
  | .thmRlim => { base := 0x400008, reset := 0xC183C0000000000, sw := 0xFFFFFF0000000000 }
  | .thmActl => { base := 0x400010, reset := 0x410000000000000, sw := 0xFFFF000000000000 }
  | .thmqAcct => { base := 0x400400, s1 := 0x8, c1 := 80 }
  | .thmqStat => { base := 0x400800, s1 := 0x8, c1 := 81 }
  | .pwrMctl => { base := 0x500000, reset := 0x8, sw := 0xFF }
  | .pwrCtl => { base := 0x500008, reset := 0x1020, sw := 0xFFFF00000000FFF0 }
  | .pwrBus => { base := 0x500010, rcl := 0xFFFF }
  | .pwrFeedf => { base := 0x500020, s1 := 0x8, c1 := 2 }
  | .pwrqSlack => { base := 0x500400, s1 := 0x8, c1 := 81, reset := 0xFF0000, rcl := 0xFF0000 }
  | .pwrqVctl => { base := 0x500800, s1 := 0x8, c1 := 81, reset := 0x26C000000000000, sw := 0xFFFFFFC000000000 }
  | .pwrqVstat => { base := 0x500C00, s1 := 0x8, c1 := 81 }
  | .lnkCtl => { base := 0x600000, reset := 0xFE00000000000000, sw := 0xFE00000000000000 }
  | .lnkQual => { base := 0x600008, reset := 0xC8271090000000, sw := 0xFFFFFFFFFFFF0000 }
  | .lnkpCtl => { base := 0x601000, s1 := 0x100, c1 := 13, reset := 0xE000000000000000, sw := 0xE000000000000000, wo := 0x1000000000000000 }
  | .lnkpStat => { base := 0x601008, s1 := 0x100, c1 := 13 }
  | .lnkpErr => { base := 0x601010, s1 := 0x100, c1 := 13 }
  | .lnkpHidx => { base := 0x601018, s1 := 0x100, c1 := 13, rw := 0x71F }
  | .lnkpHdata => { base := 0x601020, s1 := 0x100, c1 := 13 }
  | .lnkpRxqCtl => { base := 0x601040, s1 := 0x100, c1 := 13, reset := 0x10000000000000, sw := 0xFFFFFFFF08000000, wo := 0x4000000 }
  | .lnkpRxqStat => { base := 0x601048, s1 := 0x100, c1 := 13, reset := 0x400000000000020, w1c := 0x80 }
  | .lnkpTxqCtl => { base := 0x601050, s1 := 0x100, c1 := 13, sw := 0xFFFFFFFF08000000, wo := 0x4000000 }
  | .lnkpTxqStat => { base := 0x601058, s1 := 0x100, c1 := 13, reset := 0x400000000000020, w1c := 0x80 }
  | .vlyDevid => { base := 0x700000, reset := 0xFFFF, sw := 0xFFFF }
  | .vlyCtl => { base := 0x700008, reset := 0x3E8000800140000, rw := 0xFFFFFFFFFFFF0000 }
  | .vlyStat => { base := 0x700010, rcl := 0x3FFFFFFFF }
  | .vlyEidx => { base := 0x700018, rw := 0xFFFF }
  | .vlyEdata => { base := 0x700020 }
  | .vlyRtidx => { base := 0x700028, rw := 0xFFFF }
  | .vlyRtdata => { base := 0x700030, rw := 0xFFFFFFFF }
  | .eaveRrxqCtl => { base := 0x900000, s1 := 0x40, c1 := 4, reset := 0x10000000000000, sw := 0xFFFFFFFF08000000, wo := 0x4000000 }
  | .eaveRrxqStat => { base := 0x900008, s1 := 0x40, c1 := 4, reset := 0x800000000000020, w1c := 0x80 }
  | .eaveRtxqCtl => { base := 0x900010, s1 := 0x40, c1 := 4, sw := 0xFFFFFFFF08000000, wo := 0x4000000 }
  | .eaveRtxqStat => { base := 0x900018, s1 := 0x40, c1 := 4, reset := 0x800000000000020, w1c := 0x80 }
  | .monCtl => { base := 0xA00000, rw := 0x8000000000000000 }
  | .monNctl => { base := 0xA00008, reset := 0x2800000000000000, rw := 0xFC00000000000000 }
  | .monNbase => { base := 0xA00010, rw := 0xFFFFFFFFFFFFFFFF }
  | .monNhead => { base := 0xA00018, rw := 0xFFFF }
  | .monNtail => { base := 0xA00020 }
  | .monNstat => { base := 0xA00028, rcl := 0xFFFFFFFF00000000 }
  | .monLctl => { base := 0xA00030, sw := 0x800000FFFFFE0000 }
  | .monLidx => { base := 0xA00038, rw := 0x3FFF }
  | .monLdata => { base := 0xA00040 }
  | .monRselk => { base := 0xA00100, s1 := 0x8, c1 := 32, rw := 0x80000000FFFF03FF }
  | .monRcntk => { base := 0xA00200, s1 := 0x8, c1 := 32, rw := 0xFFFFFFFFFFFF, w1c := 0x8000000000000000 }
  | .eaveTrxqCtl => { base := 0x10000000, s1 := 0x40, c1 := 4, reset := 0x10000000000000, sw := 0xFFFFFFFF08000000, wo := 0x4000000 }
  | .eaveTrxqStat => { base := 0x10000008, s1 := 0x40, c1 := 4, reset := 0x800000000000020, w1c := 0x80 }
  | .eaveTtxqCtl => { base := 0x10000010, s1 := 0x40, c1 := 4, sw := 0xFFFFFFFF08000000, wo := 0x4000000 }
  | .eaveTtxqStat => { base := 0x10000018, s1 := 0x40, c1 := 4, reset := 0x800000000000020, w1c := 0x80 }
  | .hubSpared => { base := 0x10200000, s1 := 0x8, c1 := 4, sw := 0xBF00BF00 }
  | .hubRetired => { base := 0x10200040, s1 := 0x8, c1 := 4 }
  | .bayWaycfg => { base := 0x10300000, sw := 0x7FFFFF }
  | .bayCtl => { base := 0x10300008, reset := 0x3E000003E80000, sw := 0xFFFF0000FFFF0000 }
  | .baybScrub => { base := 0x10300800, s1 := 0x8, c1 := 256, reset := 0xFFFFFFFF00000000, w1c := 0x8000 }
  | .baybStat => { base := 0x10301000, s1 := 0x8, c1 := 256 }
  | .sprCtl => { base := 0x10400000, reset := 0x8, sw := 0xFF }
  | .sprnStat => { base := 0x10400800, s1 := 0x8, c1 := 256 }
  | .hbmCtl => { base := 0x10500000, reset := 0xC040041000000000, sw := 0xFFFFFFFFC0000000 }
  | .hbmsStat => { base := 0x10501000, s1 := 0x100, c1 := 8 }
  | .hbmsQlvl => { base := 0x10501008, s1 := 0x100, c1 := 8, rcl := 0x3FF00000000 }
  | .hbmsPoison => { base := 0x10501010, s1 := 0x100, c1 := 8, w1c := 0x10000 }
  | .hbmsRdqCtl => { base := 0x10501040, s1 := 0x100, c1 := 8, sw := 0xFFFFFFFF08000000, wo := 0x4000000 }
  | .hbmsRdqStat => { base := 0x10501048, s1 := 0x100, c1 := 8, reset := 0x800000000000020, w1c := 0x80 }
  | .hbmsWrqCtl => { base := 0x10501050, s1 := 0x100, c1 := 8, sw := 0xFFFFFFFF08000000, wo := 0x4000000 }
  | .hbmsWrqStat => { base := 0x10501058, s1 := 0x100, c1 := 8, reset := 0x800000000000020, w1c := 0x80 }
  | .qosChcls => { base := 0x10600000, reset := 0x8888888888888888, sw := 0xFFFFFFFFFFFFFFFF }
  | .qosMcls => { base := 0x10600008, reset := 0x44012F, sw := 0xFFFFFF }
  | .qosSust => { base := 0x10600010 }
  | .qosClsc => { base := 0x10600100, s1 := 0x8, c1 := 16, reset := 0x1F40000080000000, sw := 0xFFFFFFFF80000000 }
  | .qosStatc => { base := 0x10600200, s1 := 0x8, c1 := 16, reset := 0x1F40000000000000 }
  | .qosRdbc => { base := 0x10600300, s1 := 0x8, c1 := 16 }
  | .qosWrbc => { base := 0x10600400, s1 := 0x8, c1 := 16 }
  | .sesStat => { base := 0x10700000 }
  | .sesKvbase => { base := 0x10700008, sw := 0xFFFFFF0000 }
  | .sesKvcount => { base := 0x10700010, sw := 0x3FFFFF }
  | .sesKvfree => { base := 0x10700018 }
  | .sesPlbase => { base := 0x10700020, sw := 0xFFFFFFFFC0 }
  | .sesKvmax => { base := 0x10700028, reset := 0x100, sw := 0x1FFF }
  | .sesHotbase => { base := 0x10700030, sw := 0x1FFFF }
  | .sesHotcount => { base := 0x10700038, sw := 0x1FFFF }
  | .sesDrbase => { base := 0x10700040, sw := 0xFFFFFFFF80 }
  | .sesrRctl => { base := 0x10701000, s1 := 0x40, c1 := 16, reset := 0x18C0000000000000, rw := 0xFFE0000000000000 }
  | .sesrCbase => { base := 0x10701008, s1 := 0x40, c1 := 16, rw := 0xFFFFFFFFFFFFFFFF }
  | .sesrKbase => { base := 0x10701010, s1 := 0x40, c1 := 16, rw := 0xFFFFFFFFFFFFFFFF }
  | .sesrCtail => { base := 0x10701018, s1 := 0x40, c1 := 16, rw := 0xFFFF }
  | .sesrChead => { base := 0x10701020, s1 := 0x40, c1 := 16 }
  | .sesrKhead => { base := 0x10701028, s1 := 0x40, c1 := 16, rw := 0xFFFF }
  | .sesrKtail => { base := 0x10701030, s1 := 0x40, c1 := 16 }
  | .batCtl => { base := 0x10800000, reset := 0x8, sw := 0x1F }
  | .batEtidx => { base := 0x10800008, sw := 0xFFF }
  | .batEtdata => { base := 0x10800010, sw := 0xFFFFFFFF }
  | .batPlidx => { base := 0x10800018, sw := 0xFF }
  | .batPldata => { base := 0x10800020, sw := 0xFFFFFFFC00000000 }
  | .batPlctl => { base := 0x10800028, reset := 0x80402000040, sw := 0x8000FFFFFF00FFFF }
  | .batSiidx => { base := 0x10800030, sw := 0xFF }
  | .batSidata => { base := 0x10800038, sw := 0x80FF000000000000 }
  | .batcClass => { base := 0x10800100, s1 := 0x8, c1 := 8, sw := 0xFFFFFFFFFFFF0000 }
  | .batcSpec => { base := 0x10800200, s1 := 0x8, c1 := 8, sw := 0xF }
  | .gateEidx => { base := 0x10900000, rw := 0x1FFFF }
  | .gateEdata => { base := 0x10900008, rw := 0xFFFFFFFFFFFFFFFF }
  | .gateRaoff => { base := 0x10900010, sw := 0x1FFF000 }
  | .gateIbase => { base := 0x10900018, sw := 0xFFFFFFFFC0 }
  | .gateIctl => { base := 0x10900020, sw := 0x3FFF0FFF }
  | .gateCtl => { base := 0x10900028, reset := 0x64000000000000, rw := 0xFFFF000000000000 }
  | .gateStat => { base := 0x10900030, rcl := 0xFFFFFFFF }
  | .gateThdrt => { base := 0x10900400, s1 := 0x8, c1 := 128, sw := 0xFFFFFFFFFFFFE000 }
  | .eccLbctl => { base := 0x10A00000, reset := 0xA0010, sw := 0x3FF00FF }
  | .eccbStat => { base := 0x10A00800, s1 := 0x8, c1 := 256, w1c := 0x1 }
  | .eccbAddr => { base := 0x10A01000, s1 := 0x8, c1 := 256 }
  | .monTselk => { base := 0x10B00000, s1 := 0x8, c1 := 64, rw := 0x80000000FFFF03FF }
  | .monTcntk => { base := 0x10B00200, s1 := 0x8, c1 := 64, rw := 0xFFFFFFFFFFFF, w1c := 0x8000000000000000 }
  | .monHselj => { base := 0x10B00400, s1 := 0x8, c1 := 64, rw := 0x80000000FFFF03FF }
  | .monHcntj => { base := 0x10B00600, s1 := 0x8, c1 := 64, rw := 0xFFFFFFFFFFFF, w1c := 0x8000000000000000 }
  | .rafnStat => { base := 0x40000000, s1 := 0x100000, c1 := 256 }
  | .rafnPbase => { base := 0x40000008, s1 := 0x100000, c1 := 256, sw := 0xFFFFFFF000 }
  | .rafnPeek => { base := 0x40000010, s1 := 0x100000, c1 := 256, rw := 0xC0000000000FFFFF }
  | .rafnPeekd => { base := 0x40000018, s1 := 0x100000, c1 := 256 }
  | .rafnSkip => { base := 0x40000020, s1 := 0x100000, c1 := 256, rw := 0xF0000000FFFF }
  | .rafnVopen => { base := 0x40000028, s1 := 0x100000, c1 := 256, rw := 0x1FFFFFFF }
  | .rafnShadow => { base := 0x40000030, s1 := 0x100000, c1 := 256 }
  | .rafnWrel => { base := 0x40000038, s1 := 0x100000, c1 := 256, rw := 0xFFFFFFFF }
  | .rafnWink => { base := 0x40000040, s1 := 0x100000, c1 := 256, s2 := 8, c2 := 8, sw := 0xC003FFFFFCFFFFFF }
  | .sltnStat => { base := 0x40001000, s1 := 0x100000, c1 := 256 }
  | .sltnExc => { base := 0x40001008, s1 := 0x100000, c1 := 256, w1c := 0xFFFFFF0000000000 }
  | .ylmnStat => { base := 0x40002000, s1 := 0x100000, c1 := 256 }
  | .ylmnPeek => { base := 0x40002008, s1 := 0x100000, c1 := 256, rw := 0xFFFE000000000000 }
  | .ylmnPeekd => { base := 0x40002010, s1 := 0x100000, c1 := 256 }
  | .stmnCstatc => { base := 0x40003000, s1 := 0x100000, c1 := 256, s2 := 8, c2 := 16 }
  | .monnSelk => { base := 0x40004000, s1 := 0x100000, c1 := 256, s2 := 8, c2 := 8, rw := 0x80000000000003FF }
  | .monnCntk => { base := 0x40004040, s1 := 0x100000, c1 := 256, s2 := 8, c2 := 8, rw := 0xFFFFFFFFFFFF, w1c := 0x8000000000000000 }

/-- The registers of R529. -/
def ridgeRegs : List Reg :=
  [.sysState, .sysDcnt, .sysRefstat, .bootCtl, .bootGo, .bootStat,
    .bootLsrc, .bootFwaddr, .bootFwdata, .bootSppropd, .bootXqCtl, .bootXqStat,
    .bootXwqCtl, .bootXwqStat, .secStat, .secPctl, .secPidx, .secPdata,
    .secIdidx, .secIddata, .hkValn, .thmTlim, .thmRlim, .thmActl,
    .thmqAcct, .thmqStat, .pwrMctl, .pwrCtl, .pwrBus, .pwrFeedf,
    .pwrqSlack, .pwrqVctl, .pwrqVstat, .lnkCtl, .lnkQual, .lnkpCtl,
    .lnkpStat, .lnkpErr, .lnkpHidx, .lnkpHdata, .lnkpRxqCtl, .lnkpRxqStat,
    .lnkpTxqCtl, .lnkpTxqStat, .vlyDevid, .vlyCtl, .vlyStat, .vlyEidx,
    .vlyEdata, .vlyRtidx, .vlyRtdata, .eaveRrxqCtl, .eaveRrxqStat, .eaveRtxqCtl,
    .eaveRtxqStat, .monCtl, .monNctl, .monNbase, .monNhead, .monNtail,
    .monNstat, .monLctl, .monLidx, .monLdata, .monRselk, .monRcntk]

/-- The registers of R530. -/
def trussRegs : List Reg :=
  [.eaveTrxqCtl, .eaveTrxqStat, .eaveTtxqCtl, .eaveTtxqStat, .hubSpared, .hubRetired,
    .bayWaycfg, .bayCtl, .baybScrub, .baybStat, .sprCtl, .sprnStat,
    .hbmCtl, .hbmsStat, .hbmsQlvl, .hbmsPoison, .hbmsRdqCtl, .hbmsRdqStat,
    .hbmsWrqCtl, .hbmsWrqStat, .qosChcls, .qosMcls, .qosSust, .qosClsc,
    .qosStatc, .qosRdbc, .qosWrbc, .sesStat, .sesKvbase, .sesKvcount,
    .sesKvfree, .sesPlbase, .sesKvmax, .sesHotbase, .sesHotcount, .sesDrbase,
    .sesrRctl, .sesrCbase, .sesrKbase, .sesrCtail, .sesrChead, .sesrKhead,
    .sesrKtail, .batCtl, .batEtidx, .batEtdata, .batPlidx, .batPldata,
    .batPlctl, .batSiidx, .batSidata, .batcClass, .batcSpec, .gateEidx,
    .gateEdata, .gateRaoff, .gateIbase, .gateIctl, .gateCtl, .gateStat,
    .gateThdrt, .eccLbctl, .eccbStat, .eccbAddr, .monTselk, .monTcntk,
    .monHselj, .monHcntj]

/-- The registers of R531. -/
def rafterRegs : List Reg :=
  [.rafnStat, .rafnPbase, .rafnPeek, .rafnPeekd, .rafnSkip, .rafnVopen,
    .rafnShadow, .rafnWrel, .rafnWink, .sltnStat, .sltnExc, .ylmnStat,
    .ylmnPeek, .ylmnPeekd, .stmnCstatc, .monnSelk, .monnCntk]

/-- Every register of the map. -/
def allRegs : List Reg := ridgeRegs ++ trussRegs ++ rafterRegs

/-- A register of the map, with its block instance and its item. -/
structure RegAt where
  reg : Reg
  i   : Nat
  j   : Nat
  deriving DecidableEq, Repr

/-- The offset of instance `i`, item `j` of a register. -/
def regOff (r : Reg) (i j : Nat) : Nat := (regRow r).base + i * (regRow r).s1 + j * (regRow r).s2

/-- Whether an offset is one of the register's, and which. -/
def regMatch (r : Reg) (off : Nat) : Option RegAt :=
  let w := regRow r
  if off < w.base then none else
  let d := off - w.base
  let i := if w.s1 = 0 then 0 else min (d / w.s1) (w.c1 - 1)
  let e := d - i * w.s1
  let j := if w.s2 = 0 then 0 else min (e / w.s2) (w.c2 - 1)
  if e = j * w.s2 then some ⟨r, i, j⟩ else none

/-- The first register of a list that an offset names. -/
def regFind : List Reg → Nat → Option RegAt
  | [], _ => none
  | r :: rs, off => match regMatch r off with
    | some a => some a
    | none => regFind rs off

/-- The register that an 8-byte-aligned offset names; `none` where no table names it (R525). -/
def regAt (off : Nat) : Option RegAt := regFind allRegs off

/-- The class registers' reset values (R533). -/
def classReset (c : Nat) : Word :=
  if c = 0 then 0x004E200A001000A0 else if c = 1 then 0x0075301400100140
  else if c = 2 then 0x00C3502800100280 else if c = 3 then 0x0138805000100500
  else if c = 4 then 0x01D4C06400100640 else if c = 5 then 0x030D409600100960
  else if c = 6 then 0x07A120C800100C80 else 0x1E8480FA00100FA0

/-- The value after device reset of instance `i` of a register (R529-R533). -/
def regReset (r : Reg) (i : Nat) : Word := if r = .batcClass then classReset i else (regRow r).reset

end Sys2Proof.Machine
end

