-- ==== Sys2Proof/Machine/Parts.lean ====
section
/-! DEFINITION. The parts of the machine's state, one structure for each unit the spec describes. A
register of the register map (19_register_map.md) lives in `State.regs` and nowhere else; these
structures hold the state that is no register. Plain data only. -/

namespace Sys2Proof.Machine

/-! ## Grades and fuses -/

/-- The part numbers of R3. -/
inductive Grade
  | a7_15 | a7_12 | a7_09 | a7s_09
  deriving DecidableEq, Repr

/-- What the fuse array holds (R3, R4, R498, R505); `idPriv` is the wrapped private scalar of the identity key. Rollback bit `i` reads blown when either fuse of its
pair is blown. `slates` lists the slate masks of physical pairs that differ from the grade's. -/
structure Fuses where
  grade    : Grade := .a7_15
  serial   : BitVec 128 := 0
  rootHash : BitVec 512 := 0
  owners   : Tbl (BitVec 512) := []
  owned    : BitVec 4 := 0
  revoked  : BitVec 4 := 0
  partly   : BitVec 4 := 0
  rollA    : Word := 0
  rollB    : Word := 0
  idPub    : Tbl Word := []
  idPriv   : Tbl Word := []
  slates   : Tbl Byte := []
  deriving DecidableEq, Repr

/-! ## Time -/

/-- A timeout held by a reader on the Truss or Thatch dies (R54). -/
structure BTimeout where
  reader : Nat
  due    : Nat
  fired  : Bool := false
  deriving DecidableEq, Repr

/-- The duration counter, the beacon value its readers hold, and the holdover's start (R52-R55). -/
structure TimeSt where
  dcnt     : Word := 0
  beacon   : Word := 0
  lostAt   : Option Word := none
  timeouts : List BTimeout := []
  deriving DecidableEq, Repr

/-! ## Notices -/

/-- A notice record (R517); PHASE is added where it is written to the ring. -/
structure Notice where
  typ  : Nat
  src  : Nat
  time : Word
  w2   : Word := 0
  w3   : Word := 0
  deriving DecidableEq, Repr

/-! ## Host port transactions -/

/-- What the device sends on the host port, in issue order (R399, R400). -/
inductive HostTxn
  | mwr (addr : Word) (bytes : List Byte)
  | mrd (tag : BitVec 12) (addr : Word) (len : Nat)
  | rcpl (tag : BitVec 12) (addr : BitVec 40) (v : Word)
  deriving DecidableEq, Repr

/-- Notice bookkeeping (R471, R517-R523); `lined` has the transactions of ring entries that wait at their source for an eaves
takeover (R446). -/
structure NoticeSt where
  next      : BitVec 31 := 0
  held      : List Notice := []
  phase     : Bool := true
  dropFirst : Option (BitVec 31) := none
  dropCount : Nat := 0
  lined     : List HostTxn := []
  deriving DecidableEq, Repr

/-- What an MRD reads (R105, R108, R400, R470): the next entry of a ring, or bytes from an offset on of what the device fetches
for a ring's command (`k` = 0-15) or of the host image (`k` = 16). -/
inductive MrdUse
  | cmd (r : Fin 16) | data (k off : Nat)
  deriving DecidableEq, Repr

/-- A fetch of host memory by MRDs: where, how many bytes, how many have been asked for, and the pieces that have come, by
offset. -/
structure HFetch where
  addr  : Word
  len   : Nat
  cut   : Nat := 4096
  asked : Nat := 0
  parts : List (Nat × List Byte) := []
  deriving DecidableEq, Repr

/-- An outstanding or abandoned MRD (R400). -/
structure Mrd where
  tag  : BitVec 12
  addr : Word
  len  : Nat
  use  : MrdUse
  at_  : Word
  got  : List Byte := []
  dead : Option Word := none
  deriving DecidableEq, Repr

/-- A completion (R110), with its words 1 and 2; PHASE is added where it is written to the ring. -/
structure Comp where
  ring   : Fin 16
  kind   : Nat
  status : Nat
  cmdid  : Nat := 0
  handle : BitVec 32
  w1     : Word := 0
  w2     : Word := 0
  time   : Word
  deriving DecidableEq, Repr

/-- The host-access logic of port 12. `fetches` are the fetches under way or complete, by ring, 16 that of the host image;
`arrived` holds command entries read and not yet carried out, `comps` completions that wait for their ring (R105). -/
structure HostSt where
  tx      : List HostTxn := []
  mrds    : List Mrd := []
  fetches : Tbl (Option HFetch) := []
  nextTag : BitVec 12 := 0
  arrived : List (Fin 16 × Entry) := []
  comps   : List Comp := []
  phases  : BitVec 16 := 0xFFFF
  deriving DecidableEq, Repr

/-! ## Sessions -/

/-- The session states of R83. -/
inductive SesState
  | free | open | ready | running | waiting | parked | migrating | closing
  deriving DecidableEq, Repr

/-- What a WAITING session waits for (R83, R554). -/
inductive SesWait
  | none | gate | release
  deriving DecidableEq, Repr

/-- A session: the fields of its table entry (R82) and the engine's own bookkeeping for it. `base`
is KVPAGES at the last commit (R101), `pages` its page list (R87), `prompt` the appended tokens not yet
committed, `times` its commit times in the present lap (R95), `back` the state before MIGRATING, `hotIx`
the page-list index that the hot page copies, `wb` its write-back in flight and `olds` the copies of filled pages whose write-back is in flight, oldest first (R89), `took` the prompt tokens
and `gened` the tokens of a step whose last group has completed (`ended`), `counted` the tokens written
since the last completion (R110), `parking` a park that waits for its write-back, `move` a move due at its
next commit point (R442), `out` a slot out of use until reset (R443, R445); `skip` the groups to skip after
the present wait (R210); `ent` the entry as its last commit point wrote it (R99, R102). -/
structure Session where
  gen      : BitVec 12 := 1
  st       : SesState := .free
  cls      : Fin 8 := 0
  ring     : Fin 16 := 0
  lgrp     : BitVec 14 := 0
  start    : BitVec 14 := 0
  nrows    : Nat := 0
  redo     : Bool := false
  closeReq : Bool := false
  parkReq  : Bool := false
  pos      : BitVec 32 := 0
  budget   : BitVec 32 := 0
  cseq     : BitVec 32 := 0
  pend     : BitVec 32 := 0
  hot      : Option (BitVec 17) := none
  aux      : BitVec 32 := 0
  every    : Byte := 0
  since    : Byte := 0
  temp     : BitVec 16 := 0
  topk     : Byte := 0
  topp     : Byte := 0
  stoptok  : BitVec 32 := 0
  readyT   : Word := 0
  dest     : Word := 0
  wait     : SesWait := .none
  pages    : List Nat := []
  base     : Nat := 0
  prompt   : List (BitVec 32) := []
  last     : BitVec 32 := 0
  gened    : List (BitVec 32) := []
  took     : Nat := 0
  counted  : Nat := 0
  ended    : Bool := false
  times    : List Word := []
  back     : SesState := .open
  migRing  : Fin 16 := 0
  migPages : Nat := 0
  parking  : Bool := false
  hotIx    : Nat := 0
  wb       : Bool := false
  olds     : List (BitVec 17) := []
  skip     : Nat := 0
  move     : Bool := false
  out      : Bool := false
  ent      : List Word := []
  deriving DecidableEq, Repr

/-- A layer-group descriptor (R90). -/
structure LGroup where
  valid   : Bool := false
  first   : Bool := false
  next    : BitVec 14 := 0
  outside : Bool := false
  kind    : BitVec 4 := 0
  fmt     : BitVec 4 := 0
  entry   : BitVec 12 := 0
  rafters : BitVec 256 := 0
  units   : BitVec 32 := 0
  tokkv   : BitVec 32 := 0
  deriving DecidableEq, Repr

/-- One row block of a pass: a session with its rows, or one expert row (R204). For an expert row,
`tag` names the gate slot of a local row and `inbox` the inbox slot of a remote one; `live` is false
once the session's step has been discarded. -/
structure PRow where
  slot   : Nat
  handle : BitVec 32
  nrows  : Nat
  rowIx  : Nat
  tag    : Option (BitVec 32) := none
  inbox  : Option Nat := none
  live   : Bool := true
  deriving DecidableEq, Repr

/-- A pass dispatched and not yet reported by all of its rafters (R97, R118-R120). `targets` lists
(rafter, batch slot, pass number) of those that have not reported; `rep`, `repSlot` and `repNum` are those of
the reporting rafter (R195); `bound`: a fault or a freeze made it fail, so that the sessions of its local rows are bound
(R433). -/
structure Pass where
  id      : Nat
  group   : BitVec 14
  fill    : Nat
  rows    : List PRow
  targets : List (Nat × Nat × BitVec 32)
  rep     : Nat
  repSlot : Nat
  repNum  : BitVec 32 := 0
  expert  : Bool := false
  failed  : Bool := false
  bound   : Bool := false
  skip    : Word := 0
  deriving DecidableEq, Repr

/-- Session engine bookkeeping: the sessions, the layer-group table, passes, and what SEAL drew. -/
structure SesSt where
  sess    : Tbl Session := []
  lgt     : Tbl LGroup := []
  passes  : List Pass := []
  nextId  : Nat := 1
  genBase : BitVec 12 := 1
  hbmLost : Bool := false
  deriving DecidableEq, Repr

/-- A published account (R366). -/
structure Acct where
  cap    : BitVec 32 := 0
  refill : BitVec 32 := 0
  deriving DecidableEq, Repr

/-- The batcher (R96-R98), its report (R366) and the placement loop's counts (R371). `swaps` lists
(rafter, stand-in, groups changed) in force (R438, R440); `blocked` the rafters without one; `gone` the class and the
commit times of sessions freed in the present lap (R95). -/
structure BatSt where
  etab     : Tbl (BitVec 32) := []
  pltab    : Tbl Word := []
  sitab    : Tbl Word := []
  bal      : Tbl Int := []
  acct     : Tbl Acct := []
  debit    : Tbl Nat := []
  short    : Tbl Bool := []
  dry      : Tbl Nat := []
  pubs     : Nat := 0
  lastPub  : Word := 0
  gapSaid  : Bool := false
  swaps    : List (Nat × Nat × List Nat) := []
  blocked  : List Nat := []
  gone     : List (Nat × List Word) := []
  deriving DecidableEq, Repr

/-! ## Gate unit -/

/-- Where an unsettled slot stands (R201-R208). -/
inductive GState
  | waiting | queued | inPass | remote
  deriving DecidableEq, Repr

/-- What a gate table's entry for an expert held when a row was settled (R199): CAPF, REMOTE, EGRP, DVH, RVH. -/
structure GCand where
  expert : Nat
  capf   : Nat
  remote : Bool
  group  : BitVec 14
  valley : BitVec 32
  rvh    : BitVec 32
  deriving DecidableEq, Repr

/-- An unsettled slot: the row's row block, slot index, chosen expert, session, the spare candidates of
R201, what its expert's entry held when the row was settled (CAPF, REMOTE, EGRP, DVH, RVH), the time a remote one was sent, and its place in the order
of dispatches (R204). -/
structure GSlot where
  tag    : BitVec 32
  pass   : Nat
  rblk   : Nat
  j      : Nat
  expert : Nat
  table  : Nat
  sess   : Nat
  handle : BitVec 32
  cls    : Fin 8
  st     : GState
  group  : BitVec 14 := 0
  arrive : Word := 0
  remote : Bool := false
  valley : BitVec 32 := 0
  rvh    : BitVec 32 := 0
  sent   : Word := 0
  capf   : Nat := 0
  spare  : List GCand := []
  aband  : Bool := false
  ord    : Nat := 0
  deriving DecidableEq, Repr

/-- An inbox slot in use (R207). -/
structure Inbox where
  tag    : BitVec 32
  rvh    : BitVec 32
  egrp   : BitVec 14
  expert : BitVec 9
  cls    : Fin 8
  xspan  : Nat
  yspan  : Nat
  arrive : Word
  inPass : Bool := false
  ord    : Nat := 0
  deriving DecidableEq, Repr

/-- The gate unit's tables and slots (R199-R208); `nextOrd` numbers the dispatches of queued rows (R204). -/
structure GateSt where
  entries : Tbl Word := []
  occ     : Tbl Nat := []
  slots   : List GSlot := []
  inbox   : Tbl Inbox := []
  reports : List Nat := []
  nextTag : BitVec 32 := 1
  nextOrd : Nat := 0
  deriving DecidableEq, Repr

/-! ## Rafters -/

/-- Sequencer states (R121, R122). -/
inductive RState
  | idle | run | handler | frozen | retired
  deriving DecidableEq, Repr

/-- What the sequencer waits for inside an instruction. -/
inductive Wait
  | none
  | poll (rd : BitVec 6) (idx n : Nat) (long : Bool) (timed : Bool)
  | ywait (y : Nat)
  | endp (f : Bool)
  | cadd
  deriving DecidableEq, Repr

/-- Channel states (R144). -/
inductive CState
  | idle | busy | halted | frozen
  deriving DecidableEq, Repr

/-- A stream descriptor as copied at issue (R265): its eight words, and whether its offset was one a
descriptor may have. -/
structure SDesc where
  ws    : List Word
  offOk : Bool
  deriving DecidableEq, Repr

/-- A stream channel (R140-R144). `moved` counts the source bytes of the head descriptor taken, `share` the
shares of a block-sparse one placed; `stage` holds bytes read that no slate buffer has taken yet; `psize` is
the size of the valley packet that the descriptor takes, `pseq` its number. -/
structure Chan where
  st     : CState := .idle
  queue  : List SDesc := []
  status : Byte := 0
  addr   : BitVec 40 := 0
  moved  : Nat := 0
  share  : Nat := 0
  stage  : List Byte := []
  psize  : Option Nat := none
  pseq   : BitVec 32 := 0
  deriving DecidableEq, Repr

/-- A slate descriptor's fields (R158, R270). -/
structure SlateDesc where
  mode    : BitVec 2
  bank    : Bool
  slates  : Byte
  split   : Bool
  fmtA    : BitVec 4
  fmtW    : BitVec 4
  sparse  : BitVec 2
  k       : Nat
  rows    : Nat
  notice  : Nat
  wsrc    : Bool
  wch     : Nat
  woff    : Nat
  aoff    : Nat
  astride : Nat
  asoff   : Nat
  arsoff  : Nat
  wrsoff  : Nat
  scaleA  : BitVec 32
  scaleW  : BitVec 32
  outfmt  : BitVec 4
  rnd     : Bool
  sat     : Bool
  ooff    : Nat
  ostride : Nat
  osoff   : Nat
  deriving DecidableEq, Repr

/-- A slate command in a rafter's queues (R160): `phys` maps its named slates, lowest first, to physical ones
as at issue, `prog` counts the k positions each has taken, `fed` the bytes its channel has delivered to it,
`bufs` holds what each slate's weight buffer has of them (R165) with the halves present of each share (R190),
`order` lists the slates in the order they finished (R151), `snap` banks read by a drain before a later
command on the slate began (R171). -/
structure SCmd where
  desc    : SlateDesc
  phys    : List Nat
  started : Bool := false
  prog    : Tbl Nat := []
  fed     : Nat := 0
  bufs    : Tbl (List Byte) := []
  gates   : Tbl (List (Bool × Bool)) := []
  order   : List Nat := []
  snap    : List (Nat × Tbl (BitVec 32)) := []
  deriving DecidableEq, Repr

/-- A physical slate: two banks of accumulators at row * 64 + column (R149), the time of its last command
(R441), whether a dwell holds it (R359), and when, among the slates of its rafter, it last finished a
command's k-slices (R151). -/
structure Slate where
  acc0  : Tbl (BitVec 32) := []
  acc1  : Tbl (BitVec 32) := []
  last  : Word := 0
  dwell : Bool := false
  fin   : Nat := 0
  deriving DecidableEq, Repr

/-- A thread of a yealm (R215). -/
structure Thread where
  pc     : BitVec 20 := 0
  regs   : Tbl Word := []
  exited : Bool := true
  held   : Bool := false
  deriving DecidableEq, Repr

/-- Yealm slot states (R224). -/
inductive YState
  | free | run | trapped | stopped
  deriving DecidableEq, Repr

/-- A yealm slot (R215-R227, R251): its threads, the scheduler's state, and its trap. -/
structure YSlot where
  st     : YState := .free
  nthr   : Nat := 0
  notice : Nat := 0
  issued : Nat := 0
  thr    : Tbl Thread := []
  barred : BitVec 32 := 0
  lastS  : BitVec 32 := 0
  count  : Nat := 0
  watch  : Option (BitVec 20) := none
  window : Nat := 0
  cause  : Byte := 0
  tpc    : BitVec 20 := 0
  tmask  : BitVec 32 := 0
  taddr  : Word := 0
  killed : Bool := false
  deriving DecidableEq, Repr

/-- A queued yealm launch (R219). -/
structure Launch where
  slot   : Nat
  entry  : BitVec 20
  nthr   : Nat
  arg    : Word
  notice : Nat
  deriving DecidableEq, Repr

/-- Who makes a device read at a spar port: the sequencer, a yealm slot, a stream channel, or the fetch of an instruction for
the sequencer or for a yealm slot. -/
inductive RdSrc
  | seq
  | ylm (y : Nat)
  | chan (c : Nat)
  | code (y : Option Nat)
  deriving DecidableEq, Repr

/-- A device read in the spar port's request table (R145): who makes it, and the bytes it asks for. -/
structure RdReq where
  src  : RdSrc
  addr : Nat
  len  : Nat
  deriving DecidableEq, Repr

/-- A write beat kept by the spar port until it is acknowledged (R145): its bytes by address, whether it has
been performed, the yealm slot or the stream channel it came from, and the reads of the table that came before it and waited
at the same bay, after which it is re-issued (R146). -/
structure Beat where
  runs  : List (Nat × List Byte)
  done  : Bool
  yslot : Option Nat := none
  chan  : Option Nat := none
  after : List RdReq := []
  deriving DecidableEq, Repr

/-- A CADD issued and not yet performed (R138): the register of its returning form, the device stores issued
before it that are not acknowledged, and for each channel of its mask the descriptors that must end first. -/
structure CAdd where
  rd     : Option Nat
  addr   : Nat
  addend : Word
  stores : Nat
  descs  : List (Nat × Nat) := []
  ret    : Bool := false
  deriving DecidableEq, Repr

/-- A rafter (R113). `reads` and `beats` are its spar port's request table and replay buffer (R145), `ibuf` the addresses of
the lines in the instruction buffer, oldest first (R116); `slot0`, `slot1` hold the pass number of the batch slot's pass, `cur` the slot being
run; `size` and `trap` are SIZE and TRAP as read at dispatch (R116, R118); `insn`, `insnh` the words of the
instruction in which the sequencer waits; `cadds` the CADDs not yet performed, oldest first (R138). -/
structure Rafter where
  st      : RState := .idle
  cause   : Byte := 0
  pass    : BitVec 32 := 0
  passCtr : BitVec 32 := 0
  sr      : Tbl Word := []
  pc      : BitVec 20 := 0
  wait    : Wait := .none
  store   : Memory := []
  slot0   : Option (BitVec 32) := none
  slot1   : Option (BitVec 32) := none
  first1  : Bool := false
  cur     : Nat := 0
  size    : BitVec 32 := 0
  trap    : BitVec 20 := 0
  slateEn : Byte := 0xFF
  slates  : Tbl Slate := []
  scmds   : List SCmd := []
  chans   : Tbl Chan := []
  launch  : List Launch := []
  ys      : Tbl YSlot := []
  ylast   : Nat := 15
  reads   : List RdReq := []
  beats   : List Beat := []
  ibuf    : List Nat := []
  sweep   : Option Nat := none
  cadds   : List CAdd := []
  insn    : Word := 0
  insnh   : Word := 0
  deriving DecidableEq, Repr

/-! ## Bays, caches, spar channels -/

/-- A watch registered with a bay's atomic unit (R139). -/
structure Watch where
  addr   : Nat
  target : Word
  raf    : Nat
  notice : Nat
  deriving DecidableEq, Repr

/-- The attributes of an access: the requesting rafter (0xFFFF for another master), the consumer by its
row in R288 from 1, the QoS class (R317), and the stop it is made from where the spec names one (R319). -/
structure Acc where
  raf  : Nat := 0xFFFF
  cons : Nat := 0
  cls  : Nat := 0
  stop : Option (Nat × Nat) := none
  deriving DecidableEq, Repr

/-- A write that the mesh holds at the stop of a bay in reset (R302): its bytes by address, and who makes it. -/
structure HeldWrite where
  runs : List (Nat × List Byte)
  acc  : Acc
  deriving DecidableEq, Repr

/-- A fill a home bay waits for (R280): the HBM line's address, the way it is to take, the request that caused it, when
the bay took that (R301), the requests to the line that the bay took after it, in their order (R287), and whether the line
has been brought in already, for an access that could not wait. -/
structure Fill where
  line : Nat
  way  : Nat
  req  : BayReq
  at_  : Word
  more : List BayReq := []
  done : Bool := false
  deriving DecidableEq, Repr

/-- A cache line's tag-store entry, and the syndromes of its two copies (R280). -/
structure CLine where
  tag   : Nat := 0
  valid : Bool := false
  dirty : Bool := false
  used  : Bool := false
  synA  : Byte := 0
  synB  : Byte := 0
  deriving DecidableEq, Repr

/-- A bay (R275-R304): whose turn each sub-array's round-robin is at (true: the Purlin stop's), the requests that its
sources have presented and that wait, at 2 * sub-array + 1 for the Purlin stop's (R276), the write-backs of corrections
due, watches, tag store at set * 32 + way, the way last hit in each set, fills, the requests answered "withdrawn" and the
fills abandoned whose data has not come yet (R302, R303), the writes of other masters that the mesh holds while the bay is in
reset (R302), scrub state, reset times, and whether both copies of a tag entry
were found uncorrectable (R280). -/
structure Bay where
  turn0    : Bool := false
  turn1    : Bool := false
  asked    : Tbl (Option BayReq) := []
  fix      : List Nat := []
  watches  : List Watch := []
  tags     : Tbl CLine := []
  fills    : List Fill := []
  redo     : List BayReq := []
  away     : List HeldWrite := []
  stale    : Nat := 0
  lastHit  : Tbl Nat := []
  scrub    : Nat := 0
  lapAt    : Word := 0
  saidLate : Bool := false
  sticky   : Tbl Byte := []
  stuck    : List Nat := []
  ovfSaid  : Bool := false
  broken   : Bool := false
  resetAt  : Option Word := none
  reopened : Option Word := none
  reason   : Nat := 0
  deriving DecidableEq, Repr

/-- A spar channel's error bookkeeping (R292): the times of each lane's last parity errors, newest first (read lanes 0-31, write
lanes 32-47), refusals in a row, the lane under test (48 is the control group), the requests answered "withdrawn" and the notice
words on their way to the rafter, both of which wait for the test's end, and the bonds replaced so far: lane, bond and spare of
its group (R291). -/
structure Spar where
  errs    : Tbl (List Word) := []
  row     : Tbl Nat := []
  testing : Option Nat := none
  back    : List BayReq := []
  late    : List (Nat × Nat × Nat) := []
  spares  : List (Nat × Nat × Nat) := []
  deriving DecidableEq, Repr

/-- The mesh: refusals in a row per hop (272 * from + to for one between stops; from 73,984 on, 1 for each eaves link and
1 for each controller input), flits on their way from one stop to the next, each of which the first holds until the
second has accepted it (R290), and flits delivered to endpoints. -/
structure MeshSt where
  row     : Tbl Nat := []
  moving  : List (Nat × Nat × PFlit) := []
  arrived : List (Nat × PFlit) := []
  deriving DecidableEq, Repr

/-! ## Boundary queues -/

/-- A word of a boundary queue with its side bits (R62). -/
structure QWord where
  w      : Word
  parity : Bool
  endm   : Bool
  vb     : BitVec 3
  deriving DecidableEq, Repr

/-- An eaves link (R33-R35, R446). `part0` and `part1` are the words of the flit that is crossing, down to the Ridge die and up
from it, which the receiving end accepts whole; `held0` and `held1` those of a lost link that follow the last flit accepted,
held until they are sent again over the new home (R290, R446). -/
structure Eaves where
  up       : Bool := false
  lost     : Bool := false
  takeover : Bool := false
  part0    : List QWord := []
  part1    : List QWord := []
  held0    : List QWord := []
  held1    : List QWord := []
  deriving DecidableEq, Repr

/-- A boundary queue: its store, its partial word (R66), its timeout bookkeeping (R69), how many of the words held its
consumer takes because the timeout fired (R70), whether the consumer is inside a packet that it has started and how many
words of the present flit a clocked one has taken (R64), the words of a flit that is being filled (R65), a flush that waits
for room (R60, R66), and the bytes of the first word that an unpacking side has taken (R68). -/
structure Queue where
  words : List QWord := []
  part  : List Byte := []
  since : Word := 0
  fired : Bool := false
  go    : Nat := 0
  mid   : Bool := false
  taken : Nat := 0
  fill  : List QWord := []
  due   : Bool := false
  bytes : Nat := 0
  deriving DecidableEq, Repr

/-! ## HBM -/

/-- A request in a controller's queue (R320): its class, when it was accepted, its place by R307, whether it has been issued
to the stack, whether it is a partial write whose burst is being read (R311), and how often a read has been repeated
(R312). -/
structure HEnt where
  req    : HReq
  cls    : Nat
  pc     : Nat
  bank   : Nat
  row    : Nat
  at_    : Word
  issued : Bool := false
  rmw    : Bool := false
  tries  : Nat := 0
  deriving DecidableEq, Repr

/-- An HBM controller and its stack (R305-R327): its queue, the requests not yet issued in order of acceptance and then those
issued, in order of issue; one more than the row open in each bank (by 64 * pseudo-channel + bank), last activity
and next bank to refresh by pseudo-channel, those in power-down; by class the mean latency m as a pair (a, k) with
m = a / 16^k picoseconds (R319), the bytes of the window, the classes active in the window before, the targets taken at the
last window boundary (R325); the times of a channel's last parity errors, newest first, lanes repaired, uncorrectable reads
in the lap, the words of a line flagged in a read that no consumer has taken yet (R312), the reads delivered that their
consumer has not taken: line, rafter and consumer (R288), 0xFFFF and 0 for the home bay; when the refresh of each bank
began, by 64 * pseudo-channel + bank (R310); a retired pseudo-channel whose lost data is still to be dealt with (R444), self-refresh and the channels
whose trigger waits for a retraining's end (R315), and the start of the window (R321). -/
structure Stack where
  queue    : List HEnt := []
  rows     : Tbl Nat := []
  active   : Tbl Word := []
  refresh  : Tbl Nat := []
  down     : BitVec 32 := 0
  mean     : Tbl (Nat × Nat) := []
  bytes    : Tbl Nat := []
  prev     : BitVec 16 := 0
  targets  : List Nat := []
  poison   : Tbl (BitVec 32) := []
  perr     : Tbl (List Word) := []
  lanes    : Tbl Nat := []
  ueLap    : Tbl Nat := []
  flags    : Tbl (BitVec 32) := []
  given    : List (Nat × Nat × Nat) := []
  refAt    : Tbl (Option Word) := []
  loss     : Bool := false
  selfRef  : Bool := false
  again    : List Nat := []
  trained  : Bool := false
  window   : Word := 0
  deriving DecidableEq, Repr

/-! ## Power and heat -/

/-- A feed's bookkeeping (R331, R332): whether its switch is closed, when it opened, the path resistance of FEED (0 until it is recorded),
and laps in a row at or above the crack ratio. -/
structure Feed where
  on     : Bool := false
  openAt : Word := 0
  base   : Nat := 0
  crack  : Nat := 0
  deriving DecidableEq, Repr

/-- A course being powered on (R341). -/
structure Staging where
  q       : Nat
  t0      : Word
  stretch : Bool := false
  began   : Bool := false
  next    : Word := 0
  deriving DecidableEq, Repr

/-- The power system's bookkeeping (R328-R347). `phases` and `cells` have a bit per failed converter phase and
cell (512-515 the Ridge cells); `base` and `crack` the cells' baselines and laps in a row (R332). `iceil`
holds the current ceilings that are below the grade's (0: none); `at10`, `at100` and `up100` are one more
than the ticks of their last steps, 0 while no span runs (R346); `clamped` has the courses whose clamp overrules a low margin
(R344). `mon` holds the last reading of monitor i of
course q at 4q + i, one more than its value, `monAt` its time, `monBad` the failed ones (R47-R49). -/
structure PowerSt where
  feed0   : Feed := {}
  feed1   : Feed := {}
  phases  : Byte := 0
  cells   : BitVec 516 := 0
  base    : Tbl Nat := []
  crack   : Tbl Nat := []
  iceil   : Tbl Nat := []
  at10    : Tbl Nat := []
  at100   : Tbl Nat := []
  up100   : Tbl Nat := []
  clamped : BitVec 81 := 0
  queue   : List Nat := []
  staging : Option Staging := none
  step25  : Option Word := none
  mon     : Tbl Nat := []
  monAt   : Tbl Word := []
  monBad  : Tbl Bool := []
  deriving DecidableEq, Repr

/-- A temperature sensor's bookkeeping (R356, R360, R362): its last readings, newest first, at most 65 of them, and the laps
that made them; its rise over the last lap in 0.25 °C; whether that reached RCOOL; whether it is broken. -/
structure Sensor where
  hist   : List Int := []
  laps   : List Nat := []
  rise   : Nat := 0
  hot    : Bool := false
  broken : Bool := false
  deriving DecidableEq, Repr

/-- The message of R366. -/
structure Pub where
  lap  : Nat
  acct : List Acct
  deriving DecidableEq, Repr

/-- The heat and budget block and the sequencer (R353-R368): the lap and its next channel (1,024 once all are
read), sensors by channel, the conditions of R357 that hold by course (dwell by temperature and by rate), the message
and the report on their way, the last report, by course the energy of the lap that the next report covers, the last 16 debits
and the FP32 codes of the energies of their laps, newest first (R367), and SUST as last computed, in 1/32,000 GB/s (R316). -/
structure HeatSt where
  next    : Nat := 0
  lap     : Nat := 0
  sensors : Tbl Sensor := []
  dwellT  : Tbl Bool := []
  dwellR  : Tbl Bool := []
  pub     : Option Pub := none
  report  : Option (List (Nat × Bool)) := none
  debit   : Tbl Nat := []
  short   : Tbl Bool := []
  lapE    : Tbl Nat := []
  debitH  : Tbl (List Nat) := []
  energyH : Tbl (List Nat) := []
  sust    : Nat := 0
  deriving DecidableEq, Repr

/-! ## Flash and bring-up -/

/-- A fault-log record waiting to be programmed (R365): `w3` to `w5` are its words 3-5 as at the event. -/
structure FRec where
  cause : Nat
  time  : Word
  src   : Nat := 0
  temp  : Int := 0
  rate  : Nat := 0
  w3    : Word := 0
  w4    : Word := 0
  w5    : Word := 0
  w6    : Word := 0
  w7    : Word := 0
  deriving DecidableEq, Repr

/-- A copy of the training saves (R477): its write count, the unit serial it is bound to, one more than the rate code
of each stack, and each port's saved partner, partner port and level. Its layout in flash is private to the device. -/
structure TrainSave where
  count  : Nat
  serial : BitVec 128
  rates  : Tbl Nat
  ports  : List (Nat × BitVec 16 × Nat × Nat)
  deriving DecidableEq, Repr

/-- The module flash (R488, R548): its bytes but for the training saves, which `save0` and `save1` hold, and its fault
log (R364): the records that wait, whether the first of them is in BOOT_XWQ, and its bytes that the flash interface has taken
from there. -/
structure FlashSt where
  bytes   : Memory := []
  save0   : Option TrainSave := none
  save1   : Option TrainSave := none
  waiting : List FRec := []
  fed     : Bool := false
  took    : List Byte := []
  nextSeq : BitVec 32 := 0
  pos     : Nat := 0
  erasing : Option Nat := none
  deriving DecidableEq, Repr

/-- A stage-list entry (R467). -/
structure StageEnt where
  op    : Byte
  step  : BitVec 4
  post  : Bool
  addr  : BitVec 40
  value : Word
  mask  : Word
  tmo   : BitVec 32
  count : BitVec 32
  deriving DecidableEq, Repr

/-- An RPROG section accepted at IMAGE (R493): its index in the section table and its offset, its mask, prefix and image, its
digest, and its measurement once LOAD has taken it (R509). -/
structure RProg where
  sect   : Nat
  off    : Nat := 0
  mask   : BitVec 256
  pre    : List Byte
  bytes  : List Byte
  digest : BitVec 512
  meas   : BitVec 512 := 0
  deriving DecidableEq, Repr

/-- What the load engine beside a rafter has received of its image (R482, R483). -/
structure Loader where
  have_  : List Nat := []
  rounds : Nat := 0
  ok     : Bool := false
  deriving DecidableEq, Repr

/-- Bring-up (R460-R497). `ridgeOn` the Ridge course is powered, `released` reset has been released, `resetLow` RESET_N
is low, `feedGo` an attempt of FEED runs, `kept` the Ridge course stayed powered through the last device reset,
`cellCopy` the housekeeping controller's copy of the failed-cell map (R472). `pairs`, `cellMap`, `sticky` and `sumSeq`
are the repair summary as merged at RIDGE (R495), `now_` the pairs failed in this bring-up, by 66d + p; `lineMap` the
lines of a pair's bay that its spare lines 0, 1, ... stand in for (R277), `openHdr` the pairs whose header switches are held
open (R27, R475), `live` set once FIN of SPAR has set HUB_SPAREd.LIVE (R28). `stages`,
`data`, `progs`, `lstage`, `svn` and `owner` come from the accepted image, which lies in flash slot `slot` or at host address `imgAt`; `pref` is
the directory's PREF as RIDGE read it (R489); `pos` is the next stage-list entry and
`until_` the end of the wait in progress. `goAt` is when the present action began, `qualAt` the ports in QUAL at
QUALIFY's entry, `slates` what SPAR found by pair, `bonds` the bonds it replaced as (pair, lane, bond), `rates` (one more than the code) and `portSet` the
settings that the training saves take (R477). `loadAt` counts the sections that LOAD has staged, `staged` lists the staging addresses of the pieces in order, `cast` how
many were broadcast, `marked` whether the end mark was sent, `rewrote` the pieces, by section and number, whose staging copies were written again
(R484). The rest are the measurements of R509. -/
structure BootSt where
  ridgeOn  : Bool := false
  standby  : Bool := false
  resetLow : Bool := false
  released : Bool := false
  feedGo   : Bool := false
  feedDone : Bool := false
  feedTry  : Nat := 0
  feedWhy  : Nat := 0
  kept     : Bool := false
  cellCopy : BitVec 516 := 0
  pairs    : BitVec 264 := 0
  now_     : BitVec 264 := 0
  cellMap  : BitVec 516 := 0
  sticky   : List (Nat × Nat) := []
  lineMap  : Tbl (List Nat) := []
  openHdr  : BitVec 264 := 0
  live     : Bool := false
  sumSeq   : BitVec 32 := 0
  stages   : List StageEnt := []
  data     : List Byte := []
  pref     : Nat := 0
  slot     : Nat := 0
  imgAt    : Word := 0
  pos      : Nat := 0
  until_   : Option Word := none
  progs    : List RProg := []
  lstage   : BitVec 40 := 0
  goAt     : Word := 0
  qualAt   : BitVec 12 := 0
  slates   : List (Nat × Byte) := []
  bonds    : List (Nat × Nat × Nat) := []
  rates    : Tbl Nat := []
  portSet  : List (Nat × BitVec 16 × Nat × Nat) := []
  loadAt   : Nat := 0
  staged   : List Nat := []
  rewrote  : List (Nat × Nat) := []
  cast     : Nat := 0
  marked   : Bool := false
  loaders  : Tbl Loader := []
  svn      : Byte := 0
  owner    : Byte := 0
  mRom     : BitVec 512 := 0
  mRfw     : BitVec 512 := 0
  mImage   : BitVec 512 := 0
  mSigner  : BitVec 512 := 0
  deriving DecidableEq, Repr

/-- What stops the device (R363, R456): the cause of a fail stop, the copies of DEPART sent, the time of the last, words
1-3 of the departure record; the cause of a shutdown. -/
structure StopSt where
  failStop : Option Byte := none
  departs  : Nat := 0
  sentAt   : Word := 0
  record   : List Word := []
  shut     : Option Nat := none
  deriving DecidableEq, Repr

/-! ## Security, sideband, scan -/

/-- An ATTEST in progress (R507). -/
structure Attest where
  ring  : Fin 16
  cmdid : BitVec 16
  nonce : BitVec 256
  dest  : Word
  deriving DecidableEq, Repr

/-- The security engine (R498-R510): the record's words, the process in progress (OP, slot, the hash of OWNPUB as at GO),
the ATTEST in progress, noise blocks failed in a row, and the SVN to which the rollback counter is being raised. -/
structure SecSt where
  prov    : Tbl Word := []
  busy    : Option (Nat × Nat × BitVec 512) := none
  attest  : Option Attest := none
  bad     : Nat := 0
  roll    : Nat := 0
  deriving DecidableEq, Repr

/-- TAP instructions (R547). -/
inductive TapIr
  | bypass | idcode | samplePreload | extest | clamp | highz
  deriving DecidableEq, Repr

/-- What drives the pins of the boundary register: the system logic, a pattern out of the boundary register, or nothing
(IEEE 1149.1, R547). -/
inductive Pins
  | system | pattern (v : Word) | floating
  deriving DecidableEq, Repr

/-- The sideband (R545, R546): the block selected, the address pins, the values of the last refresh (the status without
its bit 0, the last fault record with its SEQ), the SEQ last read through 0x06, the FRU data, and the data and PEC of
the last answer; and the TAP with what it shifts out, what its boundary register was loaded with, and what drives the pins
that this covers (R547). -/
structure SideSt where
  block   : BitVec 6 := 0
  sa      : BitVec 2 := 3
  status  : Byte := 0
  cause   : Byte := 0
  tries   : BitVec 16 := 0
  feed0   : BitVec 16 := 0
  feed1   : BitVec 16 := 0
  power   : BitVec 16 := 0
  temps   : List (BitVec 16) := []
  dev     : BitVec 16 := 0xFFFF
  record  : List Byte := []
  recSeq  : BitVec 32 := 0
  readSeq : Option (BitVec 32) := none
  fru     : Memory := []
  answer  : List Byte := []
  pec     : Byte := 0
  ir      : TapIr := .idcode
  tdo     : Word := 0
  bsr     : Word := 0
  pins    : Pins := .system
  deriving DecidableEq, Repr

/-! ## Links -/

/-- A packet whose flits arrive on a port (R376, R387): the header of its SOP flit, the words gathered where it
ends here, the port it leaves on where it is forwarded (none while it is dropped), and the flits kept until its
EOP. -/
structure Asm where
  hdr   : Word
  words : List Word := []
  out   : Option Nat := none
  keep  : Bool := false
  flits : List (List QWord) := []
  deriving DecidableEq, Repr

/-- A DATA flit in a replay buffer: its SEQ, when it was first sent, its words (R379, R382). -/
structure RFlit where
  seq : BitVec 16
  at_ : Word
  ws  : List Word
  deriving DecidableEq, Repr

/-- A port's link layer and training state (R372-R405, R480). `txq` is the switch's output hold for the port: the flits
that the link layer has not checked yet, the first of which stand in LNKp_TXQ too (R378); `replay` those sent and not acknowledged, oldest first; `resend` what a replay has still to resend;
`replayAt` the SEQ of the last replay and when it began, `reps` how often in a row that SEQ was replayed; `nakFor`
the SEQ of the last NAK sent and when; `out` the frames sent; `landing` the landing buffer; `pause` the end of a
pause; `counts` the counts of R394 at 32 * lane + item, `ues` the times of a lane's last 16 uncorrectable
codewords; `lockLost` the lanes without codeword lock, `lockAt` when the last of all went; `setPos` the frames of the present codeword
set received and `setBad` whether one of its codewords was uncorrectable (R373); `await` a resend after RETRAIN that waits
for the partner's first ACKSEQ (R386); `eqAt` when a tap of a lane was last trimmed and `eqSent` when a TXEQ was last sent
for it (R393);
`stepAt` when the present training step began; `saved` the partner, its port and the level
of the saved settings; `entered` once the port's step of bring-up began; `nrAt` the last NOT_READY sent; `hopSaid` a
hop-limit notice written in this lap; `txFails` parity failures in a row; `taps` the transmitter's tap steps at
8 * lane + tap; `rttSum` and `rttN` the round trips measured (R382); `pktn` the per-packet notices that the valley engine has
not taken (R71); `polarity` the lanes whose pair DETECT found swapped and corrects (R540). -/
structure Port where
  txq      : List (List QWord) := []
  replay   : List RFlit := []
  seq      : BitVec 16 := 0
  expect   : BitVec 16 := 0
  resend   : List RFlit := []
  replayAt : Option (BitVec 16 × Word) := none
  reps     : Nat := 0
  nakFor   : Option (BitVec 16 × Bool) := none
  nakAt    : Word := 0
  out      : List (List Word × Byte) := []
  landing  : List (List QWord) := []
  stopped  : Bool := false
  pause    : Option Word := none
  asm      : List Asm := []
  counts   : Tbl Nat := []
  ues      : Tbl (List Word) := []
  lockLost : Byte := 0
  lockAt   : Word := 0
  stepAt   : Word := 0
  saved    : Option (BitVec 16 × Nat × Nat) := none
  entered  : Bool := false
  nrAt     : Option Word := none
  hopSaid  : Bool := false
  txFails  : Nat := 0
  taps     : Tbl Int := []
  setPos   : Nat := 0
  setBad   : Bool := false
  await    : Bool := false
  eqAt     : Tbl Word := []
  eqSent   : Tbl Word := []
  rttSum   : Nat := 0
  rttN     : Nat := 0
  pktn     : Nat := 0
  polarity : Byte := 0
  deriving DecidableEq, Repr

/-! ## Valleys -/

/-- End states (R415). -/
inductive VState
  | free | listen | connecting | live | closed | frozen
  deriving DecidableEq, Repr

/-- Where the data of a packet to be sent comes from: kept bytes, a range that a channel's descriptor names
and that every send reads (R417), a chunk of a migrating session's page (R102), or the expert input of a
gate dispatch after its header (R206). -/
inductive VSrc
  | bytes (bs : List Byte)
  | chan (n c : Nat) (kind : Nat) (addr : Nat) (len : Nat)
  | mig (slot page off len : Nat)
  | gate (tag : BitVec 32) (hdr : List Byte) (addr len : Nat)
  deriving DecidableEq, Repr

/-- A packet of an end not yet acknowledged (R421, R422). -/
structure VSend where
  pseq  : BitVec 32
  src   : VSrc
  win   : Word := 0
  vop   : BitVec 2 := 0
  rfmt  : Bool := false
  sent  : Option Word := none
  units : Nat := 0
  deriving DecidableEq, Repr

/-- A packet in an end's receive ring (R411): whether a consumer has taken it, and is done with it. -/
structure VRing where
  pseq  : BitVec 32
  off   : Nat
  size  : Nat
  units : Nat
  taken : Bool := false
  used  : Bool := false
  deriving DecidableEq, Repr

/-- A valley end (R406-R426). `pcons` is the partner end's CONS (R410), `pring` is the partner's ring in units, `granted` the units granted so far with it,
`used` those sent; `rtts` the round trips of the last 16 packets acknowledged, newest first (R422); `total` the units this end has freed since LIVE, `freed` those not yet told; `head` where the next
packet goes in the ring; `gapFor` the expected value a GAP was sent for; `progAt` the last acknowledgement progress, `waitAt` since when the end waits for a paused partner (R480);
`gets` the GETs outstanding: rafter, channel, ROFF, LEN. -/
structure VEnd where
  st      : VState := .free
  vgen    : BitVec 16 := 1
  cause   : Nat := 0
  kind    : BitVec 2 := 0
  dir     : Bool := false
  cons    : BitVec 2 := 0
  floor   : Nat := 3
  minlvl  : Nat := 3
  local_  : Bool := false
  nin     : Nat := 0
  pdev    : BitVec 16 := 0
  pcons   : BitVec 2 := 0
  ph      : BitVec 32 := 0
  opener  : Option (Fin 16) := none
  rxbase  : Nat := 0
  rxlog2  : Nat := 12
  chain   : BitVec 32 := 0
  wwr     : Bool := false
  wbase   : Nat := 0
  wsize   : Nat := 0
  maxhop  : Nat := 0
  rtts    : List Nat := []
  nextTx  : BitVec 32 := 0
  nextRx  : BitVec 32 := 0
  sends   : List VSend := []
  pring   : Nat := 0
  granted : Nat := 0
  used    : Nat := 0
  total   : Nat := 0
  freed   : Nat := 0
  freedAt : Option Word := none
  ring    : List VRing := []
  head    : Nat := 0
  gapFor  : Option (BitVec 32) := none
  opened  : Word := 0
  lastCon : Word := 0
  progAt  : Word := 0
  waitAt  : Option Word := none
  resends : Nat := 0
  gets    : List (Nat × Nat × Nat × Nat) := []
  deriving DecidableEq, Repr

/-- A sum in a reduction engine (R419): the OUT end, the packet, the IN ends that have contributed (65536 stands for
the local descriptor), the elements, the port whose engine holds it. -/
structure RSum where
  out   : Nat
  k     : BitVec 32
  rfmt  : Bool
  size  : Nat
  parts : List Nat
  elems : List (BitVec 32)
  port  : Option Nat := none
  whole : Bool := false
  deriving DecidableEq, Repr

/-- A forwarding bucket of R428: its offset, when it last forwarded a flit, and the equal ports of its last packet. -/
structure Bucket where
  off  : Nat := 0
  last : Word := 0
  mask : BitVec 12 := 0
  deriving DecidableEq, Repr

/-- A control packet that waits at its end because every port to its destination is paused (R480). -/
structure CtlHold where
  dst  : Nat
  vidx : Nat
  ws   : List Word
  deriving DecidableEq, Repr

/-- The valley engine and the port switch's tables (R406-R428), and the control packets that wait (R480). -/
structure VlySt where
  ends     : Tbl VEnd := []
  vgenBase : BitVec 16 := 0
  rt       : Tbl (BitVec 32) := []
  buckets  : Tbl Bucket := []
  lapBytes : Tbl Nat := []
  sums     : List RSum := []
  departed : List Nat := []
  heldCtl  : List CtlHold := []
  deriving DecidableEq, Repr

end Sys2Proof.Machine
end

