-- ==== Sys2Proof/Machine/State.lean ====
section
/-! DEFINITION. The machine's state, the reasons a step can stop, and the state after reset. The state
is plain data and holds everything the spec gives the device (INVENTORY.md, heading State). -/

namespace Sys2Proof.Machine

/-- Why a step stops with a fault. -/
inductive Fault
  /-- Raised by an event command, or by an instruction, that the present state rules out: a poll timeout
  where nothing polls, an instruction of a rafter that is not running. The spec has no such event there
  (assumption log 12). Safe: the model stops where the device would have nothing to do. -/
  | notPossible
  deriving DecidableEq, Repr

/-- Why a step is refused. -/
inductive Refusal
  /-- Raised by the arm of a command that has no meaning yet. Safe. -/
  | notModelled (mnemonic : String)
  /-- Raised by the meaning of a command that is not well formed: an operand that does not spell its row (an
  instruction word of another opcode, a ring entry of another operation, a frame that is not 32 words).
  Safe: such a command is none of the table's. -/
  | illFormed
  deriving DecidableEq, Repr

/-- The device. `regs` holds every register of the register map that is its own home, by its offset from
0xF0_0000_0000; `mem` the bytes of bay space and HBM by device address; `syn` the check-bit syndromes of
stored bay words by address / 8 (R284-R286); `work` the time at which a rafter last had work (R347); `free` counts the free values taken, `rdata` is the value
the last register read returned (both are the model's own, assumption log 10 and 11). -/
structure State where
  pending : List Instr := []
  fuses   : Fuses := {}
  time    : TimeSt := {}
  regs    : Tbl Word := []
  mem     : Memory := []
  syn     : Tbl Byte := []
  notices : NoticeSt := {}
  host    : HostSt := {}
  ses     : SesSt := {}
  bat     : BatSt := {}
  gate    : GateSt := {}
  rafters : Tbl Rafter := []
  work    : Tbl Word := []
  bays    : Tbl Bay := []
  spars   : Tbl Spar := []
  eaves   : Tbl Eaves := []
  mesh    : MeshSt := {}
  queues  : Tbl Queue := []
  hbm     : Tbl Stack := []
  power   : PowerSt := {}
  heat    : HeatSt := {}
  flash   : FlashSt := {}
  boot    : BootSt := {}
  stop    : StopSt := {}
  sec     : SecSt := {}
  side    : SideSt := {}
  ports   : Tbl Port := []
  vly     : VlySt := {}
  free    : Nat := 0
  rdata   : Word := 0
  deriving DecidableEq, Repr

/-- The device right after reset (R460, R497, R529-R533): no command waits, no register differs from its
reset value (`regs` lists only registers that do), no memory is listed, the counter reads 0. It is the reset of a
power-on: the standby rail comes up next, and reset is released after it (assumption log 4). -/
def State.reset : State := {}

/-- The answer of a meaning. -/
abbrev Out := Host.Outcome State Fault Refusal

end Sys2Proof.Machine
end

