-- ==== Sys2Proof/Machine/Tbl.lean ====
section
/-! DEFINITION. Sparse tables in one canonical form: keys strictly rising, and no entry equal to what an
unlisted key holds (`d`). The memory of the model is such a table of bytes. -/

namespace Sys2Proof.Machine

/-- What the table holds at key `k`; `d` where the key is not listed. -/
def tget {α : Type} (d : α) : Tbl α → Nat → α
  | [], _ => d
  | (j, v) :: t, k => if j = k then v else tget d t k

/-- The table with no entry at key `k`. -/
def tdel {α : Type} : Tbl α → Nat → Tbl α
  | [], _ => []
  | (j, u) :: t, k => if j = k then tdel t k else (j, u) :: tdel t k

/-- The table with an entry `v` at key `k`. -/
def tins {α : Type} : Tbl α → Nat → α → Tbl α
  | [], k, v => [(k, v)]
  | (j, u) :: t, k, v => if j < k then (j, u) :: tins t k v else if j = k then (k, v) :: t else (k, v) :: (j, u) :: t

/-- The table with `v` at key `k`. Writing `d` removes the entry. -/
def tput {α : Type} [DecidableEq α] (d : α) (t : Tbl α) (k : Nat) (v : α) : Tbl α :=
  if v = d then tdel t k else tins t k v

/-- The table with the entry at `k` changed by `f`. -/
def tmod {α : Type} [DecidableEq α] (d : α) (t : Tbl α) (k : Nat) (f : α → α) : Tbl α :=
  tput d t k (f (tget d t k))

/-- The table with every entry changed by `f`, which leaves `d` as it is. -/
def tmap {α : Type} [DecidableEq α] (d : α) (f : α → α) (t : Tbl α) : Tbl α :=
  t.foldl (fun u e => tput d u e.1 (f e.2)) []

/-- Every key of the table is greater than `k`. -/
def tabove {α : Type} (k : Nat) : Tbl α → Bool
  | [] => true
  | (j, _) :: t => decide (k < j) && tabove k t

/-- The canonical form: keys strictly rising and no entry equal to `d`. -/
def twf {α : Type} [DecidableEq α] (d : α) : Tbl α → Bool
  | [] => true
  | (j, v) :: t => decide (v ≠ d) && tabove j t && twf d t

/-- The canonical form of a memory whose unlisted bytes read 0 (bay space, HBM, a rafter's store). -/
def Memory.wf (m : Memory) : Bool := twf 0 m

/-- The byte at address `a`. -/
def readByte (m : Memory) (a : Nat) : Byte := tget 0 m a

/-- The memory with byte `b` at address `a`. -/
def writeByte (m : Memory) (a : Nat) (b : Byte) : Memory := tput 0 m a b

/-- The `n` bytes from address `a` upward. -/
def readBytes (m : Memory) (a : Nat) : Nat → List Byte
  | 0 => []
  | n + 1 => readByte m a :: readBytes m (a + 1) n

/-- The memory with the bytes `bs` from address `a` upward. -/
def writeBytes (m : Memory) (a : Nat) : List Byte → Memory
  | [] => m
  | b :: bs => writeBytes (writeByte m a b) (a + 1) bs

/-- Insertion into a list kept ascending by a key; equals keep their order. -/
def insertBy {α : Type} (key : α → Nat) (x : α) : List α → List α
  | [] => [x]
  | y :: l => if key x < key y then x :: y :: l else y :: insertBy key x l

/-- A list in ascending order of a key. -/
def sortBy {α : Type} (key : α → Nat) (l : List α) : List α := l.foldl (fun t x => insertBy key x t) []

end Sys2Proof.Machine
end

