-- ==== Sys2Proof/Machine/Ops.lean ====
section
/-! DEFINITION. Named operations that every family uses: registers as they are stored, time, free values,
event counters, notices, transactions to the host, the map of pairs and courses, rafters and their
notice words. -/

namespace Sys2Proof.Machine

/-! ## Registers as stored -/

/-- The stored value of a register. -/
def rg (s : State) (r : Reg) (i : Nat := 0) (j : Nat := 0) : Word := tget (regReset r i) s.regs (regOff r i j)

/-- The state with a register's stored value replaced. -/
def rgSet (s : State) (r : Reg) (i j : Nat) (v : Word) : State :=
  { s with regs := tput (regReset r i) s.regs (regOff r i j) v }

/-- A field of a stored register. -/
def rf (s : State) (r : Reg) (i lo n : Nat) : Nat := fld (rg s r i) lo n

/-- The state with a field of a stored register set. -/
def rfSet (s : State) (r : Reg) (i lo n v : Nat) : State := rgSet s r i 0 (setFld (rg s r i) lo n v)

/-- A bit of a stored register. -/
def rbit (s : State) (r : Reg) (i b : Nat) : Bool := bitOf (rg s r i) b

/-- The state with a counting field of a stored register increased by `k`, saturating. -/
def rfSat (s : State) (r : Reg) (i lo n k : Nat) : State := rfSet s r i lo n (satAdd n (rf s r i lo n) k)

/-! ## Time and phase of life -/

/-- Device time on the Ridge die: the duration counter (R52, R54). -/
def nowR (s : State) : Word := s.time.dcnt

/-- Device time on the Truss and Thatch dies: the last beacon received (R54). -/
def nowT (s : State) : Word := s.time.beacon

/-- The latest beacon that has reached its readers when the counter reads `t`. Each reader has a fixed delay of at most 64 ns
(R54); the model gives every one of them 64 ns (DESIGN CHOICE, assumption log 15). -/
def carried (t : Nat) : Nat := (t - 64) / 64 * 64

/-- The duration counter moved on to `t`; it never steps back (R52). The beacons that must have arrived by then have: the held
value lags the counter by less than 128 ns (R54). -/
def advanceTo (s : State) (t : Nat) : State :=
  let c := max s.time.dcnt.toNat t
  { s with time := { s.time with
      dcnt := BitVec.ofNat 64 c, beacon := BitVec.ofNat 64 (max s.time.beacon.toNat (carried c)) } }

/-- Whether `t` nanoseconds have passed on the Ridge die since `t0`. -/
def elapsedR (s : State) (t0 : Word) (t : Nat) : Bool := decide (t0.toNat + t ≤ s.time.dcnt.toNat)

/-- Whether a timeout of `t` nanoseconds that started at the held value `t0` has fired on the Truss or
Thatch dies: at the first beacon of at least t0 + t + 64 (R54). -/
def elapsedT (s : State) (t0 : Word) (t : Nat) : Bool := decide (t0.toNat + t + 64 ≤ s.time.beacon.toNat)

/-- A time on the Ridge die has come: the counter reads at least `t` (assumption log 15). -/
def dueR (s : State) (t : Nat) : State := advanceTo s t

/-- A time on the Truss and Thatch dies has come: the first beacon of at least `t` has arrived, 64 ns after it was sent. -/
def dueT (s : State) (t : Nat) : State :=
  let b := (t + 63) / 64 * 64
  let s := advanceTo s (b + 64)
  { s with time := { s.time with beacon := BitVec.ofNat 64 (max s.time.beacon.toNat b) } }

/-- The present step of bring-up, 1-10; 11 after SEAL (R497). -/
def bootStep (s : State) : Nat := rf s .bootStat 0 60 4

/-- Whether SEAL has made the SW fields read-only (R487 step 3). -/
def sealed (s : State) : Bool := decide (11 ≤ bootStep s)

/-- The present phase: 0 PRE, 1 ACTION, 2 POST, 3 DONE (R461, R497). -/
def bootPhase (s : State) : Nat := rf s .bootStat 0 58 2

/-- The state with a step and a phase shown. -/
def setBoot (s : State) (step phase : Nat) : State := rfSet (rfSet s .bootStat 0 60 4 step) .bootStat 0 58 2 phase

/-- ERR and DETAIL (R465). -/
def setErr (s : State) (err detail : Nat) : State :=
  rfSet (rfSet s .bootStat 0 40 8 err) .bootStat 0 24 16 detail

/-- Bring-up fails at the present step (R464, R465). -/
def bootFail (s : State) (err detail : Nat) : State := rfSet (setErr s err detail) .sysState 0 0 2 2

/-- SYS_STATE.STATE is SERVICE. -/
def inService (s : State) : Bool := decide (rf s .sysState 0 0 2 = 1)

/-- SYS_STATE.STATE is HALTED. -/
def halted (s : State) : Bool := decide (rf s .sysState 0 0 2 = 3)

/-- A fail stop or a shutdown has begun: every master is stopped (R363, R456). -/
def stopped (s : State) : Bool := s.stop.failStop.isSome || s.stop.shut.isSome

/-- Attended mode (R2, R497). -/
def attended (s : State) : Bool := rbit s .bootStat 0 57

/-! ## Free values -/

/-- The next free value and the state that has taken it. -/
def takeFree (s : State) : State × Word := ({ s with free := s.free + 1 }, Config.free s.free)

/-- Free bytes, drawn eight at a time. -/
def freeBytes (s : State) : Nat → State × List Byte
  | 0 => (s, [])
  | k + 1 =>
    let (s, d) := takeFree s
    let (s, bs) := freeBytes s k
    (s, wordBytes d ++ bs)

/-! ## Event counters (R147, R511-R515) -/

/-- Adds `k` to a counter register that wraps after 2^48 - 1 and then sets WRAP. -/
def addCount (v : Word) (k : Nat) : Word :=
  let t := fld v 0 48 + k
  let v' := setFld v 0 48 t
  if t < 2 ^ 48 then v' else setBit v' 63 true

/-- Sources of the Truss and Ridge banks that have no unit, so that UNIT does not matter (R515). -/
def unitless (src : Nat) : Bool :=
  decide (src < 0x100) || decide (0x110 ≤ src ∧ src ≤ 0x113) || decide (src = 0x115) ||
  decide (0x118 ≤ src ∧ src ≤ 0x11C) || decide (0x210 ≤ src ∧ src ≤ 0x213) || decide (src = 0x220 ∨ src = 0x221)

/-- One counter: it adds where its select register has EN and names the source and the unit. -/
def bumpOne (sel cnt : Reg) (i j src unit k : Nat) (s : State) : State :=
  let v := rg s sel i j
  if bitOf v 63 && decide (fld v 0 10 = src) && (unitless src || decide (fld v 16 16 = unit)) then
    rgSet s cnt i j (addCount (rg s cnt i j) k)
  else s

/-- Whether counters count at all: MON_CTL.FREEZE stops every bank (R516). -/
def counting (s : State) : Bool := !rbit s .monCtl 0 63

/-- An event of source `src` in rafter `n`'s bank. -/
def countR (s : State) (n src k : Nat) : State :=
  if counting s then (List.range 8).foldl (fun s j => bumpOne .monnSelk .monnCntk n j src 0 k s) s else s

/-- An event of source `src`, unit `unit`, in the Truss bank. -/
def countT (s : State) (src unit k : Nat) : State :=
  if counting s then (List.range 64).foldl (fun s i => bumpOne .monTselk .monTcntk i 0 src unit k s) s else s

/-- An event of source `src`, unit `unit`, in the Ridge bank. -/
def countG (s : State) (src unit k : Nat) : State :=
  if counting s then (List.range 32).foldl (fun s i => bumpOne .monRselk .monRcntk i 0 src unit k s) s else s

/-- An event of source `src` in the bank of HBM controller `st`: a counter whose UNIT is 32 takes every
pseudo-channel (R515). -/
def countH (s : State) (st src unit k : Nat) : State :=
  if counting s then
    (List.range 8).foldl (fun s j =>
      let s := bumpOne .monHselj .monHcntj (8 * st + j) 0 src unit k s
      if src = 0x305 then s else bumpOne .monHselj .monHcntj (8 * st + j) 0 src 32 k s) s
  else s

/-! ## Transactions to the host (R398-R400) -/

/-- A port is in UP (R403). -/
def portUp (s : State) (p : Nat) : Bool := decide (rf s .lnkpStat p 60 4 = 6)

/-- The host port takes a transaction, after those issued before it (R400). -/
def hostSend (s : State) (t : HostTxn) : State := { s with host := { s.host with tx := s.host.tx ++ [t] } }

/-- A 32-byte record of a ring in host memory: words 1-3 before word 0 (R110, R520). -/
def hostRecord (s : State) (addr : Nat) (w0 w1 w2 w3 : Word) : State :=
  hostSend (hostSend s (.mwr (BitVec.ofNat 64 (addr + 8)) (wordsBytes [w1, w2, w3])))
    (.mwr (BitVec.ofNat 64 addr) (wordBytes w0))

/-! ## Flows over the eaves links (R34, R446) -/

/-- The eaves links that are up, from link `k` upward modulo 4. -/
def eavesFrom (s : State) (k : Nat) : List Nat :=
  ((List.range 4).map fun i => (k + i) % 4).filter fun e => (tget ({} : Eaves) s.eaves e).up

/-- A flow between the Truss and Ridge dies (R34, R520). -/
inductive Flow
  | valley (i : Nat) | ring (r : Nat) | notices | ridgeRegs | housekeeping
  deriving DecidableEq, Repr

/-- The eaves link that a flow is homed to (R34, R520). -/
def flowHome : Flow → Nat
  | .valley i => i % 4
  | .ring r => r % 4
  | .notices => 0
  | .ridgeRegs => 0
  | .housekeeping => 0

/-- The eaves link that carries a flow: its home, or the next surviving link in ascending order modulo 4 (R34, R35). -/
def flowLink (s : State) (f : Flow) : Option Nat := (eavesFrom s (flowHome f)).head?

/-- A re-homed flow waits at its source: the takeover of a lost link before the one that carries it now is not done
(R446). -/
def flowWaits (s : State) (f : Flow) : Bool :=
  let lost := ((List.range 4).map fun i => tget ({} : Eaves) s.eaves ((flowHome f + i) % 4)).takeWhile fun e => !e.up
  lost.any (·.takeover)

/-- An access to a register of the Ridge die from the other dies waits at its source for a takeover (R34, R446). -/
def ridgeAway (s : State) (a : Nat) : Bool :=
  flowWaits s .ridgeRegs &&
    (match regAt (a / 8 * 8 - 0xF000000000) with | some x => ridgeRegs.contains x.reg | none => false)

/-! ## Notices (R471, R517-R523) -/

/-- Whether the notice ring can take a record: EN, not full, and the host port in UP (R520, R521). -/
def ringOpen (s : State) : Bool :=
  rbit s .monNctl 0 63 && portUp s 12 &&
    !decide ((rf s .monNtail 0 0 16 + 1) % 2 ^ rf s .monNctl 0 58 5 = rf s .monNhead 0 0 16)

/-- The transactions of a record go to the host port, or stand at their source while the flow of the notice ring waits for a
takeover (R446). -/
def noticeRecord (s : State) (addr : Nat) (w0 w1 w2 w3 : Word) : State :=
  if flowWaits s .notices || !s.notices.lined.isEmpty then
    { s with notices := { s.notices with lined := s.notices.lined ++
        [.mwr (BitVec.ofNat 64 (addr + 8)) (wordsBytes [w1, w2, w3]), .mwr (BitVec.ofNat 64 addr) (wordBytes w0)] } }
  else hostRecord s addr w0 w1 w2 w3

/-- The records that waited at their source go on, in their order. -/
def releaseNotices (s : State) : State :=
  if flowWaits s .notices then s
  else s.notices.lined.foldl hostSend { s with notices := { s.notices with lined := [] } }

/-- Writes a notice with its SEQ to the ring, advancing NTAIL and inverting the phase on a wrap. -/
def ringWrite (s : State) (q : BitVec 31) (m : Notice) : State :=
  let tail := rf s .monNtail 0 0 16
  let w0 := mkWord [(48, 16, m.typ), (32, 16, m.src), (31, 1, b2n s.notices.phase), (0, 31, q.toNat)]
  let s := noticeRecord s ((rg s .monNbase).toNat + 32 * tail) w0 m.time m.w2 m.w3
  let tail' := (tail + 1) % 2 ^ rf s .monNctl 0 58 5
  let s := rfSet s .monNtail 0 0 16 tail'
  { s with notices := { s.notices with phase := if tail' = 0 then !s.notices.phase else s.notices.phase } }

/-- The bay-space base of the notice log (R522). -/
def logBase (s : State) : Nat := fld (rg s .monLctl) 17 23 * 2 ^ 17

/-- The logical bay of a bay-space address (R37). -/
def bayOf (a : Nat) : Nat := (a / 2 ^ 12) % 256

/-- Whether a logical position is retired (R30). -/
def retired (s : State) (n : Nat) : Bool := rbit s .hubRetired (n / 64) (n % 64)

/-- Bay `b`. -/
def bay (s : State) (b : Nat) : Bay := tget {} s.bays b

/-- The state with bay `b` replaced. -/
def setBay (s : State) (b : Nat) (x : Bay) : State := { s with bays := tput {} s.bays b x }

/-- Words of bay `b` have been overwritten: no correction of theirs is due, and none is sticky (R297). -/
def forget (s : State) (b : Nat) (ws : List Nat) : State :=
  setBay s b { bay s b with
    fix := (bay s b).fix.filter fun w => !ws.contains (8 * w),
    sticky := (bay s b).sticky.filter fun e => !ws.contains (8 * e.1) }

/-- Writes a notice to the log, where its bay is live (R522): an aligned 32-byte bay write, which stores each of its four
words whole. Whether such a write is one that a watch sees (R139) no rule says; the model takes it as none (DESIGN CHOICE,
assumption log 75). -/
def logWrite (s : State) (q : BitVec 31) (m : Notice) : State :=
  let a := logBase s + 32 * (q.toNat % 4096)
  if rbit s .monLctl 0 63 && !retired s (bayOf a) then
    let w0 := mkWord [(48, 16, m.typ), (32, 16, m.src), (0, 31, q.toNat)]
    let s := forget (countT s 0x101 (bayOf a) 1) (bayOf a) ((List.range 4).map fun i => a + 8 * i)
    { s with mem := writeBytes s.mem a (wordsBytes [w0, m.time, m.w2, m.w3]),
             syn := (List.range 4).foldl (fun t i => tput 0 t (a / 8 + i) 0) s.syn }
  else s

/-- NEXT follows the sequence number (R520). -/
def setNext (s : State) (q : BitVec 31) : State :=
  rfSet { s with notices := { s.notices with next := q } } .monNstat 0 0 31 q.toNat

/-- A notice with its SEQ goes to the log; it goes to the ring where the ring is open, and is counted as dropped where the ring
is in use and not open (R521). -/
def emitNotice (s : State) (q : BitVec 31) (m : Notice) : State :=
  let s := logWrite s q m
  if ringOpen s then ringWrite s q m
  else if rbit s .monNctl 0 63 then
    let s := rfSat s .monNstat 0 32 32 1
    { s with notices := { s.notices with
        dropFirst := if s.notices.dropCount = 0 then some q else s.notices.dropFirst,
        dropCount := s.notices.dropCount + 1 } }
  else s

/-- A notice after SEAL: it takes the next SEQ (R517). -/
def putNotice (s : State) (m : Notice) : State := emitNotice (setNext s (s.notices.next + 1)) s.notices.next m

/-- The Lost notice that a freed entry lets the device write (R521): it names the first dropped SEQ and
the count, and takes its own SEQ at that moment. -/
def lostNotice (s : State) : State :=
  match s.notices.dropFirst with
  | some q =>
    if ringOpen s then
      let m : Notice := { typ := 0x0002, src := 0, time := nowR s, w2 := BitVec.ofNat 64 q.toNat,
                          w3 := BitVec.ofNat 64 s.notices.dropCount }
      putNotice { s with notices := { s.notices with dropFirst := none, dropCount := 0 } } m
    else s
  | none => s

/-- Before SEAL the Ridge controller holds up to 255 notices and counts the further ones (R471). One that is held takes the
next SEQ, one that is not takes none (R517): the notice at place i of `held` has SEQ i. -/
def holdNotice (s : State) (m : Notice) : State :=
  if s.notices.held.length < 255 then
    rfSet (setNext { s with notices := { s.notices with held := s.notices.held ++ [m] } } (s.notices.next + 1)) .bootStat 0 8 8
      (s.notices.held.length + 1)
  else rfSat s .bootStat 0 0 8 1

/-- Raises a notice with the time at which it is raised. None is written once a fail stop has begun
(R523). -/
def raiseAt (s : State) (t : Word) (typ src : Nat) (w2 w3 : Word) : State :=
  let m : Notice := { typ := typ, src := src, time := t, w2 := w2, w3 := w3 }
  if stopped s then s
  else if sealed s then putNotice (lostNotice s) m else holdNotice s m

/-- Raises a notice on the Ridge die. -/
def raiseR (s : State) (typ src : Nat) (w2 : Word) (w3 : Word := 0) : State := raiseAt s (nowR s) typ src w2 w3

/-- Raises a notice on the Truss or a Thatch die. -/
def raiseT (s : State) (typ src : Nat) (w2 : Word) (w3 : Word := 0) : State := raiseAt s (nowT s) typ src w2 w3

/-- A SOURCE: class and index (R518). -/
def srcOf (cls idx : Nat) : Nat := (cls % 16) * 4096 + idx % 4096

/-- The SOURCE of a master of an access: rafter n, or 256 + port; a ring is served through the host port
(R518). The index of the stage list is not stated (assumption log 13). -/
def masterSrc : Master → Nat
  | .host => srcOf 7 268
  | .rafter n => srcOf 7 n.val
  | .stage => srcOf 7 Config.stageSource.toNat
  | .ring _ => srcOf 7 268

/-- The access notice of `kind` for a register address (R15, R519). -/
def accessNotice (s : State) (m : Master) (kind : Nat) (addr : Nat) (v : Word) : State :=
  raiseR s 0x0001 (masterSrc m) (mkWord [(56, 8, kind), (0, 40, addr)]) v

/-- The device address of a register. -/
def regAddr (r : Reg) (i : Nat := 0) (j : Nat := 0) : Nat := 0xF000000000 + regOff r i j

/-! ## Pairs, courses, liveness (R24-R32) -/

/-- The physical pair of its die that serves logical position `n` (R24, R28). -/
def physOf (s : State) (n : Nat) : Nat :=
  let v := rg s .hubSpared (n / 64)
  let l := n % 64
  if bitOf v 15 && decide (fld v 8 6 = l) then 64
  else if bitOf v 31 && decide (fld v 24 6 = l) then 65 else l

/-- The Thatch course within its die that powers a physical pair (R31). -/
def pairK (d p : Nat) : Nat :=
  if p = 64 then (if d % 2 = 0 then 3 else 0)
  else if p = 65 then (if d % 2 = 0 then 15 else 12)
  else 4 * (p / 8 / 2) + p % 8 / 2

/-- The Thatch course that powers logical rafter `n` (R31, R32). -/
def courseOf (s : State) (n : Nat) : Nat := 16 * (n / 64) + pairK (n / 64) (physOf s n)

/-- The mesh row of a physical pair: the spare stops of R22, or R24. -/
def pairRow (d p : Nat) : Nat :=
  if p = 64 then (if d = 0 then 0 else if d = 1 then 1 else if d = 2 then 8 else 9)
  else if p = 65 then (if d = 0 then 6 else if d = 1 then 7 else if d = 2 then 14 else 15)
  else 8 * (d / 2) + p / 8

/-- The physical column of a physical pair (R21, R24). -/
def pairCol (d p : Nat) : Nat :=
  if 64 ≤ p then 8 else let c := 8 * (d % 2) + p % 8
    if c < 8 then c else c + 1

/-- The Truss course (mesh row) of logical bay `b`. -/
def rowOf (s : State) (b : Nat) : Nat := pairRow (b / 64) (physOf s b)

/-! ## Stops of the Purlin mesh (R21-R25) -/

/-- The number of the stop at a row and physical column, 17 x row + column (R515). -/
def stopAt (p : Nat × Nat) : Nat := 17 * p.1 + p.2

/-- The stop of logical bay `b`: once its position is mapped to a spare, the spare's stop (R24, R25). -/
def bayStop (s : State) (b : Nat) : Nat × Nat := (rowOf s b, pairCol (b / 64) (physOf s b))

/-- The stops S2-S5 of the central hub (R22). -/
def hubStop (k : Nat) : Nat × Nat := (2 + k, 8)

/-- The stops S10-S13 of the session engine; S(10 + d) serves Thatch die d (R22). -/
def sesStop (d : Nat) : Nat × Nat := (10 + d, 8)

/-- The stop of HBM controller `t` (R23). -/
def hbmStop (t : Nat) : Nat × Nat := (nth [1, 5, 10, 14] (t % 4) 0, if t < 4 then 0 else 16)

/-- The stop of the Truss end of eaves link `e` (R23). -/
def eavesStop (e : Nat) : Nat × Nat := (15, 4 * e + 2)

/-- The Truss course that powers HBM controller `t`: that of its mesh row (R31, R306). -/
def hbmCourse (t : Nat) : Nat := 64 + (hbmStop t).1

/-- The stop of an endpoint. -/
def destStop (s : State) : PDest → Nat × Nat
  | .bay n => bayStop s n
  | .hub k => hubStop k
  | .ses d => sesStop d
  | .hbm t => hbmStop t
  | .eaves e => eavesStop e

/-- Hops between two stops under the routing of R21. -/
def hopsTo (a b : Nat × Nat) : Nat := (a.1 - b.1) + (b.1 - a.1) + ((a.2 - b.2) + (b.2 - a.2))

/-- The logical rafters that a Thatch course powers at this moment (R32). -/
def raftersOf (s : State) (q : Nat) : List Nat :=
  idxs 256 fun n => decide (courseOf s n = q) && !retired s n

/-- A course that is dark (R352). -/
def courseDark (s : State) (q : Nat) : Bool := decide (rf s .pwrqVstat q 61 3 = 4)

/-- Live logical rafters. -/
def liveCount (s : State) : Nat := (idxs 256 fun n => !retired s n).length

/-- Slates per rafter in the part's grade (R3). -/
def gradeSlates : Grade → Byte
  | .a7s_09 => 0x7F
  | _ => 0xFF

/-! ## Rafters and notice words -/

/-- Rafter `n`. -/
def raf (s : State) (n : Nat) : Rafter := tget {} s.rafters n

/-- A rafter has work (R347): a slate command queued or running, a yealm slot in RUN, a channel BUSY. -/
def rafBusy (r : Rafter) : Bool :=
  !r.scmds.isEmpty || r.ys.any (fun y => decide (y.2.st = .run)) || r.chans.any fun c => decide (c.2.st = .busy)

/-- The state with rafter `n` replaced; where it had work, or has, the time is noted (R347). -/
def setRaf (s : State) (n : Nat) (r : Rafter) : State :=
  { s with
    rafters := tput {} s.rafters n r,
    work := if rafBusy (raf s n) || rafBusy r then tput 0 s.work n (nowT s) else s.work }

/-- The state with rafter `n` changed by `f`. -/
def modRaf (s : State) (n : Nat) (f : Rafter → Rafter) : State := setRaf s n (f (raf s n))

/-- The 64-bit word of a rafter store at a byte offset. -/
def storeWord (r : Rafter) (o : Nat) : Word := bytesWord (readBytes r.store o 8)

/-- The rafter with a store word written. -/
def setStoreWord (r : Rafter) (o : Nat) (w : Word) : Rafter := { r with store := writeBytes r.store o (wordBytes w) }

/-- The store offset of notice word `i` (R115, R128). -/
def noticeOff (i : Nat) : Nat := 0xEE000 + 8 * i

/-- The value a unit writes into a notice word that holds `old` (R128, R129). -/
def noticeValue (old : Word) (status value : Nat) : Word :=
  mkWord [(63, 1, 1), (62, 1, b2n (bitOf old 63)), (48, 8, status), (0, 48, value)]

/-- A rafter with notice word `i` written by a unit (R128). -/
def notify (r : Rafter) (i status value : Nat) : Rafter :=
  setStoreWord r (noticeOff i) (noticeValue (storeWord r (noticeOff i)) status value)

/-- Notice word `i` of rafter `n` written by a unit; words 0 and 1 are not named by commands. -/
def notifyRaf (s : State) (n i status value : Nat) : State :=
  if i = 0 then s else modRaf s n fun r => notify r i status value

/-- Stream channel `c` of a rafter. -/
def chan (r : Rafter) (c : Nat) : Chan := tget {} r.chans c

/-- The rafter with stream channel `c` replaced. -/
def setChan (r : Rafter) (c : Nat) (x : Chan) : Rafter := { r with chans := tput {} r.chans c x }

/-- Physical slate `p` of a rafter. -/
def slate (r : Rafter) (p : Nat) : Slate := tget {} r.slates p

/-- The rafter with physical slate `p` replaced. -/
def setSlate (r : Rafter) (p : Nat) (x : Slate) : Rafter := { r with slates := tput {} r.slates p x }

/-- Yealm slot `y` of a rafter. -/
def yslot (r : Rafter) (y : Nat) : YSlot := tget {} r.ys y

/-- The rafter with yealm slot `y` replaced. -/
def setYslot (r : Rafter) (y : Nat) (x : YSlot) : Rafter := { r with ys := tput {} r.ys y x }

/-- Channels of a rafter that are FROZEN, as RAFn_STAT.CHFRZ shows them. -/
def chfrz (r : Rafter) : Nat :=
  ((List.range 16).filter fun c => (chan r c).st = .frozen).foldl (fun a c => a + 2 ^ c) 0

/-- A scalar register; s0 reads as zero (R123). -/
def sreg (r : Rafter) (i : Nat) : Word := if i = 0 then 0 else tget 0 r.sr i

/-- The rafter with a scalar register written; a write to s0 is ignored (R123). -/
def setSreg (r : Rafter) (i : Nat) (w : Word) : Rafter := if i = 0 then r else { r with sr := tput 0 r.sr i w }

/-- When a Thatch course last had work, or none while it has (R347). -/
def quietSince (s : State) (q : Nat) : Option Nat :=
  if (raftersOf s q).any fun n => rafBusy (raf s n) then none
  else some ((raftersOf s q).foldl (fun a n => max a (tget 0 s.work n).toNat) 0)

/-- A Thatch course has been quiet for PWR_CTL.IDLE µs; with IDLE 0 none is idle (R347). -/
def longQuiet (s : State) (q : Nat) : Bool :=
  let us := rf s .pwrCtl 0 8 8
  match quietSince s q with
  | some t => decide (us ≠ 0 ∧ t + 1000 * us ≤ (nowT s).toNat)
  | none => false

/-! ## Cells and voltages of a course (R334-R337, R343) -/

/-- The cells of a course (R334). -/
def cellCount (q : Nat) : Nat := if q < 64 then 6 else if q < 80 then 8 else 4

/-- Failed cells of a course, from PWRq_VSTAT.FAILED. -/
def failedCells (s : State) (q : Nat) : Nat := popcount (rf s .pwrqVstat q 27 8) 8

/-- Working cells of a course. -/
def workCells (s : State) (q : Nat) : Nat := cellCount q - failedCells s q

/-- The grade's voltage ceiling (R350). -/
def gvmax (s : State) : Nat := rf s .pwrCtl 0 28 10

/-- The ladder ceiling of a course, mV (R335-R337). -/
def ladder (s : State) (q : Nat) : Nat :=
  let k := failedCells s q
  let g := gvmax s
  if 80 ≤ q ∨ k = 0 then g
  else if k = 1 then max 650 (g - 50)
  else if q < 64 then 650
  else if k = 2 then max 650 (g - 100) else 650

/-- The terms of a course's ceiling in the order of R343, by their numbers in PWRq_VSTAT.LIMIT. -/
def ceilTerms (s : State) (q : Nat) : List (Nat × Nat) :=
  let g := gvmax s
  let i := tget 0 s.power.iceil q
  [(0, g), (1, rf s .pwrqVctl q 38 10), (2, ladder s q)] ++
  (if q < 80 then [(3, rf s .pwrCtl 0 38 10)] else []) ++
  [(4, if i = 0 then g else i), (5, rf s .pwrqVctl q 28 10)]

/-- The term that sets the ceiling, with its voltage: the first of the least (R343). -/
def ceilTerm (s : State) (q : Nat) : Nat × Nat := (leastBy Prod.snd (ceilTerms s q)).getD (0, gvmax s)

/-- The ceiling, never below the floor (R343). -/
def ceilOf (s : State) (q : Nat) : Nat := max 550 (ceilTerm s q).2

/-- A course whose rail is up: staging or live (R339). -/
def railUp (s : State) (q : Nat) : Bool := decide (rf s .pwrqVstat q 61 3 = 2 ∨ rf s .pwrqVstat q 61 3 = 3)

/-- PWRq_VSTAT.VCEIL (R352): the present ceiling of a course whose rail is up. -/
def vceil (s : State) (q : Nat) : Nat := if railUp s q then ceilOf s q else 0

/-- PWRq_VSTAT as it reads (R347, R352). -/
def vstatView (s : State) (q : Nat) : Word :=
  let v := rg s .pwrqVstat q
  let v := setBit v 14 (bitOf v 14 && longQuiet s q)
  if railUp s q then setFld (setFld v 38 10 (ceilOf s q)) 35 3 (ceilTerm s q).1 else v

/-- What a step does when no command waits: with the Ridge course powered the duration counter counts a
nanosecond, and the beacons due by then arrive (R52, R54); nothing else happens (assumption log 19). -/
def idle (s : State) : State := if s.boot.ridgeOn then advanceTo s (s.time.dcnt.toNat + 1) else s

end Sys2Proof.Machine
end

