-- ==== Sys2Proof/Machine/Queues.lean ====
section
/-! DEFINITION. Boundary queues (R60-R76): their registers and numbering, packing, flushes, timeouts, and
the commands on them. -/

namespace Sys2Proof.Machine

/-- The control register, the status register and the instance of queue `q`, in the row order of R74. -/
def qRegs (q : Nat) : Reg × Reg × Nat :=
  if q < 13 then (.lnkpRxqCtl, .lnkpRxqStat, q) else if q < 26 then (.lnkpTxqCtl, .lnkpTxqStat, q - 13)
  else if q < 30 then (.eaveTrxqCtl, .eaveTrxqStat, q - 26) else if q < 34 then (.eaveTtxqCtl, .eaveTtxqStat, q - 30)
  else if q < 38 then (.eaveRrxqCtl, .eaveRrxqStat, q - 34) else if q < 42 then (.eaveRtxqCtl, .eaveRtxqStat, q - 38)
  else if q < 50 then (.hbmsRdqCtl, .hbmsRdqStat, q - 42) else if q < 58 then (.hbmsWrqCtl, .hbmsWrqStat, q - 50)
  else if q < 59 then (.bootXqCtl, .bootXqStat, 0) else (.bootXwqCtl, .bootXwqStat, 0)

/-- The queue of a control or status register. -/
def qOfReg (r : Reg) (i : Nat) : Option Nat :=
  (List.range 60).find? fun q => (qRegs q).2.2 = i && (decide ((qRegs q).1 = r) || decide ((qRegs q).2.1 = r))

/-- Whether a queue's reading side is clocked: the SerDes, the PHY or the flash interface (R64, R74). -/
def qClocked (q : Nat) : Bool :=
  decide (13 ≤ q ∧ q < 26) || decide (30 ≤ q ∧ q < 34) || decide (38 ≤ q ∧ q < 42) || decide (50 ≤ q ∧ q < 58) ||
  decide (q = 59)

/-- Whether a queue lies at the Ridge die's end, where time is the duration counter. -/
def qRidge (q : Nat) : Bool := decide (q < 26 ∨ (34 ≤ q ∧ q < 42) ∨ 58 ≤ q)

/-- The time that a queue's timeout counts by. -/
def qNow (s : State) (q : Nat) : Word := if qRidge q then nowR s else nowT s

/-- Queue `q`. -/
def queue (s : State) (q : Nat) : Queue := tget {} s.queues q

/-- The state with queue `q` replaced. -/
def setQueue (s : State) (q : Nat) (x : Queue) : State := { s with queues := tput {} s.queues q x }

/-- The control register's value. -/
def qCtl (s : State) (q : Nat) : Word := rg s (qRegs q).1 (qRegs q).2.2

/-- DEPTH (R76). -/
def qDepth (s : State) (q : Nat) : Nat := rf s (qRegs q).2.1 (qRegs q).2.2 48 16

/-- PACK (R75). -/
def qPack (s : State) (q : Nat) : Nat := fld (qCtl s q) 28 4

/-- Whole packets held (R63). -/
def qPkts (x : Queue) : Nat := (x.words.filter (·.endm)).length

/-- The status register as it reads (R76). -/
def qStatView (s : State) (q : Nat) : Word :=
  let x := queue s q
  let v := rg s (qRegs q).2.1 (qRegs q).2.2
  let n := x.words.length
  let v := setFld (setFld v 32 16 n) 16 16 (qPkts x)
  setBit (setBit (setBit v 6 (decide (n = qDepth s q))) 5 x.words.isEmpty) 4 (!x.part.isEmpty)

/-- A queue packs narrow items (R66, R75). -/
def qPacks (s : State) (q : Nat) : Bool := decide (qPack s q = 1 ∨ qPack s q = 3)

/-- A queue is non-empty for its timeout: its store holds a word, or it holds a partial word (R69). -/
def qHolds (x : Queue) : Bool := !x.words.isEmpty || !x.part.isEmpty

/-- A queue with words appended to its store; the time at which it became non-empty starts its timeout (R69). -/
def qPut (x : Queue) (now : Word) (ws : List QWord) : Queue :=
  { x with words := x.words ++ ws, since := if qHolds x || ws.isEmpty then x.since else now }

/-- A queue takes a word (R60, R62): VB is 0 in a queue that does not pack. -/
def qWrite (s : State) (q : Nat) (w : QWord) : State :=
  setQueue s q (qPut (queue s q) (qNow s q) [if qPacks s q then w else { w with vb := 0 }])

/-- The word that a partial word forms: unfilled bytes zero, VB the count of valid ones, parity as R289
generates it (R66, R68). -/
def packWord (bs : List Byte) (endm : Bool) : QWord :=
  let w := bytesWord bs
  { w := w, parity := xorBits w, endm := endm, vb := BitVec.ofNat 3 bs.length }

/-- Bytes cut into the words that a packing queue writes, the end mark on the last where the packet ends, and the partial
word left (R66); `n` bounds the words. -/
def packBytes (bs : List Byte) (endm : Bool) : Nat → List QWord × List Byte
  | 0 => ([], bs)
  | n + 1 =>
    if bs.length < 8 then (if endm && !bs.isEmpty then ([packWord bs true], []) else ([], bs))
    else
      let (ws, rest) := packBytes (bs.drop 8) endm n
      (packWord (bs.take 8) (endm && (bs.drop 8).isEmpty) :: ws, rest)

/-- A flush (R66): a partial word is written, once the store has room (R60); none has no effect. -/
def qFlush (s : State) (q : Nat) : State :=
  let x := queue s q
  if qPacks s q ∧ !x.part.isEmpty then
    if x.words.length < qDepth s q then
      setQueue s q { qPut x (qNow s q) [packWord x.part false] with part := [], due := false }
    else setQueue s q { x with due := true }
  else s

/-- A reset of the owning unit empties the queue; TMO clears and SW fields stay (R73). -/
def qReset (s : State) (q : Nat) : State :=
  rfSet (setQueue s q {}) (qRegs q).2.1 (qRegs q).2.2 7 1 0

/-- The consumer may start on the packet at the head of a queue: it holds a whole packet, or CUT is reached, or the
timeout fired (R63, R64, R70); a full queue can wait for nothing more (assumption log 46). -/
def qStarts (s : State) (q : Nat) : Bool :=
  let x := queue s q
  let n := x.words.length
  let cut := fld (qCtl s q) 32 16
  decide (x.go ≠ 0 ∨ 1 ≤ qPkts x ∨ (cut ≠ 0 ∧ cut ≤ n) ∨ qDepth s q ≤ n)

/-- Whether the consumer may take the next word (R63, R64, R70): a clocked one starts and goes on only on whole flits of
32 words, but for the tail of a packet. -/
def qMayTake (s : State) (q : Nat) : Bool :=
  let x := queue s q
  !x.words.isEmpty && (x.mid || qStarts s q) &&
    (!qClocked q || decide (x.taken ≠ 0) || decide (1 ≤ qPkts x) || decide (32 ≤ x.words.length))

/-- A queue from which `k` words have been taken: the read re-arms the timeout, and the consumer is inside a packet until
it has taken its end mark (R64, R69, R70). -/
def qTake (x : Queue) (now : Word) (k : Nat) : Queue :=
  let gone := x.words.take k
  { x with
    words := x.words.drop k, since := now, fired := false, go := x.go - k,
    mid := !(gone.any (·.endm)) }

/-! ## Parity of what a queue passes on (R72) -/

/-- A word whose parity does not fit is repaired from the copy that the upstream hop holds (R72, R290): what that hop sent is not
the queue's to know, and its value is free (assumption log 46). -/
def heldCopy (s : State) (w : QWord) : State × QWord :=
  if w.parity = xorBits w.w then (s, w) else
  let (s, v) := takeFree s
  (s, { w with w := v, parity := xorBits v })

/-- Words repaired from the copies that the upstream hop holds. -/
def heldCopies (s : State) : List QWord → State × List QWord
  | [] => (s, [])
  | w :: l =>
    let (s, w) := heldCopy s w
    let (s, l) := heldCopies s l
    (s, w :: l)

/-- The word at the head of a queue is resent by the upstream hop (R72). -/
def repairHead (s : State) (q : Nat) : State :=
  match (queue s q).words with
  | [] => s
  | w :: l =>
    let (s, w) := heldCopy s w
    setQueue s q { queue s q with words := w :: l }

end Sys2Proof.Machine
end

