-- ==== Sys2Proof/Machine/Memory.lean ====
section
/-! DEFINITION. Stored data: the bays' words with their check bits (R275-R304), the HBM line cache in
the bays (R278-R282), HBM behind its controllers (R307, R311-R313), and the updates that watches see
(R139). Every device access of every master goes through `devRead` and `devWrite`. -/

namespace Sys2Proof.Machine

/-! ## Addresses -/

/-- An address of bay space (R11). -/
def isBay (a : Nat) : Bool := decide (a < 0x180000000)

/-- An address of HBM (R11). -/
def isHbm (a : Nat) : Bool := decide (0x1000000000 ≤ a ∧ a < 0x4000000000)

/-- An address of register space (R11). -/
def isRegs (a : Nat) : Bool := decide (0xF000000000 ≤ a ∧ a < 0x10000000000)

/-- The way of a bay-space address (R37). -/
def wayOf (a : Nat) : Nat := a / 2 ^ 28

/-- The byte offset within its bay of a bay-space address (R37). -/
def offOf (a : Nat) : Nat := a / 2 ^ 20 * 4096 + a % 4096

/-- The bay-space address of an offset within a bay (R37, R273). -/
def bayAddr (b o : Nat) : Nat := o / 4096 * 2 ^ 20 + b * 4096 + o % 4096

/-- The session table region (R38). -/
def inSesTable (a : Nat) : Bool := decide (0x17C000000 ≤ a ∧ a < 0x180000000)

/-- The 256-byte line of an address. -/
def lineOf (a : Nat) : Nat := a / 256 * 256

/-- Whether way `w` is configured as cache (R278). -/
def isCacheWay (s : State) (w : Nat) : Bool := decide (w < 23) && rbit s .bayWaycfg 0 w

/-- The HBM cache ways, in ascending order. -/
def cacheWays (s : State) : List Nat := idxs 23 (isCacheWay s)

/-- The HBM line index of R279 and R307. -/
def hbmLine (h : Nat) : Nat := (h - 0x1000000000) / 256

/-- The home bay of an HBM address (R279). -/
def homeOf (h : Nat) : Nat :=
  let l := hbmLine h
  (l ^^^ (l / 2 ^ 8) ^^^ (l / 2 ^ 16) ^^^ (l / 2 ^ 24)) % 256

/-- The set of an HBM address (R279). -/
def setOf (h : Nat) : Nat := hbmLine h / 2 ^ 8 % 4096

/-- The tag of an HBM address (R279). -/
def tagOf (h : Nat) : Nat := hbmLine h / 2 ^ 20

/-- The selector of R307, from which the stack and the pseudo-channel come. -/
def hbmSel (h : Nat) : Nat := let l := hbmLine h; (l ^^^ (l / 2 ^ 9) ^^^ (l / 2 ^ 17)) % 256

/-- The stack of an HBM address (R307). -/
def stackOf (h : Nat) : Nat := hbmSel h / 32

/-- The pseudo-channel of an HBM address (R307). -/
def pcOf (h : Nat) : Nat := hbmSel h % 32

/-- The bank of an HBM address with its stack identifier (R307). -/
def bankOf (h : Nat) : Nat := let m := hbmLine h / 2 ^ 8; m / 2 ^ 20 * 16 + m / 4 % 16

/-- The row of an HBM address (R307). -/
def hrowOf (h : Nat) : Nat := hbmLine h / 2 ^ 8 / 64 % 2 ^ 14

/-- HBM controller `t`. -/
def stack (s : State) (t : Nat) : Stack := tget {} s.hbm t

/-- The state with HBM controller `t` replaced. -/
def setStack (s : State) (t : Nat) (x : Stack) : State := { s with hbm := tput {} s.hbm t x }

/-- BAYb_STAT.STATE (R304). -/
def bayState (s : State) (b : Nat) : Nat := rf s .baybStat b 62 2

/-! ## Who makes an access (R288, R317, R319) -/

/-- The access attributes of the session engine: no rafter, class SES of QOS_MCLS (R317). -/
def sesAcc (s : State) : Acc := { raf := 0xFFFF, cons := 11, cls := rf s .qosMcls 0 12 4 }

/-- The attributes of a device access by rafter `n`'s sequencer (R288 row 2, R317). -/
def rafAcc (s : State) (n : Nat) : Acc :=
  { raf := n, cons := 2, cls := rf s .qosMcls 0 20 4, stop := some (bayStop s n) }

/-- The attributes of a device access by rafter `n`'s yealm engine (R288 row 3, R317). -/
def ylmAcc (s : State) (n : Nat) : Acc :=
  { raf := n, cons := 3, cls := rf s .qosMcls 0 16 4, stop := some (bayStop s n) }

/-- The attributes of an access by the gate unit (R288 row 11, R317). -/
def gateAcc (s : State) : Acc := { raf := 0xFFFF, cons := 11, cls := rf s .qosMcls 0 8 4 }

/-- The attributes of an access by valley ingress or egress for end `i`, which crosses the eaves link that carries the
valley (R34, R288 row 11, R317). -/
def vinAcc (s : State) (i : Nat) : Acc :=
  { raf := 0xFFFF, cons := 11, cls := rf s .qosMcls 0 4 4, stop := (flowLink s (.valley i)).map eavesStop }

/-- The attributes of an access by SHARD_LOAD from ring `r` (R34, R317). -/
def hostAcc (s : State) (r : Nat) : Acc :=
  { raf := 0xFFFF, cons := 11, cls := rf s .qosMcls 0 0 4, stop := (flowLink s (.ring r)).map eavesStop }

/-- The attributes of an access by stream channel `c` of rafter `n` (R288 row 7, R317). -/
def chanAcc (s : State) (n c : Nat) : Acc :=
  { raf := n, cons := 7, cls := fld (rg s .qosChcls) (4 * c) 4, stop := some (bayStop s n) }

/-- The attributes of a request by its origin (R288, R317, R319). An instruction fetch goes under the sequencer's class
(assumption log 72). -/
def orgAcc (s : State) : Origin → Acc
  | .fetch n => { rafAcc s n with cons := 1 }
  | .seq n => rafAcc s n
  | .cadd n ret => { rafAcc s n with cons := if ret then 4 else 5 }
  | .ylm n => ylmAcc s n
  | .chan n c => chanAcc s n c
  | .ses k => { sesAcc s with stop := some (sesStop k) }
  | .gate k => { gateAcc s with stop := some (sesStop k) }
  | .vin e => { raf := 0xFFFF, cons := 11, cls := rf s .qosMcls 0 4 4, stop := some (eavesStop e) }
  | .shard e => { raf := 0xFFFF, cons := 11, cls := rf s .qosMcls 0 0 4, stop := some (eavesStop e) }

/-! ## Check bits (R284-R286) -/

/-- The columns of the code, smallest first (R284). -/
def eccCols : List Nat := ((List.range 256).filter fun v => popcount v 8 = 3 || popcount v 8 = 5).take 64

/-- The check bits of a data word (R284). -/
def checkBits (w : Word) : Byte :=
  BitVec.ofNat 8 (((List.range 64).zip eccCols).foldl (fun a p => if bitOf w p.1 then a ^^^ p.2 else a) 0)

/-- What a syndrome says (R285). -/
inductive Ecc
  | ok | check | flip (i : Nat) | bad
  deriving DecidableEq, Repr

/-- The reading of a syndrome (R285). -/
def eccOf (y : Byte) : Ecc :=
  if y = 0 then .ok
  else if popcount y.toNat 8 = 1 then .check
  else match eccCols.findIdx? (· = y.toNat) with
    | some i => .flip i
    | none => .bad

/-- The syndrome of a poisoned word: that of flipping data bits 0 and 1 (R286). -/
def poisonSyn : Byte := 0x0C

/-- The syndrome of the stored word at a bay-space address. -/
def synAt (s : State) (a : Nat) : Byte := tget 0 s.syn (a / 8)

/-- The state with a word's syndrome set. -/
def setSyn (s : State) (a : Nat) (y : Byte) : State := { s with syn := tput 0 s.syn (a / 8) y }

/-- The word stored at an address, corrected where its syndrome names a data bit (R285). -/
def wordAt (s : State) (a : Nat) : Word :=
  let w := bytesWord (readBytes s.mem a 8)
  match eccOf (synAt s a) with
  | .flip i => w ^^^ BitVec.ofNat 64 (2 ^ i)
  | _ => w

/-- Whether the stack or the pseudo-channel of an HBM address answers every access uncorrectable and
discards writes (R314). -/
def hbmDead (s : State) (h : Nat) : Bool :=
  decide (rf s .hbmsStat (stackOf h) 62 2 = 2) || rbit s .hbmsStat (stackOf h) (pcOf h)

/-- A word of an HBM line that the poison list of its controller holds, or that the controller answers uncorrectable
with every other (R313, R314). -/
def hbmBad (s : State) (a : Nat) : Bool :=
  hbmDead s a || (tget 0 (stack s (stackOf a)).poison (lineOf a)).getLsbD (a % 256 / 8)

/-- Whether the word at a storage address is uncorrectable: by its syndrome in a bay (R285); in HBM by the poison list, or
flagged in a read whose data no consumer has taken yet (R312, R313). -/
def badAt (s : State) (a : Nat) : Bool :=
  if isBay a then decide (eccOf (synAt s a) = .bad)
  else hbmBad s a || (tget 0 (stack s (stackOf a)).flags (lineOf a)).getLsbD (a % 256 / 8)

/-- The words of a line that are uncorrectable, by index. -/
def badWords (s : State) (l : Nat) : List Nat := idxs 32 fun i => badAt s (l + 8 * i)

/-- The words of a bay line whose syndrome is correctable. -/
def ceWords (s : State) (l : Nat) : List Nat :=
  idxs 32 fun i => match eccOf (synAt s (l + 8 * i)) with | .check => true | .flip _ => true | _ => false

/-! ## Events of a bay (R288, R299, R300) -/

/-- An event in the leaky bucket (R299). -/
def bucketEvent (s : State) (b : Nat) : State :=
  let lv := rf s .eccbStat b 8 8
  if lv = rf s .eccLbctl 0 0 8 then
    let s := rfSet s .eccbStat b 0 1 1
    if (bay s b).ovfSaid then s
    else
      let s := setBay s b { bay s b with ovfSaid := true }
      raiseT s 0x0033 (srcOf 2 b) (mkWord [(0, 32, rf s .eccbStat b 32 32)])
  else rfSet s .eccbStat b 8 8 (lv + 1)

/-- A correctable event at the address `a` of bay `b`, found by `src`: recorded, counted, put in the bucket (R299,
R300). -/
def ceCount (s : State) (b a src : Nat) : State :=
  let s := rfSat s .eccbStat b 32 32 1
  let s := rgSet s .eccbAddr b 0 (mkWord [(62, 2, 1), (60, 2, src), (3, 37, a / 8)])
  bucketEvent (countT s 0x105 b 1) b

/-- A correctable event at the word `a` of bay `b`, found by `src` (R300); the word is due for write-back (R285). -/
def ceEvent (s : State) (b a src : Nat) : State :=
  let s := ceCount s b a src
  if (bay s b).fix.contains (a / 8) then s else setBay s b { bay s b with fix := (bay s b).fix ++ [a / 8] }

/-- An uncorrectable event at the word `a` of bay `b` (R288): UE, ADDR and, unless the line is a clean
cache line, a notice. -/
def ueEvent (s : State) (b a src : Nat) (acc : Acc) (notice : Bool) : State :=
  let s := rfSat s .eccbStat b 16 16 1
  let s := rgSet s .eccbAddr b 0 (mkWord [(62, 2, 2), (60, 2, src), (3, 37, a / 8)])
  if notice then raiseT s 0x0032 (srcOf 2 b) (mkWord [(0, 40, a)]) (mkWord [(8, 16, acc.raf), (0, 8, acc.cons)])
  else s

/-- The events of one array access that reads the line at `l` (R285, R288). -/
def readEvents (s : State) (l src : Nat) (acc : Acc) (notice : Bool) : State :=
  let s := (ceWords s l).foldl (fun s i => ceEvent s (bayOf l) (l + 8 * i) src) s
  match badWords s l with
  | [] => s
  | i :: _ => ueEvent s (bayOf l) (l + 8 * i) src acc notice

/-! ## Beats on a spar channel (R20, R140, R293) -/

/-- The spar channel of pair `n`. -/
def sparOf (s : State) (n : Nat) : Spar := tget {} s.spars n

/-- The state with a spar channel replaced. -/
def setSpar (s : State) (n : Nat) (x : Spar) : State := { s with spars := tput {} s.spars n x }

/-- SPRn_STAT.STAGE (R295). -/
def sparStage (s : State) (n : Nat) : Nat := rf s .sprnStat n 62 2

/-- The beats of `bytes` on the spar channel, at the present width (R140, R293): `unit` bytes at full width. -/
def sparBeats (s : State) (n unit bytes : Nat) : Nat :=
  let u := if sparStage s n = 0 then unit else unit / 2
  (bytes + u - 1) / u

/-- Bytes cross to the rafter, 256 at a time (R20, R515). -/
def readBeats (s : State) (n bytes : Nat) : State := countR s n 0x009 (sparBeats s n 256 bytes)

/-- Bytes cross from the rafter, or from its bay's stop into its store, 128 at a time on the write path (R20, R118,
R515). -/
def writeBeats (s : State) (n bytes : Nat) : State := countR s n 0x00A (sparBeats s n 128 bytes)

/-- A notice word of rafter `n` is written from outside it: the word crosses the rafter's spar channel into the store (R20,
R128, R515), once the lane test that pauses the channel is over (R292). -/
def notifyOver (s : State) (n i status value : Nat) : State :=
  if i = 0 then s
  else if (sparOf s n).testing.isSome then setSpar s n { sparOf s n with late := (sparOf s n).late ++ [(i, status, value)] }
  else writeBeats (notifyRaf s n i status value) n 8

/-! ## Updates that watches see (R139) -/

/-- A watch whose word satisfies it: a correctable value that is at least the target, as signed. -/
def watchMet (s : State) (w : Watch) : Bool :=
  !badAt s w.addr && decide (w.target.toInt ≤ (wordAt s w.addr).toInt)

/-- Fires every satisfied watch on a word between `lo` and `hi` (R139). -/
def fireWatches (s : State) (b lo hi : Nat) : State :=
  let inR := fun (w : Watch) => decide (lo ≤ w.addr ∧ w.addr < hi) && watchMet s w
  let due := (bay s b).watches.filter inR
  if due.isEmpty then s else
  let s1 := setBay s b { bay s b with watches := (bay s b).watches.filter fun w => !inR w }
  due.foldl (fun t w => notifyOver t w.raf w.notice 0 (wordAt s w.addr).toNat) s1

/-! ## Array accesses (R285-R287) -/

/-- Writes the whole word at `a`: new data, new check bits. -/
def putWord (s : State) (a : Nat) (w : Word) : State :=
  setSyn { s with mem := writeBytes s.mem a (wordBytes w) } a 0

/-- The sub-array of a bay that holds a bay-space address (R275). -/
def subOf (a : Nat) : Nat := offOf a / 256 % 2

/-- The words of a bay that wait for the write-back of a correction, in one sub-array. -/
def fixesOf (s : State) (b sub : Nat) : List Nat := (bay s b).fix.filter fun w => subOf (8 * w) = sub

/-- Writes back a corrected word (R285). -/
def writeFix (s : State) (b w : Nat) : State :=
  let s := setBay s b { bay s b with fix := (bay s b).fix.filter (· ≠ w) }
  match eccOf (synAt s (8 * w)) with
  | .ok => s
  | .bad => s
  | _ => countT (putWord s (8 * w) (wordAt s (8 * w))) 0x101 b 1

/-- The corrections due in the sub-array of the line at `l` are written back: they go before its next access (R285). -/
def flushFixes (s : State) (l : Nat) : State :=
  (fixesOf s (bayOf l) (subOf l)).foldl (fun s w => writeFix s (bayOf l) w) s

/-- One array access that reads the line at `l` (R275, R285, R288). -/
def arrayRead (s : State) (l src : Nat) (acc : Acc) (notice : Bool) : State :=
  readEvents (countT (flushFixes s l) 0x100 (bayOf l) 1) l src acc notice

/-- Bytes to be written, as runs of (address, bytes), write the byte at `a`. -/
def covers (runs : List (Nat × List Byte)) (a : Nat) : Bool :=
  runs.any fun r => decide (r.1 ≤ a ∧ a < r.1 + r.2.length)

/-- The words that runs within a line touch. -/
def runWords (l : Nat) (runs : List (Nat × List Byte)) : List Nat :=
  ((List.range 32).map (l + 8 * ·)).filter fun w =>
    runs.any fun r => decide (r.1 < w + 8 ∧ w < r.1 + r.2.length ∧ 0 < r.2.length)

/-- A word that runs cover whole. -/
def wholeWord (runs : List (Nat × List Byte)) (w : Nat) : Bool := (List.range 8).all fun j => covers runs (w + j)

/-- The words of a line that runs touch and do not cover whole. -/
def partWords (l : Nat) (runs : List (Nat × List Byte)) : List Nat := (runWords l runs).filter fun w => !wholeWord runs w

/-- Puts runs of bytes into the line at `l`: a word covered whole gets new data and new check bits; any other touched is
merged in one read-modify-write, and stored poisoned where it is uncorrectable (R286, R287). -/
def putRuns (s : State) (l : Nat) (runs : List (Nat × List Byte)) : State :=
  let s1 := (runWords l runs).foldl (fun t w =>
    if wholeWord runs w then setSyn t w 0
    else setSyn { t with mem := writeBytes t.mem w (wordBytes (wordAt t w)) } w (if badAt t w then poisonSyn else 0)) s
  { s1 with mem := runs.foldl (fun m r => writeBytes m r.1 r.2) s1.mem }

/-- Runs of bytes written to one line of a bay's storage (R275, R287). The read of a read-modify-write is an array access
with its own events, SRC 2; one on a clean cache line writes no notice (R288). -/
def arrayRuns (s : State) (l : Nat) (runs : List (Nat × List Byte)) (acc : Acc) (notice : Bool := true) : State :=
  let b := bayOf l
  let ps := partWords l runs
  let s := if ps.isEmpty then flushFixes s l
    else arrayRead (countT s 0x107 b ps.length) l 2 { acc with cons := 8 } notice
  let s := forget (countT s 0x101 b 1) b (runWords l runs)
  runs.foldl (fun t r => fireWatches t b (r.1 / 8 * 8) (r.1 + r.2.length)) (putRuns s l runs)

/-! ## Sustained bandwidth and floors (R316, R318, R325) -/

/-- The rate of a stack in units of 0.1 GB/s (R314). -/
def stackRate (s : State) (t : Nat) : Nat :=
  match rf s .hbmsStat t 60 2 with
  | 0 => 8192 | 1 => 7168 | _ => 6144

/-- SUST in units of 1/32,000 GB/s (R316): rate, sustained fraction in percent, and live pseudo-channels. -/
def sustX (s : State) : Nat :=
  ((List.range 8).map fun t =>
    if rf s .hbmsStat t 62 2 = 2 then 0
    else stackRate s t * (if rbit s .hbmsStat t 59 then 88 else 90) * (32 - popcount (rf s .hbmsStat t 0 32) 32)).sum

/-- FLOOR of a class, GB/s (R318). -/
def qosFloor (s : State) (c : Nat) : Nat := rf s .qosClsc c 35 13

/-- TARGET of a class, ns (R318). -/
def qosTarget (s : State) (c : Nat) : Nat := rf s .qosClsc c 48 16

/-- The row of R325 that applies: 0 no overcommit, 1 overcommit, 2 severe. A = 0.8 x SUST. -/
def qosRow (s : State) : Nat :=
  let p := ((List.range 4).map (qosFloor s)).sum
  let q := ((List.range 12).map fun k => qosFloor s (k + 4)).sum
  if 40000 * (p + q) ≤ sustX s then 0 else if 40000 * p ≤ sustX s then 1 else 2

/-- The effective floor and target of a class (R325). -/
def qosEff (s : State) (c : Nat) : Nat × Nat :=
  let x := sustX s
  let p := ((List.range 4).map (qosFloor s)).sum
  let q := ((List.range 12).map fun k => qosFloor s (k + 4)).sum
  let fl := qosFloor s c
  let tg := qosTarget s c
  match qosRow s with
  | 0 => (fl, tg)
  | 1 =>
    if c < 4 then (fl, tg)
    else
      let n := x - 40000 * p
      let d := 40000 * q
      (fl * n / d, if n = 0 then 65535 else min 65535 ((tg * d + n - 1) / n))
  | _ => if c < 4 then (fl * x / (40000 * p), tg) else (0, 65535)

/-- SUST is computed again and R325 applied (R316, R325); the change of row is noticed. -/
def qosUpdate (s : State) : State :=
  let old := if !rbit s .qosSust 0 63 then 0 else if rbit s .qosSust 0 62 then 2 else 1
  let row := qosRow s
  let sust := sustX s / 32000
  let fsum := ((List.range 16).map (qosFloor s)).sum
  let eff := (List.range 16).map (qosEff s)
  let s := { s with heat := { s.heat with sust := sustX s } }
  let s := rgSet s .qosSust 0 0 (mkWord [(63, 1, b2n (decide (row ≠ 0))), (62, 1, b2n (decide (row = 2))),
    (32, 16, sust), (15, 17, fsum)])
  let s := (List.range 16).foldl (fun s c =>
    let e := nth eff c (0, 0)
    rfSet (rfSet s .qosStatc c 48 16 e.2) .qosStatc c 35 13 e.1) s
  if row = old then s
  else if row = 0 then raiseT s 0x0044 (srcOf 0 0) (mkWord [(32, 16, sust)])
  else raiseT s 0x0043 (srcOf 0 0) (mkWord [(32, 16, sust), (0, 1, b2n (decide (row = 2)))]) (BitVec.ofNat 64 fsum)

/-- SUST is taken again on a stage change or retirement, from SEAL on (R316). -/
def stageQos (s : State) : State := if sealed s then qosUpdate s else s

/-! ## Requests at a controller (R310, R311, R320, R321) -/

/-- Requests waiting in a controller's queue (R327). -/
def qLevel (s : State) (t : Nat) : Nat := ((stack s t).queue.filter fun e => !e.issued).length

/-- Whether a class has moved more than its share of the window; `d` stands for the part above the floors where no class
was active in the window before, which no rule gives. SUST is that of the last recomputation (R316). -/
def overShare (s : State) (t c d : Nat) : Bool :=
  let x := stack s t
  let ef := fun (k : Nat) => rf s .qosStatc k 35 13
  let wt := fun (k : Nat) => rf s .qosClsc k 31 4
  let wa := ((List.range 16).map fun k => if x.prev.getLsbD k then wt k else 0).sum
  let sumE := ((List.range 16).map ef).sum
  let b := tget 0 x.bytes c
  if wa = 0 then decide (128 * ef c + d < b)
  else decide (128 * (ef c * 32000 * wa + (s.heat.sust - 32000 * sumE) * wt c) < b * 32000 * wa)

/-- Holds every class over its share, counting each hold raised (R321, R515). -/
def raiseHolds (s : State) (t : Nat) : State :=
  let (s, d) := takeFree s
  (List.range 16).foldl (fun s c =>
    if overShare s t c (fld d 0 32) && !rbit s .hbmsQlvl t (48 + c) then
      countH (rfSet s .hbmsQlvl t (48 + c) 1 1) t 0x305 c 1
    else s) s

/-- The queue level has changed: holds are raised at HIGH and released at LOW; none before SEAL, and those of a retraining
stay (R315, R316, R321). -/
def levelChanged (s : State) (t : Nat) : State :=
  let n := qLevel s t
  let s := rfSet s .hbmsQlvl t 32 10 (max n (rf s .hbmsQlvl t 32 10))
  if !sealed s || decide (rf s .hbmsStat t 62 2 = 1) then s
  else if rf s .hbmCtl 0 55 9 ≤ n then raiseHolds s t
  else if n ≤ rf s .hbmCtl 0 46 9 then rfSet s .hbmsQlvl t 48 16 0 else s

/-- The bytes that a request takes: a read its whole line, a write those it writes. -/
def spanOf (e : HEnt) : Nat × Nat :=
  let a := e.req.addr.toNat
  if e.req.write then (a, a + e.req.data.length) else (lineOf a, lineOf a + 256)

/-- The 32-byte bursts that a request touches (R311). -/
def burstsOf (e : HEnt) : Nat × Nat := ((spanOf e).1 / 32 * 32, ((spanOf e).2 + 31) / 32 * 32)

/-- Two ranges share a byte. -/
def meet (x y : Nat × Nat) : Bool := decide (x.1 < y.2 ∧ y.1 < x.2)

/-- A write that covers only part of a burst: the controller reads the burst first (R311). -/
def partBurst (e : HEnt) : Bool := e.req.write && decide (spanOf e ≠ burstsOf e)

/-- A request that the stack has not finished: a read, or the burst read of a partial write, that has not returned. -/
def inFlight (e : HEnt) : Bool := e.issued && (!e.req.write || e.rmw)

/-! ## HBM behind its controller -/

/-- Bytes moved between HBM and a class: QOS_RDBc and QOS_WRBc (R323), the class's bytes in the controller's window
(R321), and the line counters of R515. -/
def hbmCount (s : State) (h cls n : Nat) (write : Bool) : State :=
  let r := if write then Reg.qosWrbc else Reg.qosRdbc
  let s := rgSet s r cls 0 (rg s r cls + BitVec.ofNat 64 n)
  let x := stack s (stackOf h)
  let s := setStack s (stackOf h) { x with bytes := tput 0 x.bytes cls (tget 0 x.bytes cls + n) }
  countH s (stackOf h) (if write then 0x301 else 0x300) (pcOf h) 1

/-- Sets the poison mask of an HBM line (R313): an entry with no bits is removed; where the list is full,
the poison is lost and the overflow is noticed. -/
def setPoison (s : State) (l : Nat) (mask : BitVec 32) : State :=
  let t := stackOf l
  let k := stack s t
  if mask ≠ 0 ∧ tget 0 k.poison l = 0 ∧ 4096 ≤ k.poison.length then
    raiseT (rfSet s .hbmsPoison t 16 1 1) 0x0041 (srcOf 4 t) (mkWord [(0, 40, l)])
  else setStack s t { k with poison := tput 0 k.poison l mask }

/-- The largest step time among the Truss courses, ps (R319). -/
def smax (s : State) : Nat := (List.range 16).foldl (fun a k => max a (rf s .pwrqSlack (64 + k) 32 16)) 0

/-- The mean latency of a class takes a read's latency (R319): m + (lat - m) / 16. -/
def measure (s : State) (t c hops tctl : Nat) : State :=
  let x := stack s t
  let lat := (4 + 4 * hops) * smax s + 1250 * tctl
  let m := tget (0, 0) x.mean c
  setStack s t { x with mean := tput (0, 0) x.mean c (15 * m.1 + lat * 16 ^ m.2, m.2 + 1) }

/-- One more than the row open in a bank. -/
def openRow (x : Stack) (pc bank : Nat) : Nat := tget 0 x.rows (64 * pc + bank)

/-- How long a per-bank refresh still occupies a bank, ns: the standard's cycle time, at most 200 ns, from its start (R310;
assumption log 76). -/
def refreshLeft (s : State) (t pc bank : Nat) : Nat :=
  match tget none (stack s t).refAt (64 * pc + bank) with
  | some t0 => t0.toNat + min 200 Config.refreshNs - (nowT s).toNat
  | none => 0

/-- The device time of a read at an idle controller, in 1.25 ns (R310): bank precharged, or a row conflict with a row
kept for queued requests; more in power-down, or while its bank refreshes. -/
def quietTime (s : State) (h : Nat) : Nat :=
  let x := stack s (stackOf h)
  let o := openRow x (pcOf h) (bankOf h)
  (if o = 0 ∨ o = hrowOf h + 1 then 36 else 48) + (if x.down.getLsbD (pcOf h) then 6 else 0) +
    (4 * refreshLeft s (stackOf h) (pcOf h) (bankOf h) + 4) / 5

/-- A column access: a row hit or a conflict (R515); the row stays open only for a further request to it that is queued
(R309); the pseudo-channel is active and out of power-down (R305). -/
def columnAccess (s : State) (t pc bank row : Nat) : State :=
  let o := openRow (stack s t) pc bank
  let s := if o = row + 1 then countH s t 0x302 pc 1 else if o ≠ 0 then countH s t 0x303 pc 1 else s
  let x := stack s t
  let more := x.queue.any fun b => !b.issued && decide (b.pc = pc ∧ b.bank = bank ∧ b.row = row)
  setStack s t { x with
    rows := tput 0 x.rows (64 * pc + bank) (if more then row + 1 else 0),
    active := tput 0 x.active pc (nowT s), down := x.down &&& ~~~(1#32 <<< pc) }

/-- The hops from the requesting stop to a controller (R319). Where no rule places the master at a stop, they are a free
value within the mesh. -/
def hopsFrom (s : State) (t : Nat) : Option (Nat × Nat) → State × Nat
  | some p => (s, hopsTo p (hbmStop t))
  | none => let (s, w) := takeFree s; (s, fld w 0 5)

/-- A read of `n` bytes that a master makes of HBM through an idle controller: counted and measured (R310, R319, R323). What
is dead gives no bytes and takes no time of the stack's (R314). -/
def hbmRead (s : State) (h n : Nat) (acc : Acc) : State :=
  if hbmDead s h then s else
  let t := stackOf h
  let tctl := quietTime s h
  let (s, hops) := hopsFrom (hbmCount s h acc.cls n false) t acc.stop
  columnAccess (measure s t acc.cls hops tctl) t (pcOf h) (bankOf h) (hrowOf h)

/-- An HBM notice (R519). -/
def hbmNotice (s : State) (t ev x : Nat) : State := raiseT s 0x0040 (srcOf 4 t) (mkWord [(8, 8, ev), (0, 8, x)])

/-- An uncorrectable read on a pseudo-channel (R314): once PCUE of them fall within a lap it is retired, and SUST is computed
again at once (R316). What the loss of its data leads to follows (R444; assumption log 70). -/
def ueRead (s : State) (t pc : Nat) : State :=
  let x := stack s t
  let n := tget 0 x.ueLap pc + 1
  let s := setStack s t { x with ueLap := tput 0 x.ueLap pc n }
  if rf s .hbmCtl 0 30 8 ≤ n ∧ rbit s .hbmsStat t pc = false then
    let s := hbmNotice (rfSet s .hbmsStat t pc 1 1) t 2 pc
    stageQos (setStack s t { stack s t with loss := true })
  else s

/-- The mask of a list of word indices. -/
def maskWords (is : List Nat) : BitVec 32 := BitVec.ofNat 32 (is.foldl (fun a i => a ||| 2 ^ i) 0)

/-- Words of an HBM line flagged in a read have reached a consumer, or have been written whole (R312). -/
def dropFlags (s : State) (l : Nat) (ws : List Nat) : State :=
  let t := stackOf l
  let x := stack s t
  setStack s t { x with flags := tput 0 x.flags l (tget 0 x.flags l &&& ~~~maskWords ws) }

/-- The words of an HBM line flagged in a read have all reached a consumer (R312). -/
def takeFlags (s : State) (l : Nat) : State := dropFlags s l (List.range 32)

/-- The words of a line that a controller knows as uncorrectable, by index (R313, R314). -/
def listed (s : State) (l : Nat) : List Nat := idxs 32 fun i => hbmBad s (l + 8 * i)

/-- The words of the line at `l` that lie in bursts which a write of `n` bytes at `a` covers only in part (R311). -/
def partBursts (l a n : Nat) : List Nat :=
  idxs 32 fun i =>
    let b := (l + 8 * i) / 32 * 32
    decide (a < b + 32 ∧ b < a + n) && !decide (a ≤ b ∧ b + 32 ≤ a + n)

/-- The bytes of a write within one HBM line at the stack (R311, R313, R314): words written whole leave the poison list, those
of `poison` enter it, other entries stay. A dead stack or pseudo-channel discards them. -/
def hbmStore (s : State) (a : Nat) (bs : List Byte) (poison : List Nat) (acc : Acc) : State :=
  if hbmDead s a then s else
  let l := lineOf a
  let full := fun (i : Nat) => decide (a ≤ l + 8 * i ∧ l + 8 * i + 8 ≤ a + bs.length)
  let keep := (listed s l).filter fun i => !full i
  let s := hbmCount { s with mem := writeBytes s.mem a bs } a acc.cls bs.length true
  dropFlags (setPoison s l (maskWords (keep ++ poison))) l (idxs 32 full)

/-- The uncorrectable-data notice of a controller (R312). -/
def hbmUe (s : State) (a : Nat) (acc : Acc) : State :=
  raiseT s 0x0032 (srcOf 4 (stackOf a)) (mkWord [(0, 40, a)]) (mkWord [(8, 16, acc.raf), (0, 8, acc.cons)])

/-- Whether accesses to an HBM line go straight to its controller (R282). -/
def uncached (s : State) (h : Nat) : Bool := (cacheWays s).isEmpty || retired s (homeOf h)

/-- An uncached read that a controller answers uncorrectable at `a` (R312). -/
def reqUe (s : State) (r : HReq) (a : Nat) : State :=
  if uncached s r.addr.toNat then hbmUe s a (orgAcc s r.org) else s

/-- The words that a controller flags in a read it delivers: those the burst brought flagged, those of the poison list, all
where the stack or the pseudo-channel is dead (R312-R314). -/
def flagged (s : State) (l : Nat) (ue : List Nat) : List Nat := idxs 32 fun i => ue.contains i || hbmBad s (l + 8 * i)

/-- Who takes what a queued read of a line brings: the master of an uncached one, the home bay of another. -/
def takerOf (s : State) (l : Nat) (r : HReq) : Nat × Nat :=
  if uncached s l then ((orgAcc s r.org).raf, (orgAcc s r.org).cons) else (0xFFFF, 0)

/-- A read is delivered: its bytes and latency, the words it flags uncorrectable, which stay flagged until a consumer takes
them, and what that leads to (R312-R314, R319, R323). Only an uncached access is an event of the controller. What was
delivered waits for the one that asked, whose own command then takes it and makes no second access (assumption log 77). -/
def deliver (s : State) (t : Nat) (e : HEnt) (ue : List Nat) (tctl : Nat) : State :=
  let l := lineOf e.req.addr.toNat
  let x := stack s t
  let s := setStack s t { x with
    queue := dropFirst (fun b => decide (b = e)) x.queue,
    given := x.given ++ [(l, (takerOf s l e.req).1, (takerOf s l e.req).2)] }
  let from_ := if uncached s l then (orgAcc s e.req.org).stop else some (bayStop s (homeOf l))
  let s := if hbmDead s l then s else
    let (s, hops) := hopsFrom (hbmCount s l e.cls 256 false) t from_
    measure s t e.cls hops tctl
  match flagged s l ue with
  | [] => s
  | i :: is =>
    let x := stack s t
    let s := setStack s t { x with flags := tput 0 x.flags l (tget 0 x.flags l ||| maskWords (i :: is)) }
    ueRead (reqUe s e.req (l + 8 * i)) t e.pc

/-- The burst read of a partial write has returned, and the write is done (R311): an uncorrectable word that it does not
cover whole enters the poison list (assumption log 68), and a burst read that brings one, known before or not, is an
uncorrectable read (R314). The controller keeps its copy until the stack accepts it (R312). -/
def mergeWrite (s : State) (t : Nat) (e : HEnt) (ue : List Nat) : State :=
  let x := stack s t
  let s := setStack s t { x with queue := dropFirst (fun b => decide (b = e)) x.queue ++ [{ e with rmw := false }] }
  let (lo, hi) := spanOf e
  let l := lineOf lo
  let read := (partBursts l lo (hi - lo)).filter fun i => ue.contains i || hbmBad s (l + 8 * i)
  let bad := read.filter fun i => !decide (lo ≤ l + 8 * i ∧ l + 8 * i + 8 ≤ hi)
  let s := hbmStore s lo e.req.data bad { orgAcc s e.req.org with cls := e.cls }
  if read.isEmpty then s else ueRead s t e.pc

/-- A queued request is carried out now, without errors, because a later access needs its outcome (R320; assumption log
77). -/
def serveEarly (s : State) (t : Nat) (e : HEnt) : State :=
  let tctl := 4 * ((nowT s).toNat - e.at_.toNat) / 5 + quietTime s e.req.addr.toNat
  let x := stack s t
  let s := if e.issued then s else
    levelChanged (columnAccess (setStack s t { x with queue := mapIf (fun b => decide (b = e)) (fun b => { b with issued := true }) x.queue })
      t e.pc e.bank e.row) t
  let e := { e with issued := true }
  if e.req.write then mergeWrite s t e [] else deliver s t e [] tctl

/-- Requests in a controller's queue that an access of `n` bytes at `a` must follow: to the same bytes, one of the two a write
(R320), or a partial write whose burst is being read (R311). They are carried out first. -/
def serveBefore (s : State) (a n : Nat) (write : Bool) : State :=
  let t := stackOf a
  let mine := (a / 32 * 32, (a + n + 31) / 32 * 32)
  ((stack s t).queue.filter fun e => (!e.issued || inFlight e) &&
    (((write || e.req.write) && meet (spanOf e) (a, a + n)) || (e.rmw && meet (burstsOf e) mine))).foldl
      (fun s e => serveEarly s t e) s

/-- A write of bytes within one HBM line that a master makes at its controller, after what is queued before it (R311, R313,
R314, R320). The controller reads the bursts that it covers in part. -/
def hbmWrite (s : State) (a : Nat) (bs : List Byte) (poison : List Nat) (acc : Acc) : State :=
  let s := serveBefore s a bs.length true
  if hbmDead s a then s else
  let l := lineOf a
  let hit := (partBursts l a bs.length).any fun i => hbmBad s (l + 8 * i)
  let s := hbmStore (columnAccess s (stackOf a) (pcOf a) (bankOf a) (hrowOf a)) a bs poison acc
  if hit then ueRead s (stackOf a) (pcOf a) else s

/-- What a queued read of a line has delivered to a consumer is taken, where there is some. -/
def takeGiven (s : State) (l : Nat) (k : Nat × Nat) : State × Bool :=
  let t := stackOf l
  let x := stack s t
  if x.given.contains (l, k) then (setStack s t { x with given := dropFirst (fun g => decide (g = (l, k))) x.given }, true)
  else (s, false)

/-- A read of `n` bytes of the line at `l` at its controller, for the consumer `k` (R312): what a queued read of it brought;
else an access of its own. -/
def hbmFetch (s : State) (l n : Nat) (k : Nat × Nat) (acc : Acc) : State × Bool :=
  let s := serveBefore s l 256 false
  match takeGiven s l k with
  | (s, true) => (s, true)
  | (s, false) => (hbmRead s l n acc, false)

/-! ## The line cache (R279-R282) -/

/-- The bay-space address at which a cache way's line lies (R37, R300). -/
def cacheAddr (b way set : Nat) : Nat := bayAddr b (way * 2 ^ 20 + set * 256)

/-- The key of a tag-store entry. -/
def tagKey (set way : Nat) : Nat := set * 32 + way

/-- The tag-store entry. -/
def cline (s : State) (b set way : Nat) : CLine := tget {} (bay s b).tags (tagKey set way)

/-- The state with a tag-store entry replaced. -/
def setCline (s : State) (b set way : Nat) (c : CLine) : State :=
  setBay s b { bay s b with tags := tput {} (bay s b).tags (tagKey set way) c }

/-- The way that holds an HBM line, if one does. -/
def cacheHit (s : State) (h : Nat) : Option Nat :=
  (cacheWays s).find? fun w => let c := cline s (homeOf h) (setOf h) w; c.valid && decide (c.tag = tagOf h)

/-- The HBM line that a bay's set holds under a tag (R279). -/
def hbmOf (b set tag : Nat) : Nat :=
  let l := tag * 2 ^ 20 + set * 256
  0x1000000000 + 256 * (l + ((b ^^^ (l / 2 ^ 8) ^^^ (l / 2 ^ 16) ^^^ (l / 2 ^ 24)) % 256))

/-- A tag-store entry is read (R280, R300): an entry in error in one copy is repaired, from the other where the copy is
uncorrectable, and counts as correctable (assumption log 71); where both copies are uncorrectable the bay fails. -/
def tagRead (s : State) (b set way : Nat) : State :=
  let c := cline s b set way
  let a := cacheAddr b way set
  if c.synA = 0 ∧ c.synB = 0 then s
  else if eccOf c.synA = .bad ∧ eccOf c.synB = .bad then
    let s := rfSat s .eccbStat b 16 16 1
    let s := rgSet s .eccbAddr b 0 (mkWord [(62, 2, 2), (60, 2, 3), (3, 37, a / 8)])
    setBay s b { bay s b with broken := true }
  else ceCount (setCline s b set way { c with synA := 0, synB := 0 }) b a 3

/-- The entries of a set are read: each access to the cache reads the entry of every cache way. -/
def tagLook (s : State) (b set : Nat) : State := (cacheWays s).foldl (fun s w => tagRead s b set w) s

/-- Writes a dirty line back to HBM, its uncorrectable words marked poisoned (R288, R313). The line is read from the
array for it. -/
def writeBack (s : State) (b set way : Nat) (acc : Acc) : State :=
  let c := cline s b set way
  if c.valid && c.dirty then
    let a := cacheAddr b way set
    let s := arrayRead s a 0 acc true
    let data := wordsBytes ((List.range 32).map fun i => wordAt s (a + 8 * i))
    let s1 := hbmWrite s (hbmOf b set c.tag) data (badWords s a) acc
    setCline (countT s1 0x104 b 1) b set way { c with dirty := false }
  else s

/-- Notes a hit: the line's bit is set, and the set's last hit (R280). -/
def touch (s : State) (b set way : Nat) : State :=
  let s := setCline s b set way { cline s b set way with used := true }
  setBay s b { bay s b with lastHit := tput 0 (bay s b).lastHit set way }

/-- The victim way of a set (R280): the lowest way with no valid line; else the lowest whose bit is 0, after
clearing every bit but that of the line last hit where none is 0. -/
def victim (s : State) (b set : Nat) : State × Nat :=
  match (cacheWays s).find? fun w => !(cline s b set w).valid with
  | some w => (s, w)
  | none =>
    let s := if (cacheWays s).all fun w => (cline s b set w).used then
        (cacheWays s).foldl (fun t w => if w = tget 0 (bay s b).lastHit set then t
          else setCline t b set w { cline t b set w with used := false }) s
      else s
    (s, ((cacheWays s).find? fun w => !(cline s b set w).used).getD (((cacheWays s).head?).getD 0))

/-- Stores a filled line in a way, in one array write: data from HBM, words the controller reports uncorrectable poisoned
(R286, R515). -/
def storeFill (s : State) (h b way : Nat) (data : List Byte) (bad : List Nat) : State :=
  let a := cacheAddr b way (setOf h)
  let s := countT (forget (flushFixes s a) b ((List.range 32).map (a + 8 * ·))) 0x101 b 1
  let s := { s with mem := writeBytes s.mem a data }
  (List.range 32).foldl (fun s i => setSyn s (a + 8 * i) (if bad.contains i then poisonSyn else 0)) s

/-- A controller takes no request of a class: the stack is retraining, or the class is held (R315, R321). -/
def ctlHeld (s : State) (h cls : Nat) : Bool :=
  decide (rf s .hbmsStat (stackOf h) 62 2 = 1) || rbit s .hbmsQlvl (stackOf h) (48 + cls)

/-- The write-back that freeing a way for an HBM line needs would wait at its controller (R280, R321). -/
def victimHeld (s : State) (h cls : Nat) : Bool :=
  let (t, w) := victim s (homeOf h) (setOf h)
  let c := cline t (homeOf h) (setOf h) w
  c.valid && c.dirty && ctlHeld s (hbmOf (homeOf h) (setOf h) c.tag) cls

/-- Whether the access of a class to an HBM line that no bay holds waits at its source (R315, R321). -/
def hbmHeld (s : State) (a cls : Nat) : Bool :=
  isHbm a && (if uncached s a then ctlHeld s a cls else (cacheHit s a).isNone && (ctlHeld s a cls || victimHeld s a cls))

/-- Allocates a way for an HBM line: the victim is written back if dirty, and the tag set (R280). -/
def allocate (s : State) (h : Nat) (acc : Acc) : State × Nat :=
  let b := homeOf h
  let (s, w) := victim s b (setOf h)
  let s := writeBack s b (setOf h) w acc
  (setCline s b (setOf h) w { tag := tagOf h, valid := true, dirty := false, used := false }, w)

/-- The read of a line that its home bay has queued at the controller. -/
def fillQueued (s : State) (l : Nat) : List HEnt :=
  (stack s (stackOf l)).queue.filter fun e => !e.req.write && (!e.issued || inFlight e) && decide (lineOf e.req.addr.toNat = l)

/-- Fills an allocated line from HBM, for the stop of its home bay (R280, R310, R319), with what a read that the bay has
queued brings where there is one. -/
def fillLine (s : State) (h way : Nat) (acc : Acc) : State :=
  let l := lineOf h
  let s := (fillQueued s l).foldl (fun s e => serveEarly s (stackOf l) e) s
  let (s, was) := hbmFetch s l 256 (0xFFFF, 0) { acc with stop := some (bayStop s (homeOf h)) }
  let bad := badWords s l
  let s := if !was && !(listed s l).isEmpty then ueRead s (stackOf l) (pcOf l) else s
  storeFill (takeFlags s l) h (homeOf h) way (readBytes s.mem l 256) bad

/-- Whether a storage address is that of a clean cache line, for the HBM line at `a` (R288). -/
def cleanAt (s : State) (a st : Nat) : Bool := isHbm a && isBay st && !(cline s (homeOf a) (setOf a) (wayOf st)).dirty

/-- Bytes that a request writes. -/
def opBytes : BayOp → List Byte
  | .writeWords ws => wordsBytes ws
  | .writeBytes bs => bs
  | _ => []

/-- A request that waited for a fill is served from the line, now in its home bay (R280, R288). -/
def serveFilled (s : State) (b way : Nat) (r : BayReq) : State :=
  let a := r.addr.toNat
  let st := cacheAddr b way (setOf a)
  let acc := orgAcc s r.org
  let notice := !cleanAt s a st
  match opBytes r.op with
  | [] => arrayRead s st 0 acc notice
  | bs =>
    let s := setCline s b (setOf a) way { cline s b (setOf a) way with dirty := true }
    arrayRuns s st [(st + a % 256, bs)] acc notice

/-- The way for a fill's line, which it takes as valid: the one freed for it, or another where that has been taken since
(R280). -/
def fillWay (s : State) (b : Nat) (f : Fill) : State × Nat :=
  let (s, w) := if (cline s b (setOf f.line) f.way).valid then allocate s f.line (orgAcc s f.req.org) else (s, f.way)
  (setCline s b (setOf f.line) w { tag := tagOf f.line, valid := true }, w)

/-- The requests that wait for a fill, in the order in which the bay took them (R287). -/
def fillReqs (f : Fill) : List BayReq := f.req :: f.more

/-- The fill of a line is under way. -/
def fillDue (s : State) (h : Nat) : Option Fill :=
  (bay s (homeOf h)).fills.find? fun f => decide (f.line = lineOf h) && !f.done

/-- A later access needs a line whose fill is under way: the fill is completed first, and the requests that wait for it are
served in their order (R287); what the bay is still sent for it is then of no use. -/
def finishFill (s : State) (h : Nat) : State :=
  let b := homeOf h
  match fillDue s h with
  | none => s
  | some f =>
    let s := setBay s b { bay s b with
      fills := mapIf (fun g => decide (g = f)) (fun g => { g with done := true }) (bay s b).fills }
    let (s, w) := fillWay s b f
    (fillReqs f).foldl (fun s r => serveFilled s b w r) (fillLine s f.line w (orgAcc s f.req.org))

/-- Brings an HBM line into its home bay and answers the way; `whole`: a write of the whole line, which
needs no fill (R280). A fill of the line that is under way goes first (R287). -/
def resident (s : State) (h : Nat) (whole : Bool) (acc : Acc) : State × Nat :=
  let b := homeOf h
  let s := tagLook (finishFill s h) b (setOf h)
  match cacheHit s h with
  | some w => (touch (countT s 0x102 b 1) b (setOf h) w, w)
  | none =>
    let (s, w) := allocate (countT s 0x103 b 1) h acc
    (if whole then s else fillLine s h w acc, w)

/-! ## Device accesses within one line -/

/-- Where the access to a device address finds its line: the storage address of the line. A line of a
draining bay that is not cached is not allocated (R282). -/
def lineStore (s : State) (a : Nat) (whole : Bool) (acc : Acc) : State × Nat :=
  if isBay a then (s, lineOf a)
  else if uncached s a || (decide (bayState s (homeOf a) = 2) && (cacheHit s a).isNone && (fillDue s a).isNone) then (s, lineOf a)
  else let (s, w) := resident s a whole acc; (s, cacheAddr (homeOf a) w (setOf a))

/-- An uncorrectable event on a clean cache line (R288, R299): it counts as correctable too, and writes no notice. -/
def cleanEvent (s : State) (b a src : Nat) (acc : Acc) : State :=
  bucketEvent (countT (rfSat (ueEvent s b a src acc false) .eccbStat b 32 32 1) 0x105 b 1) b

/-- The array read that finds an uncorrectable word in a clean cache line: its correctable words are events of their own
(R285, R288). -/
def cleanRead (s : State) (b l src : Nat) (acc : Acc) : State :=
  let s := countT (flushFixes s l) 0x100 b 1
  let s := (ceWords s l).foldl (fun s i => ceEvent s b (l + 8 * i) src) s
  cleanEvent s b (l + 8 * ((badWords s l).headD 0)) src acc

/-- A clean cached line with an uncorrectable word, found by `src`, is invalidated and refilled (R288, R300). -/
def refillClean (s : State) (a st src : Nat) (acc : Acc) : State :=
  if cleanAt s a st && !(badWords s st).isEmpty then fillLine (cleanRead s (homeOf a) st src acc) a (wayOf st) acc
  else s

/-- A read of up to 256 bytes of one line: the state, the bytes, and the first uncorrectable word it took
(its device address). An uncached line is read at its controller (R312). -/
def lineRead (s : State) (a n : Nat) (acc : Acc) : State × List Byte × Option Nat :=
  let (s, st) := lineStore s a false acc
  let s := refillClean s a st 0 acc
  let (s, was) := if isBay st then (s, false) else hbmFetch s st n (acc.raf, acc.cons) acc
  let o := a % 256
  let ws := idxs 32 fun i => decide (8 * i < o + n ∧ o < 8 * i + 8)
  let bad := (ws.filter fun i => badAt s (st + 8 * i)).head?
  let data := (wordsBytes ((List.range 32).map fun i => wordAt s (st + 8 * i))).drop o |>.take n
  let s := if isBay st then arrayRead s st 0 acc (!cleanAt s a st)
    else
      let s := match was, (ws.filter fun i => hbmBad s (st + 8 * i)).head? with
        | false, some i => ueRead (hbmUe s (st + 8 * i) acc) (stackOf st) (pcOf st)
        | _, _ => s
      takeFlags s st
  (s, data, bad.map fun i => lineOf a + 8 * i)

/-- Whether the bay behind a device address is in reset, so that it takes no request (R302). -/
def bayAway (s : State) (a : Nat) : Bool :=
  if isBay a then decide (bayState s (bayOf a) = 1)
  else isHbm a && !uncached s a && decide (bayState s (homeOf a) = 1)

/-- The bay at whose stop a write of a line waits: its own, or its home bay. -/
def waitBay (a : Nat) : Nat := if isBay a then bayOf a else homeOf a

/-- Whether a write of a line waits where it is: its bay is in reset (R302), a controller takes none of its class (R315, R321),
or an earlier write of the line waits. -/
def writeHeld (s : State) (a cls : Nat) : Bool :=
  bayAway s a || hbmHeld s a cls ||
    (bay s (waitBay a)).away.any fun w => w.runs.any fun r => decide (lineOf r.1 = lineOf a)

/-- Runs of bytes written within one line; while they cannot be served they wait in the mesh (R302, R315, R321). A line in its
home bay becomes dirty (R280); a clean one with an uncorrectable word is refilled before bytes are merged into it (R288). -/
def lineRuns (s : State) (runs : List (Nat × List Byte)) (acc : Acc) : State :=
  match runs with
  | [] => s
  | r :: _ =>
    let a := r.1
    let whole := decide (r.2.length = 256)
    if writeHeld s a acc.cls then
      setBay s (waitBay a) { bay s (waitBay a) with away := (bay s (waitBay a)).away ++ [{ runs := runs, acc := acc }] }
    else
    let (s, st) := lineStore s a whole acc
    if isBay st then
      let at_ := runs.map fun q => (st + q.1 % 256, q.2)
      let s := if whole || (partWords st at_).isEmpty then s else refillClean s a st 2 acc
      let notice := !cleanAt s a st
      let s := if isHbm a then setCline s (homeOf a) (setOf a) (wayOf st)
          { cline s (homeOf a) (setOf a) (wayOf st) with dirty := true } else s
      arrayRuns s st at_ acc notice
    else runs.foldl (fun s q => hbmWrite s q.1 q.2 [] acc) s

/-- The writes that wait at a bay's stop are made, in their order, as far as nothing holds them any more. -/
def releaseAway (s : State) (b : Nat) : State :=
  let x := bay s b
  x.away.foldl (fun s w => lineRuns s w.runs w.acc) (setBay s b { x with away := [] })

/-! ## Device accesses of any length -/

/-- The pieces of a range, line by line; `f` bounds their number. -/
def pieces (a n : Nat) : Nat → List (Nat × Nat)
  | 0 => []
  | f + 1 => if n = 0 then [] else
    let k := min n (256 - a % 256)
    (a, k) :: pieces (a + k) (n - k) f

/-- Whether an access to some byte of a range waits: at its bay or at its controller, or before an eaves link (R34). -/
def rangeHeld (s : State) (a n cls : Nat) : Bool :=
  (pieces a n (n / 256 + 2)).any fun p =>
    if isRegs p.1 then flowWaits s .ridgeRegs && (List.range 32).any fun k => decide (8 * k < p.2) && ridgeAway s (p.1 + 8 * k)
    else bayAway s p.1 || hbmHeld s p.1 cls

/-- A read of `n` bytes at a device address of bay space or HBM. -/
def devRead (s : State) (a n : Nat) (acc : Acc) : State × List Byte × Option Nat :=
  (pieces a n (n / 256 + 2)).foldl (fun x p =>
    let (s, bs, bad) := lineRead x.1 p.1 p.2 acc
    (s, x.2.1 ++ bs, x.2.2.or bad)) (s, [], none)

/-- Runs of bytes cut at the lines' ends. -/
def cutRuns (runs : List (Nat × List Byte)) : List (Nat × List Byte) :=
  runs.flatMap fun r => (pieces r.1 r.2.length (r.2.length / 256 + 2)).map fun p => (p.1, (r.2.drop (p.1 - r.1)).take p.2)

/-- Neighbouring runs of one line gathered. -/
def gatherRuns : List (Nat × List Byte) → List (List (Nat × List Byte))
  | [] => []
  | r :: l => match gatherRuns l with
    | (q :: g) :: gs => if lineOf q.1 = lineOf r.1 then (r :: q :: g) :: gs else [r] :: (q :: g) :: gs
    | _ => [[r]]

/-- The bytes of one write beat: narrow writes to one word are merged into one read-modify-write (R287). -/
def devRuns (s : State) (runs : List (Nat × List Byte)) (acc : Acc) : State :=
  (gatherRuns (cutRuns runs)).foldl (fun s g => lineRuns s g acc) s

/-- A write of bytes at a device address of bay space or HBM. -/
def devWrite (s : State) (a : Nat) (bs : List Byte) (acc : Acc) : State := devRuns s [(a, bs)] acc

/-- An update of a bay word at its atomic unit (R138, R242, R287): the old value, or none where the word is
uncorrectable and nothing is applied (R288). -/
def atomicMap (s : State) (a : Nat) (f : Word → Word) (acc : Acc) : State × Option Word :=
  let b := bayOf a
  let s := arrayRead (countT s 0x107 b 1) (lineOf a) 2 acc true
  if badAt s a then (s, none)
  else
    let old := wordAt s a
    let s := forget s b [a / 8 * 8]
    (fireWatches (putWord (countT s 0x101 b 1) a (f old)) b a (a + 8), some old)

/-- A 64-bit atomic addition at a bay word (R138). -/
def atomicAdd (s : State) (a : Nat) (v : Word) (acc : Acc) : State × Option Word := atomicMap s a (· + v) acc

/-- A request is carried out as an access of its own. -/
def reqDirect (s : State) (r : BayReq) : State :=
  let a := r.addr.toNat
  match r.op with
  | .readLine => (lineRead s (lineOf a) 256 (orgAcc s r.org)).1
  | .atomicAdd v => (atomicAdd s a v (orgAcc s r.org)).1
  | _ => lineRuns s [(a, opBytes r.op)] (orgAcc s r.org)

/-- Dirty lines a bay holds (R304). -/
def dirtyCount (s : State) (b : Nat) : Nat := ((bay s b).tags.filter fun e => e.2.valid && e.2.dirty).length

/-- A write-back that a drain needs would wait at its controller (R315, R321). -/
def drainHeld (s : State) (b cls : Nat) : Bool :=
  (bay s b).tags.any fun e => e.2.valid && e.2.dirty && ctlHeld s (hbmOf b (e.1 / 32) e.2.tag) cls

/-- Writes back every dirty line of a bay (R282). -/
def drainBay (s : State) (b : Nat) (acc : Acc) : State :=
  (bay s b).tags.foldl (fun t e => writeBack t b (e.1 / 32) (e.1 % 32) acc) s

/-- Poisons every dirty line of a failed bay in HBM whole, where the poison lists have room (R443). -/
def poisonDirty (s : State) (b : Nat) : State :=
  ((bay s b).tags.filter fun e => e.2.valid && e.2.dirty).foldl (fun t e =>
    setPoison t (hbmOf b (e.1 / 32) e.2.tag) (maskWords (List.range 32))) s

end Sys2Proof.Machine
end

