-- ==== Sys2Proof/Machine/Qos.lean ====
section
/-! DEFINITION. HBM bandwidth regulation (R316-R326): sustained bandwidth, effective floors and targets, mean
latencies and priorities. -/

namespace Sys2Proof.Machine

/-- The target by which a controller schedules a class: the one of its last window boundary; TARGET before SEAL
(R316, R325). -/
def ctlTarget (s : State) (t c : Nat) : Nat :=
  if sealed s then nth (stack s t).targets c (rf s .qosStatc c 48 16) else qosTarget s c

/-- Whether the oldest queued read of a class has waited longer than its target (R320). -/
def readLate (s : State) (t c : Nat) : Bool :=
  match (stack s t).queue.find? fun e => !e.issued && !e.req.write && decide (e.cls = c) with
  | some e => decide (e.at_.toNat + ctlTarget s t c < (nowT s).toNat)
  | none => false

/-- The priority of a class at a controller (R320). -/
def qosPrio (s : State) (t c : Nat) : Nat :=
  if readLate s t c then 7
  else
    let m := tget (0, 0) (stack s t).mean c
    min 7 (16 * m.1 / (ctlTarget s t c * 1000 * 16 ^ m.2) - 8)

/-- QOS_STATc as it reads (R326): nothing but reset values before SEAL (R316). -/
def qosStatView (s : State) (c : Nat) : Word :=
  let v := rg s .qosStatc c
  if !sealed s then v
  else
    let top := fun (f : Nat → Nat) => (List.range 8).foldl (fun a t => max a (f t)) 0
    let ml := top fun t => let m := tget (0, 0) (stack s t).mean c; m.1 / 16 ^ m.2 / 1000
    let held := (List.range 8).foldl (fun a t => a + b2n (rbit s .hbmsQlvl t (48 + c)) * 2 ^ t) 0
    setFld (setFld (setFld v 32 3 (top fun t => qosPrio s t c)) 16 16 (min 65535 ml)) 8 8 held

end Sys2Proof.Machine
end

