-- ==== Sys2Proof/Machine/Session.lean ====
section
/-! DEFINITION. Session slots, pages, completions and the parts of the session engine that every other
family uses (R77-R89, R99-R101, R104-R112). -/

namespace Sys2Proof.Machine

/-! ## Rings and completions (R104, R105, R110) -/

/-- Ring pair `r` is in use. -/
def ringOn (s : State) (r : Nat) : Bool := rbit s .sesrRctl r 63

/-- The completion ring of pair `r` is full; a pair with EN = 0 counts as full (R105). -/
def ringFull (s : State) (r : Nat) : Bool :=
  !ringOn s r || decide ((rf s .sesrKtail r 0 16 + 1) % 2 ^ rf s .sesrRctl r 53 5 = rf s .sesrKhead r 0 16)

/-- Writes a completion to its ring: words 1-3 before word 0; the phase inverts on a wrap (R110). -/
def writeComp (s : State) (c : Comp) : State :=
  let r := c.ring.val
  let tail := rf s .sesrKtail r 0 16
  let w0 := mkWord [(63, 1, b2n (s.host.phases.getLsbD r)), (56, 7, c.kind), (48, 8, c.status),
    (32, 16, c.cmdid), (0, 32, c.handle.toNat)]
  let s := hostRecord s ((rg s .sesrKbase r).toNat + 32 * tail) w0 c.w1 c.w2 c.time
  let tail' := (tail + 1) % 2 ^ rf s .sesrRctl r 53 5
  let s := rfSet s .sesrKtail r 0 16 tail'
  if tail' = 0 then { s with host := { s.host with phases := s.host.phases ^^^ BitVec.ofNat 16 (2 ^ r) } } else s

/-- A completion becomes due: it is written at once, or waits for its ring behind those already waiting
(R105). After step 1 of a fail stop none is written (R456). -/
def putComp (s : State) (c : Comp) : State :=
  if stopped s then s
  else if ringFull s c.ring.val || s.host.comps.any fun d => decide (d.ring = c.ring) then
    { s with host := { s.host with comps := s.host.comps ++ [c] } }
  else writeComp s c

/-- Writes the waiting completions that their rings can now take, in order. -/
def flushComps (s : State) : State :=
  s.host.comps.foldl (fun t c => putComp t c) { s with host := { s.host with comps := [] } }

/-- The CMD completion of a command entry (R110). -/
def cmdComp (s : State) (r : Fin 16) (e : Entry) (status : Nat) (handle : BitVec 32) (w2 : Word := 0) : State :=
  putComp s { ring := r, kind := 0x01, status := status, cmdid := fld e.w0 32 16, handle := handle, w2 := w2,
              time := nowT s }

/-! ## Fetching commands (R105, R400) -/

/-- Issues an MRD: it takes the next tag, after the transactions issued before it (R400). -/
def issueMrd (s : State) (addr : Nat) (len : Nat) (u : MrdUse) : State :=
  let tag := s.host.nextTag
  let m : Mrd := { tag := tag, addr := BitVec.ofNat 64 addr, len := len, use := u, at_ := nowR s }
  hostSend { s with host := { s.host with mrds := s.host.mrds ++ [m], nextTag := tag + 1 } }
    (.mrd tag (BitVec.ofNat 64 addr) len)

/-- The fetch of host memory for ring `k`, or for the host image with `k` = 16. -/
def fetchFor (s : State) (k : Nat) : Option HFetch := tget none s.host.fetches k

/-- The state with a fetch set. -/
def setFetch (s : State) (k : Nat) (x : Option HFetch) : State :=
  { s with host := { s.host with fetches := tput none s.host.fetches k x } }

/-- The MRDs of a fetch are issued, in address order, while fewer than 4,096 are outstanding (R400). Each reads up to `cut`
bytes of those that are left (assumption log 69); `n` bounds their number. -/
def pumpFetch (s : State) (k : Nat) : Nat → State
  | 0 => s
  | n + 1 => match fetchFor s k with
    | none => s
    | some x =>
      if x.len ≤ x.asked ∨ 4096 ≤ s.host.mrds.length then s
      else
        let l := min x.cut (x.len - x.asked)
        let s := issueMrd s (x.addr.toNat + x.asked) l (.data k x.asked)
        pumpFetch (setFetch s k (some { x with asked := x.asked + l })) k n

/-- A fetch of host memory begins, with MRDs of `cut` + 1 bytes each (R399, R400). -/
def startFetch (s : State) (k : Nat) (addr : Word) (len : Nat) (cut : Fin 4096) : State :=
  pumpFetch (setFetch s k (some { addr := addr, len := len, cut := cut.val + 1 })) k 4096

/-- The bytes of a fetch in ascending order. -/
def fetchBytes (x : HFetch) : List Byte := (sortBy Prod.fst x.parts).flatMap Prod.snd

/-- The bytes that a ring's command has fetched, once all of them have come; none to fetch are there at once. -/
def fetchedFor (s : State) (k : Nat) (len : Nat) : Option (List Byte) :=
  if len = 0 then some [] else
  match fetchFor s k with
  | some x => if (fetchBytes x).length = len then some (fetchBytes x) else none
  | none => none

/-- Whether the device may read the next command of ring `r`: it is on, holds one, its completion ring is
not full, and no entry of it is still under way. -/
def fetchable (s : State) (r : Nat) : Bool :=
  ringOn s r && !ringFull s r && !decide (rf s .sesrChead r 0 16 = rf s .sesrCtail r 0 16) &&
  !(s.host.mrds.any fun m => match m.use with | .cmd k => decide (k.val = r) | .data _ _ => false) &&
  !(s.host.arrived.any fun a => decide (a.1.val = r)) && !(s.host.comps.any fun c => decide (c.ring.val = r)) &&
  !(match s.sec.attest with | some a => decide (a.ring.val = r) | none => false) &&
  !stopped s && decide (s.host.mrds.length < 4096)

/-- Reads one command from each ring that has one, in ascending order (R105). -/
def ringFetch (s : State) : State :=
  (List.range 16).foldl (fun s r =>
    if fetchable s r then
      issueMrd s ((rg s .sesrCbase r).toNat + 64 * rf s .sesrChead r 0 16) 64 (.cmd (Fin.ofNat 16 r))
    else s) s

/-! ## Session slots (R77-R83) -/

/-- What an unused slot holds: the generation drawn at SEAL (R454). -/
def sesDef (s : State) : Session := { gen := s.ses.genBase }

/-- The session of slot `i`. -/
def ses (s : State) (i : Nat) : Session := tget (sesDef s) s.ses.sess i

/-- The state with the session of slot `i` replaced. -/
def setSes (s : State) (i : Nat) (x : Session) : State :=
  { s with ses := { s.ses with sess := tput (sesDef s) s.ses.sess i x } }

/-- The state with the session of slot `i` changed by `f`. -/
def modSes (s : State) (i : Nat) (f : Session → Session) : State := setSes s i (f (ses s i))

/-- The handle of slot `i` with generation `g` (R77). -/
def mkHandle (g : BitVec 12) (i : Nat) : BitVec 32 := BitVec.ofNat 32 (g.toNat * 2 ^ 20 + i % 2 ^ 20)

/-- The session's handle. -/
def sesHandle (s : State) (i : Nat) : BitVec 32 := mkHandle (ses s i).gen i

/-- The slot of a valid session handle (R77, R78). -/
def sesOfHandle (s : State) (h : BitVec 32) : Option Nat :=
  let i := h.toNat % 2 ^ 20
  let x := ses s i
  if h.toNat / 2 ^ 20 ≠ 0 ∧ x.gen.toNat = h.toNat / 2 ^ 20 ∧ x.st ≠ .free then some i else none

/-- The logical bay of a slot's entry (R79). -/
def slotBay (i : Nat) : Nat := i / 64 % 256

/-- A bay whose pair is being retired: it drains, or will once it has reopened (R302, R442). -/
def bayGoing (s : State) (b : Nat) : Bool := decide (bayState s b = 2) || decide ((raf s b).st = .retired)

/-- Whether a slot may be given to a new session: FREE, not out of use, its bay live and not being retired
(R80, R442). -/
def slotOpen (s : State) (i : Nat) : Bool :=
  let x := ses s i
  decide (x.st = .free) && !x.out && !retired s (slotBay i) && !bayGoing s (slotBay i)

/-- The first of the slots from `i` on that may be given; `n` bounds the search. -/
def firstSlot (s : State) (i : Nat) : Nat → Option Nat
  | 0 => none
  | n + 1 => if slotOpen s i then some i else firstSlot s (i + 1) n

/-- The slot that a new session gets: the device chooses (R80), the model takes the lowest (assumption log 14). -/
def freeSlot (s : State) : Option Nat := firstSlot s 0 1048576

/-- Slots in use, lowest first. -/
def usedSlots (s : State) : List Nat := (s.ses.sess.filter fun e => decide (e.2.st ≠ .free)).map (·.1)

/-- Sessions in RUNNING or WAITING (R81). -/
def activeCount (s : State) : Nat :=
  (s.ses.sess.filter fun e => decide (e.2.st = .running) || decide (e.2.st = .waiting)).length

/-- Slots available (R80, R443). -/
def availCount (s : State) : Nat :=
  1048576 - 4096 * (idxs 256 (retired s)).length -
    (s.ses.sess.filter fun e => e.2.out && !retired s (slotBay e.1)).length

/-- The state number of a session (R82). -/
def stNum : SesState → Nat
  | .free => 0 | .open => 1 | .ready => 2 | .running => 3 | .waiting => 4 | .parked => 5 | .migrating => 6
  | .closing => 7

/-- The layer-group descriptor `g` (R90). -/
def lgrp (s : State) (g : Nat) : LGroup := tget {} s.ses.lgt g

/-- Tokens per page of a session's chain (R88). -/
def tpp (s : State) (x : Session) : Nat := 65536 / (lgrp s x.start.toNat).tokkv.toNat

/-- The hot copy of a session's tail page; a copy of a page that has filled, whose write-back has not ended, is none. -/
def tailHot (s : State) (x : Session) : Option (BitVec 17) :=
  if x.hotIx = x.pos.toNat / tpp s x then x.hot else none

/-- The entry's word 3 (R82), as it goes into a batch slot (R119). -/
def hotWord (s : State) (x : Session) : Word :=
  mkWord [(63, 1, b2n (tailHot s x).isSome), (32, 17, ((tailHot s x).getD 0).toNat), (0, 32, x.pages.length)]

/-- The entry's word 5 (R82). -/
def sampWord (x : Session) : Word :=
  mkWord [(48, 16, x.temp.toNat), (40, 8, x.topk.toNat), (32, 8, x.topp.toNat), (0, 32, x.stoptok.toNat)]

/-- The session table entry (R82). -/
def entryWords (s : State) (x : Session) : List Word :=
  [mkWord [(52, 12, x.gen.toNat), (48, 4, stNum x.st), (45, 3, x.cls.val), (41, 4, x.ring.val),
      (27, 14, x.lgrp.toNat), (13, 14, x.start.toNat), (8, 5, x.nrows), (4, 1, b2n x.redo),
      (3, 1, b2n (x.pend ≠ 0)), (1, 1, b2n x.closeReq), (0, 1, b2n x.parkReq)],
   mkWord [(32, 32, x.pos.toNat), (0, 32, x.budget.toNat)],
   mkWord [(32, 32, x.cseq.toNat), (0, 32, x.pend.toNat)],
   hotWord s x,
   mkWord [(32, 32, x.aux.toNat), (24, 8, x.every.toNat), (16, 8, x.since.toNat)],
   sampWord x, x.readyT, x.dest]

/-! ## Session completions (R100, R110) -/

/-- A completion of a session, in its ring: POS and COUNT, CSEQ and BUDGET. -/
def sesComp (s : State) (i kind status : Nat) : State :=
  let x := ses s i
  putComp s {
    ring := x.ring, kind := kind, status := status, handle := sesHandle s i, time := nowT s,
    w1 := mkWord [(32, 32, x.pos.toNat), (0, 32, x.counted)],
    w2 := mkWord [(32, 32, x.cseq.toNat), (0, 32, x.budget.toNat)] }

/-- A DONE completion: SINCE and the count of written tokens start again (R82, R110). -/
def doneComp (s : State) (i status : Nat) : State :=
  modSes (sesComp s i 0x03 status) i fun x => { x with since := 0, counted := 0 }

/-! ## KV pages (R86-R89) -/

/-- Pool pages that sessions hold. -/
def heldPages (s : State) : List Nat := s.ses.sess.flatMap fun e => e.2.pages

/-- SES_KVFREE.FREE (R86). -/
def kvFree (s : State) : Nat := rf s .sesKvcount 0 0 22 - (heldPages s).length

/-- The first pool page from `p` on that no session holds; `n` bounds the search. -/
def firstPage (held : List Nat) (p : Nat) : Nat → Option Nat
  | 0 => none
  | n + 1 => if held.contains p then firstPage held (p + 1) n else some p

/-- The HBM address of a pool page. -/
def pageAddr (s : State) (p : Nat) : Nat := (rf s .sesKvbase 0 16 24 + p) * 65536

/-- The HBM address of the page list of slot `i` (R87). -/
def plistAddr (s : State) (i : Nat) : Nat := rf s .sesPlbase 0 6 34 * 64 + 4 * rf s .sesKvmax 0 0 13 * i

/-- Gives slot `i` `n` pages more: the lowest free ones, each written into the page list. -/
def takePages (s : State) (i : Nat) : Nat → State
  | 0 => s
  | n + 1 =>
    match firstPage (heldPages s) 0 (rf s .sesKvcount 0 0 22) with
    | none => s
    | some p =>
      let s := devWrite s (plistAddr s i + 4 * (ses s i).pages.length) (natBytes p 4) (sesAcc s)
      takePages (modSes s i fun x => { x with pages := x.pages ++ [p] }) i n

/-- Pages that a session must hold for `rows` more tokens (R88). -/
def pagesNeeded (s : State) (i rows : Nat) : Nat :=
  let x := ses s i
  let t := tpp s x
  (x.pos.toNat + rows + t - 1) / t

/-- The KV page check of R88: the pages exist and the limit allows them. -/
def kvCheck (s : State) (i rows : Nat) : Bool :=
  let need := pagesNeeded s i rows
  decide (rf s .sesKvcount 0 0 22 ≠ 0 ∧ need ≤ rf s .sesKvmax 0 0 13 ∧ need - (ses s i).pages.length ≤ kvFree s)

/-- The hot-pool pages that sessions hold. -/
def heldHot (s : State) : List Nat := s.ses.sess.flatMap fun e => (e.2.hot.toList ++ e.2.olds).map (·.toNat)

/-- The bays that the 4 KiB blocks of a bay-space page lie in (R37). -/
def pageBays (p : Nat) : List Nat := (List.range 16).map fun k => bayOf (p * 65536 + 4096 * k)

/-- The hot-pool pages that may be given: not held, and in no bay that is retired or being retired (R442). -/
def hotOpen (s : State) (p : Nat) : Bool :=
  !(heldHot s).contains p && (pageBays p).all fun b => !retired s b && !bayGoing s b

/-- The first hot page from `p` on that may be given. -/
def firstHot (s : State) (p : Nat) : Nat → Option Nat
  | 0 => none
  | n + 1 => if hotOpen s p then some p else firstHot s (p + 1) n

/-- Copies a 64 KiB page line by line; the flag says whether the source held an uncorrectable word. -/
def copyPage (s : State) (src dst : Nat) (acc : Acc) : State × Bool :=
  (List.range 256).foldl (fun x k =>
    let (s, bs, bad) := lineRead x.1 (src + 256 * k) 256 acc
    (devWrite s (dst + 256 * k) bs acc, x.2 || bad.isSome)) (s, false)

/-- A session whose tail page is `ix` may take a hot page for it: it has none, or what it has is the copy of a page that has
filled and is being written back (R89). -/
def wantsHot (x : Session) (ix : Nat) : Bool :=
  decide (ix < x.pages.length) && (x.hot.isNone || (x.wb && decide (x.hotIx ≠ ix)))

/-- Gives a session without a hot page one for its tail page, where the pool has a free page (R89); the copy of a page that
has filled stays held until its write-back has ended. The page is copied where it holds committed tokens, and in `mid`, inside
a step, where it may hold appends. The flag says whether the HBM page held an uncorrectable word: the session then keeps none
(assumption log 78), and so it does while the page cannot be read (R302, R315, R321). -/
def takeHotIn (mid : Bool) (s : State) (i : Nat) : State :=
  let x := ses s i
  let ix := x.pos.toNat / tpp s x
  if !wantsHot x ix then s else
  match firstHot s (rf s .sesHotbase 0 0 17) (rf s .sesHotcount 0 0 17) with
  | none => s
  | some p =>
    let was := s
    let s := modSes s i fun x => { x with
      hot := some (BitVec.ofNat 17 p), hotIx := ix, wb := false, olds := x.olds ++ x.hot.toList }
    if mid || decide (ix < x.base) then
      if rangeHeld s (pageAddr s (nth x.pages ix 0)) 65536 (sesAcc s).cls then was else
      let (t, bad) := copyPage s (pageAddr s (nth x.pages ix 0)) (p * 65536) (sesAcc s)
      if bad then modSes t i fun y => { y with hot := x.hot, hotIx := x.hotIx, wb := x.wb, olds := x.olds } else t
    else s

/-- As `takeHotIn`, between steps or at the start of one. -/
def takeHot (s : State) (i : Nat) : State := takeHotIn false s i

/-- A hot page has become free: every session in READY, RUNNING or WAITING without one takes one while the pool has a
free page, lowest slot first (R89, assumption log 14). -/
def giveHot (s : State) : State :=
  (usedSlots s).foldl (fun s i =>
    let x := ses s i
    if (x.st = .ready ∧ x.parking = false) ∨ x.st = .running ∨ x.st = .waiting then
      takeHotIn (decide (x.st = .running ∨ x.st = .waiting ∨ x.lgrp ≠ x.start)) s i
    else s) s

/-- Starts the write-back of a session's hot copy to its HBM page (R89); the flag says whether the source
was uncorrectable (R445). -/
def startWriteback (s : State) (i : Nat) : State × Bool :=
  let x := ses s i
  match x.hot with
  | some p =>
    if x.wb then (s, false) else
    let (s, bad) := copyPage s (p.toNat * 65536) (pageAddr s (nth x.pages x.hotIx 0)) (sesAcc s)
    (modSes s i fun x => { x with wb := true }, bad)
  | none => (s, false)

/-! ## Leaving a step -/

/-- The session part of discarding an uncommitted step (R101): READY at START with REDO 1, the pages of the
last commit point; a hot copy of a page that the step took is given up. -/
def rollback (s : State) (i : Nat) : State :=
  modSes s i fun x => { x with
    st := .ready, lgrp := x.start, redo := true, nrows := 0, wait := .none, skip := 0,
    pages := x.pages.take x.base, hot := if x.base ≤ x.hotIx ∧ x.wb = false then none else x.hot, ended := false, gened := [], took := 0, readyT := nowT s }

/-- Whether a session is inside an uncommitted step. -/
def inStep (x : Session) : Bool :=
  decide (x.st = .running) || decide (x.st = .waiting) || (decide (x.st = .ready) && decide (x.lgrp ≠ x.start))

/-- A pass of session rows in which the rows of slot `i` no longer concern their session. -/
def deadRows (i : Nat) (p : Pass) : Pass :=
  if p.expert then p
  else { p with rows := p.rows.map fun r => if r.slot = i then { r with live := false } else r }

/-- A session's rows in passes of session rows no longer concern it (R101): what they report is dropped. -/
def dropRows (s : State) (i : Nat) : State :=
  { s with ses := { s.ses with passes := s.ses.passes.map (deadRows i) } }

/-- A session-lost notice (R519). -/
def lostSession (s : State) (first last : Nat) : State :=
  raiseT s 0x0074 (srcOf 14 0) (mkWord [(32, 32, first), (0, 32, last)])

/-- A session in CLOSING: its hot copy is written back (R84, R89); the flag says whether it could not be read. -/
def beginClosing (s : State) (i : Nat) : State × Bool :=
  startWriteback (modSes s i fun x => { x with
    st := .closing, wait := .none, parking := false, nrows := 0, aux := 0 }) i

/-- A session enters CLOSING (R84, R89). It ends there already: where its hot copy cannot be read, the session-lost notice is
all that is left to do (R445). -/
def enterClosing (s : State) (i : Nat) : State :=
  let (t, bad) := beginClosing s i
  if bad then lostSession t (sesHandle t i).toNat 0 else t

/-- The slot of a session that was arriving is FREE again; no handle of it was ever given out (R84, R102). -/
def freeTarget (s : State) (i : Nat) : State :=
  setSes s i { sesDef s with gen := (ses s i).gen, out := (ses s i).out }

/-- A slot returns to FREE with its generation advanced (R78, R84); the commit intervals of its session still count in
the lap (R95). -/
def freeSession (s : State) (i : Nat) : State :=
  let x := ses s i
  let g : BitVec 12 := if x.gen = 4095 then 1 else x.gen + 1
  let s := if x.times.length < 2 then s else { s with bat := { s.bat with gone := s.bat.gone ++ [(x.cls.val, x.times)] } }
  setSes s i { sesDef s with gen := g, out := x.out }

end Sys2Proof.Machine
end

