-- ==== Sys2Proof/Machine/Access.lean ====
section
/-! DEFINITION. What a rafter and its stream channels may reach (R38, R39, R126, R127), stream descriptors
as copied at issue (R272), and the ways in which a descriptor or a channel ends (R141-R143). -/

namespace Sys2Proof.Machine

/-! ## Device accesses of a rafter (R126) -/

/-- What the check of an access finds (R126, R131). -/
inductive Viol
  | ok | window | protected_
  deriving DecidableEq, Repr

/-- The ranges (first, past the last) of a rafter's windows that allow an access (R127). A WRITE window over register space
allows no write there: R528 forbids every register write but those to the rafter's own block, and R126 names no window as an
exception (DEDUCED, assumption log 64). -/
def windowRanges (s : State) (n : Nat) (write : Bool) : List (Nat × Nat) :=
  (List.range 8).filterMap fun k =>
    let v := rg s .rafnWink n k
    let base := fld v 26 24 * 65536
    let past := base + fld v 0 24 * 65536
    if bitOf v 63 && (!write || bitOf v 62) then some (base, if write then min past 0xF000000000 else past) else none

/-- The pass that rafter `n` is running. -/
def runningPass (s : State) (n : Nat) : Option Pass :=
  let r := raf s n
  if r.st = .run ∨ r.st = .handler then
    s.ses.passes.find? fun p => p.targets.any fun t => t.1 = n ∧ t.2.1 = r.cur ∧ t.2.2 = r.pass
  else none

/-- The ranges that item 2 of R126 allows during a pass: KV pages and the hot page of the sessions in the
running batch, and for a read their page lists. -/
def batchRanges (s : State) (n : Nat) (write : Bool) : List (Nat × Nat) :=
  match runningPass s n with
  | none => []
  | some p => p.rows.flatMap fun row =>
    if row.handle = 0 ∨ sesHandle s row.slot ≠ row.handle then [] else
    let x := ses s row.slot
    let page := fun (a : Nat) => (a, a + 65536)
    (x.pages.map fun q => page (pageAddr s q)) ++
    (match x.hot with | some h => [page (h.toNat * 65536)] | none => []) ++
    (if write then [] else [(plistAddr s row.slot, plistAddr s row.slot + 4 * rf s .sesKvmax 0 0 13)])

/-- Whether ranges together cover every byte from `a` to before `b`, `fuel` bounding the steps. -/
def coveredBy (ivs : List (Nat × Nat)) (a b : Nat) : Nat → Bool
  | 0 => decide (b ≤ a)
  | fuel + 1 =>
    if b ≤ a then true else
    let e := (ivs.filter fun i => decide (i.1 ≤ a)).foldl (fun m i => max m i.2) 0
    if e ≤ a then false else coveredBy ivs e b fuel

/-- A range of bay space that touches the session table, a cache way or a retired bay (R38, R39). -/
def protectedRange (s : State) (a n : Nat) : Bool :=
  let e := min (a + n) 0x180000000
  if e ≤ a then false else
  decide (0x17C000000 < e) ||
  ((List.range (wayOf (e - 1) - wayOf a + 1)).any fun k => isCacheWay s (wayOf a + k)) ||
  ((List.range (min 256 ((e - 1) / 4096 - a / 4096 + 1))).any fun k => retired s ((a / 4096 + k) % 256))

/-- A range with a byte that R11 leaves unmapped. -/
def unmappedRange (a n : Nat) : Bool :=
  decide (0 < n) && (decide (a < 0x1000000000 ∧ 0x180000000 < a + n) ||
    decide (a < 0xF000000000 ∧ 0x4000000000 < a + n) || decide (0x10000000000 < a + n))

/-- Whether a register offset names an RW register of rafter `n`'s own block (R126 item 4, R528). -/
def ownRw (n off : Nat) : Bool :=
  match regAt off with
  | some x => rafterRegs.contains x.reg && decide (x.i = n) && decide ((regRow x.reg).rw ≠ 0)
  | none => false

/-- The register-space ranges that items 3 and 4 of R126 allow. -/
def regRanges (n a len : Nat) (write : Bool) : List (Nat × Nat) :=
  if write then
    ((List.range (len / 8 + 2)).map fun k => a / 8 * 8 + 8 * k).filterMap fun b =>
      if isRegs b && ownRw n (b - 0xF000000000) then some (b, b + 8) else none
  else [(0xF000000000, 0x10000000000)]

/-- The check of a device access of rafter `n` or one of its channels (R126, R528). -/
def checkAccess (s : State) (n a len : Nat) (write : Bool) : Viol :=
  if protectedRange s a len then .protected_
  else if unmappedRange a len then .window
  else
    let ivs := windowRanges s n write ++ batchRanges s n write ++
      (if isRegs a then regRanges n a len write else [])
    if coveredBy ivs a (a + len) (ivs.length + 1) then .ok
    else if write && isRegs a then .protected_ else .window

/-- The freeze cause of a violation (R131). -/
def violCause : Viol → Nat
  | .protected_ => 0x11
  | _ => 0x10

/-! ## Stream descriptors (R272) -/

/-- The reads of a source leave the request table. -/
def dropReads (r : Rafter) (x : RdSrc) : Rafter := { r with reads := r.reads.filter fun q => q.src ≠ x }

/-- The reads of yealm slot `y`, its fetches among them, leave the request table. -/
def dropYealm (r : Rafter) (y : Nat) : Rafter := dropReads (dropReads r (.ylm y)) (.code (some y))

/-- Word `k` of a descriptor. -/
def sdW (d : SDesc) (k : Nat) : Word := nth d.ws k 0

/-- SKIND (R272, R273). -/
def sdSkind (d : SDesc) : Nat := fld (sdW d 0) 61 3

/-- DKIND. -/
def sdDkind (d : SDesc) : Nat := fld (sdW d 0) 58 3

/-- BSP. -/
def sdBsp (d : SDesc) : Bool := bitOf (sdW d 0) 57

/-- NOTICE. -/
def sdNotice (d : SDesc) : Nat := fld (sdW d 0) 42 9

/-- VOP. -/
def sdVop (d : SDesc) : Nat := fld (sdW d 0) 40 2

/-- RFMT. -/
def sdRfmt (d : SDesc) : Bool := bitOf (sdW d 0) 39

/-- LEN. -/
def sdLen (d : SDesc) : Nat := fld (sdW d 0) 0 32

/-- ROFF. -/
def sdRoff (d : SDesc) : Nat := fld (sdW d 3) 0 40

/-- The valley handle of a descriptor, on the side that names a valley. -/
def sdValley (d : SDesc) : Option (BitVec 32) :=
  if sdDkind d = 4 then some ((sdW d 2).setWidth 32)
  else if sdSkind d = 4 then some ((sdW d 1).setWidth 32) else none

/-! ## How a descriptor ends -/

/-- Writes the notice word of a stream descriptor; 0 and 1 name none (R128, R274). -/
def descNotice (r : Rafter) (d : SDesc) (status value : Nat) : Rafter :=
  if sdNotice d < 2 then r else notify r (sdNotice d) status value

/-- `k` descriptors of channel `c` have ended: the CADDs that wait for them count down (R138). -/
def caddEnd (r : Rafter) (c k : Nat) : Rafter :=
  { r with cadds := r.cadds.map fun a =>
      { a with descs := a.descs.map fun d => if d.1 = c then (c, d.2 - k) else d } }

/-- The head descriptor of a channel ends; the channel is IDLE until its next one starts. -/
def endDescIn (r : Rafter) (c status value : Nat) : Rafter :=
  let x := chan r c
  match x.queue with
  | [] => r
  | d :: q =>
    descNotice (setChan (dropReads (caddEnd r c 1) (.chan c)) c { queue := q, status := BitVec.ofNat 8 status }) d status value

/-- The head descriptor of channel `c` of rafter `n` ends with a status and a value (R132). -/
def endDesc (s : State) (n c status value : Nat) : State := modRaf s n fun r => endDescIn r c status value

/-- Every queued descriptor of a channel ends with CLEARED; the channel becomes IDLE (R136, R143). -/
def clearChanIn (r : Rafter) (c : Nat) : Rafter :=
  let x := chan r c
  let r := setChan (dropReads (caddEnd r c x.queue.length) (.chan c)) c { status := if x.queue.isEmpty then x.status else 0x03 }
  (x.queue.zip (List.range x.queue.length)).foldl
    (fun r p => descNotice r p.1 0x03 (if p.2 = 0 then x.moved else 0)) r

/-- Whether a slate command takes its weights from channel `c`: MODE is not DRAIN and W_SRC is 0 (R158). -/
def fedBy (m : SCmd) (c : Nat) : Bool := !decide (m.desc.mode = 2) && !m.desc.wsrc && decide (m.desc.wch = c)

/-- The fewest k positions that a named slate of a command has taken (R161). -/
def leastProg (m : SCmd) : Nat := ((leastBy id (m.phys.map (tget 0 m.prog ·))).getD 0)

/-- The slate commands fed by channel `c` end with STARVED (R161). -/
def starveIn (r : Rafter) (c : Nat) : Rafter :=
  let out := r.scmds.filter fun m => fedBy m c
  let r := { r with scmds := r.scmds.filter fun m => !fedBy m c }
  out.foldl (fun r m => if m.desc.notice = 0 then r else notify r m.desc.notice 0x06 (leastProg m)) r

/-- A yealm's notice word as R221 lays out VALUE. -/
def ylmValue (nthr issued : Nat) : Nat := nthr * 2 ^ 40 + issued % 2 ^ 32

/-- The notice words of a rafter's occupied slots and queued launches, written with CLEARED (R223, R225, R226);
a launch that never started has issued nothing. -/
def clearYealms (r : Rafter) : Rafter :=
  let r1 := (List.range 16).foldl (fun q y =>
    let x := yslot r y
    if x.st = .free ∨ x.notice = 0 then q else notify q x.notice 0x03 (ylmValue x.nthr x.issued)) r
  let r2 := r.launch.foldl (fun q l => if l.notice = 0 then q else notify q l.notice 0x03 (ylmValue l.nthr 0)) r1
  { r2 with launch := [], ys := [] }

/-- STCLR of a halted channel (R143). -/
def stclrIn (r : Rafter) (c : Nat) : Rafter := starveIn (clearChanIn r c) c

/-- A channel halts on uncorrectable source data at a device address (R142). STATUS stays that of the last descriptor
to end (R144). -/
def haltChan (s : State) (n c addr : Nat) : State :=
  modRaf s n fun r =>
    let x := chan r c
    let r := setChan r c { x with st := .halted, addr := BitVec.ofNat 40 addr }
    match x.queue with
    | [] => r
    | d :: _ => descNotice r d 0x01 x.moved

/-- A channel becomes FROZEN on a failing descriptor (R141, R434): its notice word is written with FROZEN,
and a freeze notice names the channel with `cause`. -/
def freezeChan (s : State) (n c addr cause : Nat) : State :=
  let s := modRaf s n fun r =>
    let x := chan r c
    let r := setChan r c { x with st := .frozen, addr := BitVec.ofNat 40 addr }
    match x.queue with
    | [] => r
    | d :: _ => descNotice r d 0x04 0
  raiseT s 0x0070 (srcOf 1 n) (mkWord [(8, 8, cause), (4, 1, 1), (0, 4, c)])

end Sys2Proof.Machine
end

