-- ==== Sys2Proof/Machine/Valley.lean ====
section
/-! DEFINITION. Valley ends and what they send (R406-R428): handles, routes, packets as flits, control
packets, and the queue of packets that an end has not had acknowledged. -/

namespace Sys2Proof.Machine

/-! ## Ends -/

/-- What an unused end holds: the generation drawn at SEAL (R454). -/
def vDef (s : State) : VEnd := { vgen := s.vly.vgenBase }

/-- Valley end `i`. -/
def vend (s : State) (i : Nat) : VEnd := tget (vDef s) s.vly.ends i

/-- The state with valley end `i` replaced. -/
def setVend (s : State) (i : Nat) (e : VEnd) : State :=
  { s with vly := { s.vly with ends := tput (vDef s) s.vly.ends i e } }

/-- The state with valley end `i` changed by `f`. -/
def modVend (s : State) (i : Nat) (f : VEnd → VEnd) : State := setVend s i (f (vend s i))

/-- A valley handle (R406). -/
def vHandle (g : BitVec 16) (i : Nat) : BitVec 32 := BitVec.ofNat 32 (g.toNat * 65536 + i % 65536)

/-- The handle of end `i`. -/
def endHandle (s : State) (i : Nat) : BitVec 32 := vHandle (vend s i).vgen i

/-- The end that a valid handle names (R406). -/
def endOfHandle (s : State) (h : BitVec 32) : Option Nat :=
  let i := h.toNat % 65536
  let e := vend s i
  if h.toNat / 65536 ≠ 0 ∧ e.vgen.toNat = h.toNat / 65536 ∧ e.st ≠ .free then some i else none

/-- The effective level of an end (R423). -/
def effLevel (e : VEnd) : Nat := min e.floor e.minlvl

/-- VLY_DEVID.ID (R408). -/
def devId (s : State) : Nat := rf s .vlyDevid 0 0 16

/-- The ends that are not FREE. -/
def openEnds (s : State) : List (Nat × VEnd) := s.vly.ends.filter fun e => e.2.st ≠ .free

/-- The distinct partner devices of the open ends (R407). -/
def partners (s : State) : List Nat := ((openEnds s).map fun e => e.2.pdev.toNat).dedup

/-- Open ends whose handles are homed to eaves link `k` (R34). -/
def openOn (s : State) (k : Nat) : Nat := ((openEnds s).filter fun e => decide (e.1 % 4 = k)).length

/-- The lowest free index that is congruent to `k` modulo 4. -/
def freeOn (s : State) (k : Nat) : Nat → Nat → Option Nat
  | _, 0 => none
  | i, n + 1 => if (vend s (4 * i + k)).st = .free then some (4 * i + k) else freeOn s k (i + 1) n

/-- The index a new end gets: the lowest free one whose eaves link has the fewest open ends (R407). -/
def freeEnd (s : State) : Option Nat :=
  let cand := (List.range 4).filterMap fun k => (freeOn s k 0 16384).map fun i => (openOn s k, i)
  let least := (leastBy Prod.fst cand).map Prod.fst
  leastBy id ((cand.filter fun c => some c.1 = least).map Prod.snd)

/-- The ring units of 256 bytes that a packet of `n` data bytes takes (R411). -/
def ringUnits (n : Nat) : Nat := (64 + n + 255) / 256

/-- The size of an end's receive ring in units. -/
def ringSize (e : VEnd) : Nat := 2 ^ e.rxlog2 / 256

/-! ## Routing (R427, R428) -/

/-- Port `p`. -/
def port (s : State) (p : Nat) : Port := tget {} s.ports p

/-- The state with port `p` replaced. -/
def setPort (s : State) (p : Nat) (x : Port) : State := { s with ports := tput {} s.ports p x }

/-- A port is UP and its partner has not departed (R447, R458). -/
def portOpen (s : State) (p : Nat) : Bool :=
  portUp s p && !(s.vly.departed.contains (rf s .lnkpStat p 32 16))

/-- A port takes part in routing: it is open and not paused (R428, R480). -/
def routable (s : State) (p : Nat) : Bool := portOpen s p && (port s p).pause.isNone

/-- Every open port of a destination's masks is paused, so that its packets wait at their ends (R480). -/
def destPaused (s : State) (dst : Nat) : Bool :=
  let e := (tget 0 s.vly.rt dst).toNat
  let ps := idxs 12 fun p => (e.testBit p || e.testBit (p + 12)) && portOpen s p
  e.testBit 31 && !ps.isEmpty && ps.all fun p => (port s p).pause.isSome

/-- The RTO of an end stands still while every port to its partner is paused (R480): the time that has passed meanwhile does not
count. Taken again whenever a pause begins or ends, or a port enters UP. -/
def markWaits (s : State) : State :=
  (openEnds s).foldl (fun s e =>
    match e.2.waitAt, destPaused s e.2.pdev.toNat with
    | none, true => modVend s e.1 fun e => { e with waitAt := some (nowR s) }
    | some t, false => modVend s e.1 fun e => { e with waitAt := none, progAt := e.progAt + (nowR s - t) }
    | _, _ => s) s

/-- The routable ports of a mask. -/
def livePorts (s : State) (m : Nat) : List Nat := idxs 12 fun p => m.testBit p && routable s p

/-- The offset bucket of a packet. -/
def bucketOf (src dst vidx : Nat) : Nat := (src ^^^ dst ^^^ vidx) % 64

/-- The port for a packet (R428): its bucket notes its ports' mask. A device's own identifier has
no entry (R387, R427). -/
def route (s : State) (src dst vidx : Nat) (inp : Option Nat) : State × Option Nat :=
  let e := (tget 0 s.vly.rt dst).toNat
  let pri := e % 4096
  let alt := e / 4096 % 4096
  let back := match inp with | some p => pri.testBit p | none => false
  let m := if back then [] else livePorts s pri
  let m := if m.isEmpty then livePorts s alt else m
  if !e.testBit 31 || m.isEmpty || decide (dst = devId s) then (s, none) else
  let b := bucketOf src dst vidx
  let x := tget {} s.vly.buckets b
  let p := nth m ((b + x.off) % m.length) 0
  let mask : BitVec 12 := BitVec.ofNat 12 (m.foldl (fun a q => a + 2 ^ q) 0)
  ({ s with vly := { s.vly with
      buckets := tput {} s.vly.buckets b { x with last := nowR s, mask := mask } } }, some p)

/-- Counts `k` flits dropped for want of a route (R426, R428). -/
def noRoute (s : State) (k : Nat) : State := rfSat s .vlyStat 0 0 17 k

/-- Counts a packet dropped as stale (R416, R426). -/
def stalePacket (s : State) : State := rfSat s .vlyStat 0 17 17 1

/-! ## Flits (R374, R376) -/

/-- A route header (R376). -/
def routeHdr (dst src vidx ft : Nat) (sop eop : Bool) (nw hops : Nat) : Word :=
  mkWord [(48, 16, dst), (32, 16, src), (16, 16, vidx), (14, 2, ft), (13, 1, b2n sop), (12, 1, b2n eop),
    (7, 5, nw), (0, 7, hops)]

/-- A flit from its header and up to 30 payload words; word 31 is the link layer's (R374). -/
def mkFlit (h : Word) (ws : List Word) : List Word := h :: (ws ++ List.replicate (31 - ws.length) 0)

/-- The flits of a packet; `n` bounds their number. -/
def flitsOf (dst src vidx ft : Nat) (first : Bool) (ws : List Word) : Nat → List (List Word)
  | 0 => []
  | n + 1 =>
    let here := ws.take 30
    let rest := ws.drop 30
    mkFlit (routeHdr dst src vidx ft first rest.isEmpty here.length 0) here ::
      (if rest.isEmpty then [] else flitsOf dst src vidx ft false rest n)

/-- The words of a flit with their side bits: parity, and the end mark of R62 on the last payload word of an EOP flit;
word 31 stands as zero with parity 0 (R374, R376). -/
def flitQ (ws : List Word) : List QWord :=
  let h := nth ws 0 0
  ((ws ++ List.replicate 31 0).take 31 ++ [0]).zipIdx.map fun (w, i) =>
    { w := w, parity := xorBits w, endm := bitOf h 12 && decide (i = fld h 7 5), vb := 0 }

/-- The words of a flit without their side bits. -/
def plain (f : List QWord) : List Word := f.map (·.w)

/-- The port switch writes the flits of a port's output hold into its transmit queue, as whole flits and as far as the
queue has room (R60, R65, R378). -/
def fillTx (s : State) (p : Nat) : State :=
  let q := queue s (13 + p)
  let k := q.words.length / 32
  let fs := ((port s p).txq.drop k).take (qDepth s (13 + p) / 32 - k)
  setQueue s (13 + p) (qPut q (nowR s) fs.flatten)

/-- Hands flits to a port's output hold, and counts their payload bytes for R428; their buckets have forwarded now. -/
def enqueue (s : State) (p : Nat) (fs : List (List QWord)) : State :=
  let hdrs := fs.map fun f => nth (plain f) 0 0
  let bytes := (hdrs.map fun h => 8 * fld h 7 5).sum
  let s := fillTx (setPort s p { port s p with txq := (port s p).txq ++ fs }) p
  let buckets := hdrs.foldl (fun t h =>
    tmod {} t (bucketOf (fld h 32 16) (fld h 48 16) (fld h 16 16)) fun x => { x with last := nowR s }) s.vly.buckets
  { s with vly := { s.vly with
    buckets := buckets, lapBytes := tput 0 s.vly.lapBytes p (tget 0 s.vly.lapBytes p + bytes) } }

/-- A link notice of port `p` (R519). -/
def linkNotice (s : State) (p ev : Nat) : State :=
  raiseR s 0x0050 (srcOf 5 p) (mkWord [(16, 8, rf s .lnkpStat p 60 4), (8, 8, ev)]) (rg s .lnkpErr p)

/-- A packet that the forerunner subset forbids on a port of level `lvl` (R396, R397): `kind` is the valley
kind, or none for a control packet, `size` the data size. -/
def subsetBad (lvl dst src : Nat) (kind : Option Nat) (size : Nat) (rfmt : Bool) : Bool :=
  let data := match kind with
    | none => false
    | some k => decide (4096 < size) || (decide (lvl = 1) && decide (k ≠ 0)) || (decide (k = 2) && !rfmt)
  decide (lvl = 1 ∨ lvl = 2) && (data || (decide (lvl = 1) && decide (4096 ≤ dst ∨ 4096 ≤ src)))

/-- A packet dropped at a port under R397. -/
def subDrop (s : State) (p : Nat) : State := linkNotice (rfSat s .lnkpErr p 8 8 1) p 5

/-- How the sending of a packet went. -/
inductive Sent
  | ok | noRoute | subset
  deriving DecidableEq, Repr

/-- Sends a packet of this device (R387, R397, R428): words of payload, valley kind for a data packet. The subset
binds it by the level of its port and by `lvl`, the effective level of its end (R423). -/
def sendPacket (s : State) (dst vidx ft : Nat) (kind : Option Nat) (size : Nat) (rfmt : Bool) (ws : List Word)
    (lvl : Nat := 3) : State × Sent :=
  let fs := flitsOf dst (devId s) vidx ft true ws (ws.length / 30 + 1)
  match route s (devId s) dst vidx none with
  | (s, none) => (noRoute s fs.length, .noRoute)
  | (s, some p) =>
    if subsetBad (min lvl (rf s .lnkpStat p 58 2)) dst (devId s) kind size rfmt then (subDrop s p, .subset)
    else (enqueue s p (fs.map flitQ), .ok)

/-! ## Control packets (R420) -/

/-- Word 1 of a control packet. -/
def ctlWord (vtype dgen minlvl : Nat) : Word := mkWord [(56, 8, vtype), (40, 16, dgen), (38, 2, minlvl)]

/-- Sends a control packet to end `vidx` of a device; it waits while every port to the device is paused (R480). -/
def sendCtl (s : State) (dst vidx vtype dgen minlvl : Nat) (w2 w3 : Word) : State :=
  let ws := [ctlWord vtype dgen minlvl, w2, w3]
  if destPaused s dst then
    { s with vly := { s.vly with heldCtl := s.vly.heldCtl ++ [⟨dst, vidx, ws⟩] } }
  else (sendPacket s dst vidx 1 none 8 false ws).1

/-- Sends a control packet to the partner of end `i`. -/
def sendToPartner (s : State) (i vtype minlvl : Nat) (w2 : Word) (w3 : Word := 0) : State :=
  let e := vend s i
  sendCtl s e.pdev.toNat (e.ph.toNat % 65536) vtype (e.ph.toNat / 65536) minlvl w2 w3

/-- Word 2 of CONNECT and CONNACK (R420). -/
def joinWord (s : State) (i : Nat) : Word :=
  let e := vend s i
  mkWord [(32, 32, (endHandle s i).toNat), (30, 2, e.kind.toNat), (29, 1, b2n e.dir)]

/-- Sends CONNECT (vtype 1) or CONNACK (vtype 2) from end `i`, with the sender's ring size (R420). -/
def sendJoin (s : State) (i vtype minlvl : Nat) : State :=
  sendToPartner s i vtype minlvl (joinWord s i) (BitVec.ofNat 64 (ringSize (vend s i)))

/-- A notice that an end entered CLOSED or FROZEN (R415, R519). -/
def valleyNotice (s : State) (i : Nat) (frozen : Bool) (cause : Nat) : State :=
  raiseR s 0x0060 (srcOf 12 i) (mkWord [(32, 32, (endHandle s i).toNat), (8, 1, b2n frozen), (0, 8, cause)])

/-! ## Sending data (R416, R417, R421, R422) -/

/-- The valley word of a packet (R416). -/
def valleyWord (e : VEnd) (k : VSend) : Word :=
  mkWord [(48, 16, e.ph.toNat / 65536), (46, 2, k.vop.toNat), (45, 1, b2n k.rfmt), (0, 32, k.pseq.toNat)]

/-- The number of data bytes of a packet. -/
def srcLen : VSrc → Nat
  | .bytes bs => bs.length
  | .chan _ _ _ _ len => len
  | .mig _ _ _ len => 64 + len
  | .gate _ hdr _ len => hdr.length + len

/-- Queues a packet on an end: it takes the end's next PSEQ (R416). -/
def pushSend (s : State) (i : Nat) (src : VSrc) (vop : Nat) (rfmt : Bool) (win : Word) : State :=
  modVend s i fun e => { e with
    nextTx := e.nextTx + 1,
    sends := e.sends ++ [{
      pseq := e.nextTx, src := src, win := win, vop := BitVec.ofNat 2 vop, rfmt := rfmt,
      units := ringUnits (srcLen src) }] }

/-- The device ranges of a range that stays within one bay, by 4 KiB granule (R273); `f` bounds their number. -/
def bayRuns (b o n : Nat) : Nat → List (Nat × Nat)
  | 0 => []
  | f + 1 => if n = 0 then [] else
    let k := min n (4096 - o % 4096)
    (bayAddr b o, k) :: bayRuns b (o + k) (n - k) f

/-- A read of a range of one bay. -/
def bayRead (s : State) (b o n : Nat) (acc : Acc) : State × List Byte × Option Nat :=
  (bayRuns b o n (n / 4096 + 2)).foldl (fun x p =>
    let (s, bs, bad) := devRead x.1 p.1 p.2 acc
    (s, x.2.1 ++ bs, x.2.2.or bad)) (s, [], none)

/-- The payload words of a packet of an end. -/
def packetWords (e : VEnd) (k : VSend) (bs : List Byte) : List Word :=
  [valleyWord e k] ++ (if k.vop = 1 then [k.win] else []) ++ bytesWords bs ((bs.length + 7) / 8)

/-- Whether an end may send a packet now (R421): at U3 the granted units cover it; below, at most 8 packets
are unacknowledged. Once sent, a packet's `units` are 0, so that a resend takes no new ones. -/
def maySend (e : VEnd) (k : VSend) : Bool :=
  (if effLevel e = 3 then decide (e.used + k.units ≤ e.granted)
   else decide ((e.sends.filter fun x => x.sent.isSome).length < 8))

/-- VRTT: the mean round trip over the last 16 packets acknowledged, in ns (R422). -/
def vrtt (e : VEnd) : Nat := e.rtts.sum / max 1 e.rtts.length

/-- The acknowledgement of every packet before `upto`, at `now` (R421, R422): they leave the queue, their round trips are
taken, and the progress time is noted. -/
def ackUpto (e : VEnd) (upto : BitVec 32) (now : Word) : VEnd :=
  let acked := fun (k : VSend) => decide ((upto - k.pseq).toNat < 2 ^ 31 ∧ upto ≠ k.pseq)
  if e.sends.any acked then
    let ts := ((e.sends.filter acked).filterMap fun k => k.sent).map fun t => now.toNat - t.toNat
    { e with
      sends := e.sends.filter fun k => !acked k, rtts := (ts.reverse ++ e.rtts).take 16, progAt := now, resends := 0 }
  else e

/-- The acknowledgement of one packet (R421 DONE, R434 REFUSE). -/
def ackOne (e : VEnd) (p : BitVec 32) (now : Word) : VEnd :=
  let x := { e with sends := [⟨p, .bytes [], 0, 0, false, (e.sends.find? (·.pseq = p)).bind (·.sent), 0⟩] }
  let y := ackUpto x (p + 1) now
  if e.sends.any (·.pseq = p) then { y with sends := e.sends.filter (·.pseq ≠ p) } else e

/-- Returns CREDIT from end `i` (R420, R421). -/
def sendCredit (s : State) (i : Nat) : State :=
  let e := vend s i
  let s := sendToPartner s i 0x03 0 (mkWord [(32, 32, e.nextRx.toNat), (0, 32, e.total)])
  modVend s i fun e => { e with freed := 0, freedAt := none }

/-- Frees what has been used at the front of a ring: the rest, and the units freed. -/
def ringPop : List VRing → List VRing × Nat
  | [] => ([], 0)
  | p :: l => if p.used then let (r, n) := ringPop l; (r, n + p.units) else (p :: l, 0)

/-- The consumer of end `i` is done with the packet `q` of its ring (R411, R421): the space is freed in ring order;
at U3 CREDIT returns once 32 units are freed, below it DONE names the packet. -/
def ringFree (s : State) (i : Nat) (q : BitVec 32) : State :=
  let e := vend s i
  let (ring, k) := ringPop (mapIf (fun p => decide (p.pseq = q)) (fun p => { p with taken := true, used := true }) e.ring)
  let e := { e with ring := ring }
  if effLevel e = 3 then
    if k = 0 then setVend s i e else
    let e := { e with total := (e.total + k) % 2 ^ 32, freed := e.freed + k, freedAt := e.freedAt.or (some (nowR s)) }
    let s := setVend s i e
    if 32 ≤ e.freed then sendCredit s i else s
  else sendToPartner (setVend s i e) i 0x04 0 (mkWord [(32, 32, q.toNat)])

/-- Puts the packets from `p` onward back among those to be sent, in order (R422). -/
def resendFrom (e : VEnd) (p : BitVec 32) : VEnd :=
  { e with
    resends := e.resends + 1,
    sends := e.sends.map fun k => if (k.pseq - p).toNat < 2 ^ 31 then { k with sent := none } else k }

end Sys2Proof.Machine
end

