-- ==== Sys2Proof/Machine/Frames.lean ====
section
/-! DEFINITION. Flit frames as a port sends them (R374-R377, R385, R457). -/

namespace Sys2Proof.Machine

/-- The CRC of a frame (R377): words 0-30, bytes 0-3 of word 31, the tag. -/
def frameCrc (ws : List Word) (tag : Byte) : Nat :=
  (crc32 (wordsBytes (ws.take 31) ++ (wordBytes (nth ws 31 0)).take 4 ++ [tag])).toNat

/-- The link word without its CRC (R377). -/
def linkWord (seq ack : BitVec 16) : Word := mkWord [(16, 16, seq.toNat), (0, 16, ack.toNat)]

/-- Whether the port tells its partner to stop (R383). -/
def stopNow (x : Port) : Bool := decide (256 < x.landing.length)

/-- The tag of a frame (R375): kind 0 IDLE, 1 DATA, 2 CTRL. -/
def frameTag (x : Port) (kind : Nat) : Byte := BitVec.ofNat 8 (64 * kind + 32 * b2n (stopNow x))

/-- Port `p` sends a frame with words 0-30 of `ws` and the given SEQ; every frame carries ACKSEQ (R375, R377, R379). -/
def putFrame (s : State) (p kind : Nat) (ws : List Word) (seq : BitVec 16) : State :=
  let x := port s p
  let tag := frameTag x kind
  let body := (ws ++ List.replicate 31 0).take 31
  let l := linkWord seq x.expect
  let crc := frameCrc (body ++ [l]) tag
  setPort s p { x with out := x.out ++ [(body ++ [setFld l 32 32 crc], tag)] }

/-- Port `p` sends a CTRL flit (R385); its SEQ is the next that the port will assign (R377). -/
def putCtrl (s : State) (p ctype arg : Nat) (ws : List Word := []) : State :=
  putFrame s p 2 (mkWord [(56, 8, ctype), (32, 16, devId s), (0, 32, arg)] :: ws) (port s p).seq

/-- One copy of the departure record on every port in UP (R456, R457). -/
def sendDepart (s : State) : State :=
  (idxs 13 (portUp s)).foldl (fun s p => putCtrl s p 0x03 0 s.stop.record) s

end Sys2Proof.Machine
end

