-- ==== Sys2Proof/Machine/Float.lean ====
section
/-! DEFINITION. Floating point (R155, R156, R168, R172-R175, R233-R235, R269): values held exactly as
integers times powers of two, rounded once where a rule rounds. -/

namespace Sys2Proof.Machine

/-- A floating value: a NaN, an infinity, or (-1)^neg * m * 2^e, a zero keeping its sign. -/
inductive Fv
  | nan
  | inf (neg : Bool)
  | fin (neg : Bool) (m : Nat) (e : Int)
  deriving DecidableEq, Repr

/-- How a format spells values that are not numbers (R155). -/
inductive FSpec
  | ieee | e4m3 | none
  deriving DecidableEq, Repr

/-- A floating format: mantissa and exponent bits, bias, and its special codes (R155). -/
structure FFmt where
  mb   : Nat
  eb   : Nat
  bias : Nat
  spec : FSpec
  deriving DecidableEq, Repr

/-- The formats of R155. -/
def f32 : FFmt := ⟨23, 8, 127, .ieee⟩
/-- BF16. -/
def bf16 : FFmt := ⟨7, 8, 127, .ieee⟩
/-- IEEE 754 binary16. -/
def fp16 : FFmt := ⟨10, 5, 15, .ieee⟩
/-- E4M3. -/
def e4m3 : FFmt := ⟨3, 4, 7, .e4m3⟩
/-- E5M2. -/
def e5m2 : FFmt := ⟨2, 5, 15, .ieee⟩
/-- E2M1. -/
def e2m1 : FFmt := ⟨1, 2, 1, .none⟩
/-- E2M3. -/
def e2m3 : FFmt := ⟨3, 2, 1, .none⟩
/-- E3M2. -/
def e3m2 : FFmt := ⟨2, 3, 3, .none⟩

/-- The exponent of a format's smallest subnormal. -/
def FFmt.umin (f : FFmt) : Int := 1 - (f.bias : Int) - f.mb

/-- The largest finite magnitude code of a format. -/
def FFmt.maxCode (f : FFmt) : Nat :=
  match f.spec with
  | .ieee => (2 ^ f.eb - 1) * 2 ^ f.mb - 1
  | .e4m3 => 2 ^ (f.eb + f.mb) - 2
  | .none => 2 ^ (f.eb + f.mb) - 1

/-- The value of a code of a format. -/
def fDecode (f : FFmt) (v : Nat) : Fv :=
  let w := f.mb + f.eb
  let neg := v.testBit w
  let mag := v % 2 ^ w
  let ex := mag / 2 ^ f.mb
  let man := mag % 2 ^ f.mb
  if f.maxCode < mag then (if f.spec = .ieee ∧ man = 0 then .inf neg else .nan)
  else if ex = 0 then .fin neg man f.umin
  else .fin neg (2 ^ f.mb + man) (f.umin + (ex - 1 : Nat))

/-- The magnitude code to which m * 2^e rounds, possibly beyond the largest finite one: to nearest even, or
stochastically with the draw `rnd` (R175). -/
def roundCode (f : FFmt) (m : Nat) (e : Int) (rnd : Option Nat) : Nat :=
  if m = 0 then 0 else
  let u := max f.umin (Nat.log2 m + e - f.mb)
  let sh := u - e
  let n :=
    if sh ≤ 0 then m * 2 ^ (-sh).toNat
    else
      let k := sh.toNat
      let q := m / 2 ^ k
      let r := m % 2 ^ k
      let up := match rnd with
        | Option.none => decide (2 ^ k < 2 * r) || (decide (2 * r = 2 ^ k) && decide (q % 2 = 1))
        | some d => decide (d < r * 65536 / 2 ^ k)
      if up then q + 1 else q
  (u - f.umin).toNat * 2 ^ f.mb + n

/-- Whether m * 2^e lies above the largest finite value of a format. -/
def aboveMax (f : FFmt) (m : Nat) (e : Int) : Bool :=
  match fDecode f f.maxCode with
  | .fin _ m' e' =>
    let b := min e e'
    decide (m' * 2 ^ (e' - b).toNat < m * 2 ^ (e - b).toNat)
  | _ => false

/-- The canonical NaN of a format (R172). -/
def nanCode (f : FFmt) : Nat :=
  if f.mb = 23 then 0x7FC00000 else if f.mb = 7 then 0x7FC0 else if f.mb = 10 then 0x7E00 else 0x7F

/-- What a conversion gives: the code, and whether the result is of another kind than its input (R173). -/
structure Conv where
  code : Nat
  sat  : Bool
  deriving DecidableEq, Repr

/-- The result of an overflow or of an infinite value (R173). -/
def overCode (f : FFmt) (neg sat : Bool) : Nat :=
  let sgn := if neg then 2 ^ (f.mb + f.eb) else 0
  if sat || decide (f.spec = .none) then sgn + f.maxCode
  else if f.spec = .e4m3 then nanCode f else sgn + (f.maxCode + 1)

/-- Conversion of a value to a format (R172, R173, R175). -/
def fConvert (f : FFmt) (v : Fv) (rnd : Option Nat) (sat : Bool) : Conv :=
  match v with
  | .nan => ⟨nanCode f, false⟩
  | .inf neg => ⟨overCode f neg sat, sat || decide (f.spec ≠ .ieee)⟩
  | .fin neg m e =>
    let c := roundCode f m e rnd
    if f.maxCode < c || (rnd.isSome && aboveMax f m e) then ⟨overCode f neg sat, true⟩
    else ⟨(if neg then 2 ^ (f.mb + f.eb) else 0) + c, false⟩

/-- Rounding to FP32, to nearest even (R167, R171). -/
def toF32 (v : Fv) : BitVec 32 := BitVec.ofNat 32 (fConvert f32 v none false).code

/-- The value of an FP32 number. -/
def ofF32 (x : BitVec 32) : Fv := fDecode f32 x.toNat

/-- A positive power of two times an integer. -/
def fInt (i : Int) (e : Int) : Fv := .fin (decide (i < 0)) i.natAbs e

/-- The exact sum (R168). -/
def fAdd : Fv → Fv → Fv
  | .nan, _ => .nan
  | _, .nan => .nan
  | .inf a, .inf b => if a = b then .inf a else .nan
  | .inf a, _ => .inf a
  | _, .inf b => .inf b
  | .fin na ma ea, .fin nb mb eb =>
    let e := min ea eb
    let a : Int := (ma * 2 ^ (ea - e).toNat : Nat)
    let b : Int := (mb * 2 ^ (eb - e).toNat : Nat)
    let t := (if na then -a else a) + (if nb then -b else b)
    if t = 0 then .fin (na && nb) 0 0 else fInt t e

/-- The exact product (R168). -/
def fMul : Fv → Fv → Fv
  | .nan, _ => .nan
  | _, .nan => .nan
  | .inf a, .inf b => .inf (a != b)
  | .inf a, .fin b m _ => if m = 0 then .nan else .inf (a != b)
  | .fin a m _, .inf b => if m = 0 then .nan else .inf (a != b)
  | .fin a m e, .fin b m' e' => .fin (a != b) (m * m') (e + e')

/-- A value with its sign changed. -/
def fNeg : Fv → Fv
  | .nan => .nan
  | .inf a => .inf (!a)
  | .fin a m e => .fin (!a) m e

/-- The comparison of two numbers: less, equal, or greater; none where one is NaN. Zeros are equal. -/
def fCmp : Fv → Fv → Option Ordering
  | .nan, _ => none
  | _, .nan => none
  | .inf a, .inf b => some (if a = b then .eq else if a then .lt else .gt)
  | .inf a, _ => some (if a then .lt else .gt)
  | _, .inf b => some (if b then .gt else .lt)
  | .fin na ma ea, .fin nb mb eb =>
    let e := min ea eb
    let a : Int := (ma * 2 ^ (ea - e).toNat : Nat)
    let b : Int := (mb * 2 ^ (eb - e).toNat : Nat)
    some (compare (if na then -a else a) (if nb then -b else b))

/-- A quotient rounded once to FP32: enough quotient bits and a sticky bit (R202). -/
def fDiv32 (x y : BitVec 32) : BitVec 32 :=
  match ofF32 x, ofF32 y with
  | .nan, _ => 0x7FC00000
  | _, .nan => 0x7FC00000
  | .inf _, .inf _ => 0x7FC00000
  | .inf a, .fin b _ _ => toF32 (.inf (a != b))
  | .fin a _ _, .inf b => toF32 (.fin (a != b) 0 0)
  | .fin a m e, .fin b m' e' =>
    if m' = 0 then (if m = 0 then 0x7FC00000 else toF32 (.inf (a != b)))
    else
      let k := 80 + Nat.log2 m'
      let q := m * 2 ^ k / m'
      let r := m * 2 ^ k % m'
      toF32 (.fin (a != b) (2 * q + (if r = 0 then 0 else 1)) (e - e' - k - 1))

/-- FP32 addition, to nearest even (R233). -/
def add32 (x y : BitVec 32) : BitVec 32 := toF32 (fAdd (ofF32 x) (ofF32 y))

/-- FP32 multiplication. -/
def mul32 (x y : BitVec 32) : BitVec 32 := toF32 (fMul (ofF32 x) (ofF32 y))

/-- FP32 fused multiply-add, rounded once. -/
def fma32 (x y z : BitVec 32) : BitVec 32 := toF32 (fAdd (fMul (ofF32 x) (ofF32 y)) (ofF32 z))

/-- FP32 less-than, false where an operand is NaN. -/
def lt32 (x y : BitVec 32) : Bool := decide (fCmp (ofF32 x) (ofF32 y) = some .lt)

/-- Whether an FP32 number is a NaN. -/
def isNan32 (x : BitVec 32) : Bool := decide (ofF32 x = .nan)

/-- FMIN and FMAX order -0 below +0 and return the number where one operand is NaN (R233). -/
def minMax32 (max_ : Bool) (x y : BitVec 32) : BitVec 32 :=
  if isNan32 x && isNan32 y then 0x7FC00000
  else if isNan32 x then y else if isNan32 y then x
  else
    let less := lt32 x y ||
      (decide (fCmp (ofF32 x) (ofF32 y) = some .eq) && x.msb && !y.msb)
    if less != max_ then x else y

/-- An FP32 number as an integer, toward zero and saturating to `w` bits; NaN gives 0 (R233). -/
def f32ToInt (w : Nat) (x : BitVec 32) : Int :=
  let hi : Int := 2 ^ (w - 1) - 1
  let lo : Int := -(2 ^ (w - 1))
  match ofF32 x with
  | .nan => 0
  | .inf a => if a then lo else hi
  | .fin a m e =>
    let q : Int := if 0 ≤ e then (m * 2 ^ e.toNat : Nat) else (m / 2 ^ (-e).toNat : Nat)
    max lo (min hi (if a then -q else q))

/-! ## Functions within 2 units in the last place (R202, R234)

The lower neighbour `t` of the true magnitude among FP32 codes is computed; the result is a free choice among
codes that lie within 2 units of it. -/

/-- The working precision of the series, in bits after the point. -/
def fxBits : Nat := 256

/-- ln 2 times 2^256, truncated. -/
def fxLn2 : Nat := 0xB17217F7D1CF79ABC9E3B39803F2F6AF40F343267298B62D8A0D175B8BAAFA2B

/-- A magnitude m * 2^e in fixed point, truncated. -/
def fxOf (m : Nat) (e : Int) : Nat :=
  let k := e + fxBits
  if 0 ≤ k then m * 2 ^ k.toNat else m / 2 ^ (-k).toNat

/-- Sum of the exponential series of fixed-point `x` below 1: term `k` is `t`, `n` terms remain. -/
def fxExpSum (x t : Nat) (k : Nat) : Nat → Nat
  | 0 => t
  | n + 1 => t + fxExpSum x (t * x / 2 ^ fxBits / (k + 1)) (k + 1) n

/-- The exponential of a fixed-point number below 1, in fixed point. -/
def fxExp (x : Nat) : Nat := fxExpSum x (2 ^ fxBits) 0 70

/-- Sum of z^(2k+1)/(2k+1) in fixed point. -/
def fxAtanhSum (z2 t : Nat) (k : Nat) : Nat → Nat
  | 0 => t / (2 * k + 1)
  | n + 1 => t / (2 * k + 1) + fxAtanhSum z2 (t * z2 / 2 ^ fxBits) (k + 1) n

/-- ln y of a fixed-point y of at least 1 and below 2. -/
def fxLn (y : Nat) : Nat :=
  let z := (y - 2 ^ fxBits) * 2 ^ fxBits / (y + 2 ^ fxBits)
  2 * fxAtanhSum (z * z / 2 ^ fxBits) z 0 90

/-- The lower neighbour code of m * 2^e (truncation), and whether the value is that code exactly. -/
def floorCode (m : Nat) (e : Int) : Nat × Bool :=
  if m = 0 then (0, true) else
  let u := max f32.umin (Nat.log2 m + e - 23)
  let sh := u - e
  let n := if sh ≤ 0 then m * 2 ^ (-sh).toNat else m / 2 ^ sh.toNat
  let ex := decide (sh ≤ 0) || decide (m % 2 ^ sh.toNat = 0)
  ((u - f32.umin).toNat * 2 ^ 23 + n, ex)

/-- The FP32 number with the signed code `i`, clamped to the finite numbers. -/
def ofSigned (i : Int) : BitVec 32 :=
  let c := min i.natAbs f32.maxCode
  BitVec.ofNat 32 ((if i < 0 then 2 ^ 31 else 0) + c)

/-- A result within 2 units in the last place of a value of sign `neg` whose lower neighbour is `t`: `d`
chooses among the codes that certainly are (R234). -/
def near2 (neg : Bool) (t : Nat × Bool) (d : Nat) : BitVec 32 :=
  let off : Int := if t.2 then (d % 5 : Nat) - 2 else (d % 4 : Nat) - 1
  let c : Int := (t.1 : Int) + off
  ofSigned (if neg then -c else c)

/-- 2^(i + f) for fixed-point f below 1, as a lower neighbour; a value below the smallest subnormal gives 0. -/
def pow2Code (i : Int) (f : Nat) : Nat × Bool :=
  if f = 0 then floorCode 1 i
  else let c := floorCode (fxExp (f * fxLn2 / 2 ^ fxBits)) (i - fxBits); (c.1, false)

/-- EXP2 (R234). -/
def sfuExp2 (x : BitVec 32) (d : Nat) : BitVec 32 :=
  match ofF32 x with
  | .nan => 0x7FC00000
  | .inf a => if a then 0 else 0x7F800000
  | .fin a m e =>
    let v := fxOf m e
    if 2 ^ (fxBits + 9) ≤ v then (if a then 0 else 0x7F800000)
    else
      let w : Int := if a then -(v : Int) else v
      let i := w / 2 ^ fxBits
      let f := (w % 2 ^ fxBits).toNat
      if 128 ≤ i then 0x7F800000
      else
        let t := pow2Code i f
        if t.1 = 0 then 0 else near2 false t d

/-- exp(x) in FP32 within 2 units in the last place (R202). -/
def exp32 (x : BitVec 32) (d : Nat) : BitVec 32 :=
  match ofF32 x with
  | .nan => 0x7FC00000
  | .inf a => if a then 0 else 0x7F800000
  | .fin a m e =>
    let v := fxOf m e
    if v = 0 ∧ m = 0 then near2 false (0x3F800000, true) d
    else if 2 ^ (fxBits + 9) ≤ v then (if a then near2 false (0, false) (d % 3 + 1) else 0x7F800000)
    else
      let q := v * 2 ^ fxBits / fxLn2
      let w : Int := if a then -(q : Int) else q
      let i := w / 2 ^ fxBits
      if 128 ≤ i then 0x7F800000
      else
        let c := floorCode (fxExp ((w % 2 ^ fxBits).toNat * fxLn2 / 2 ^ fxBits)) (i - fxBits)
        near2 false (c.1, false) (if c.1 = 0 then d % 3 + 1 else d)

/-- LOG2 (R234). -/
def sfuLog2 (x : BitVec 32) (d : Nat) : BitVec 32 :=
  match ofF32 x with
  | .nan => 0x7FC00000
  | .inf a => if a then 0x7FC00000 else 0x7F800000
  | .fin a m e =>
    if m = 0 then 0xFF800000
    else if a then 0x7FC00000
    else
      let l := Nat.log2 m
      let y := m * 2 ^ (fxBits - l)
      let f := fxLn y * 2 ^ fxBits / fxLn2
      let w : Int := (l + e) * 2 ^ fxBits + f
      if m = 2 ^ l then near2 (decide (w < 0)) (floorCode w.natAbs (-(fxBits : Int))) d
      else near2 (decide (w < 0)) ((floorCode w.natAbs (-(fxBits : Int))).1, false) d

/-- RCP (R234). -/
def sfuRcp (x : BitVec 32) (d : Nat) : BitVec 32 :=
  match ofF32 x with
  | .nan => 0x7FC00000
  | .inf a => toF32 (.fin a 0 0)
  | .fin a m e =>
    if m = 0 then toF32 (.inf a)
    else
      let t := floorCode (2 ^ 160 / m) (-e - 160)
      if f32.maxCode < t.1 then toF32 (.inf a)
      else near2 a (t.1, t.2 && decide (2 ^ 160 % m = 0)) d

/-- The square root of m * 2^e as a lower neighbour, or of its reciprocal. -/
def rootCode (m : Nat) (e : Int) (recip : Bool) : Nat × Bool :=
  let (m, e) := if e % 2 = 0 then (m, e) else (2 * m, e - 1)
  if recip then
    let q := 2 ^ 320 / m
    let r := Nat.sqrt q
    let t := floorCode r (-(e / 2) - 160)
    (t.1, t.2 && decide (r * r = q) && decide (2 ^ 320 % m = 0))
  else
    let q := m * 2 ^ 200
    let r := Nat.sqrt q
    let t := floorCode r (e / 2 - 100)
    (t.1, t.2 && decide (r * r = q))

/-- RSQRT (R234). Its value at -0 is not stated: a free value. -/
def sfuRsqrt (x : BitVec 32) (d : Nat) : BitVec 32 :=
  match ofF32 x with
  | .nan => 0x7FC00000
  | .inf a => if a then 0x7FC00000 else 0
  | .fin a m e =>
    if m = 0 then (if a then BitVec.ofNat 32 d else 0x7F800000)
    else if a then 0x7FC00000 else near2 false (rootCode m e true) d

/-- SQRT (R234). -/
def sfuSqrt (x : BitVec 32) (d : Nat) : BitVec 32 :=
  match ofF32 x with
  | .nan => 0x7FC00000
  | .inf a => if a then 0x7FC00000 else 0x7F800000
  | .fin a m e =>
    if m = 0 then x else if a then 0x7FC00000 else near2 false (rootCode m e false) d

/-- TANH (R234): (y - 1) / (y + 1) with y the exponential of twice the magnitude. -/
def sfuTanh (x : BitVec 32) (d : Nat) : BitVec 32 :=
  match ofF32 x with
  | .nan => 0x7FC00000
  | .inf a => if a then 0xBF800000 else 0x3F800000
  | .fin a m e =>
    if m = 0 then near2 a (0, true) d
    else if Nat.log2 m + e < -12 then near2 a ((x.toNat % 2 ^ 31) - 1, false) d
    else if 4 ≤ Nat.log2 m + e then near2 a (0x3F7FFFFF, false) d
    else
      let q := 2 * fxOf m e * 2 ^ fxBits / fxLn2
      let y := fxExp (q % 2 ^ fxBits * fxLn2 / 2 ^ fxBits) * 2 ^ (q / 2 ^ fxBits)
      near2 a ((floorCode ((y - 2 ^ fxBits) * 2 ^ fxBits / (y + 2 ^ fxBits)) (-(fxBits : Int))).1, false) d

end Sys2Proof.Machine
end

