-- ==== Sys2Proof/Machine/Gate.lean ====
section
/-! DEFINITION. The gate unit (R195-R208): its tables, the settling of rows, dispatches and results, and
what discarding a step does to a session's gate rows. -/

namespace Sys2Proof.Machine

/-! ## Tables (R198-R200) -/

/-- Word `w` of entry `e` of gate table `t` (R199). -/
def gateWord (s : State) (t e w : Nat) : Word := tget 0 s.gate.entries (t * 1024 + 2 * e + w)

/-- LIVE of an entry. -/
def entLive (s : State) (t e : Nat) : Bool := bitOf (gateWord s t e 0) 63

/-- The capacity that a factor gives under table `t` (R200). -/
def capOf (s : State) (t capf : Nat) : Nat := (rf s .gateThdrt t 33 12 * capf + 63) / 64

/-- The capacity of expert `e` under table `t` (R200). -/
def gateCap (s : State) (t e : Nat) : Nat := capOf s t (fld (gateWord s t e 0) 54 8)

/-- The entry of expert `e` as the gate unit reads it (R199). -/
def readEntry (s : State) (t e : Nat) : GCand :=
  let w0 := gateWord s t e 0
  { expert := e, capf := fld w0 54 8, remote := bitOf w0 62, group := BitVec.ofNat 14 (fld w0 40 14),
    valley := BitVec.ofNat 32 (fld w0 0 32), rvh := BitVec.ofNat 32 (fld (gateWord s t e 1) 32 32) }

/-- The occupancy of an expert (R200). -/
def gateOcc (s : State) (e : Nat) : Nat := tget 0 s.gate.occ e

/-- An occupancy changed. -/
def setOcc (s : State) (e v : Nat) : State := { s with gate := { s.gate with occ := tput 0 s.gate.occ e v } }

/-- An expert group (R200). -/
def isExpertGroup (s : State) (g : Nat) : Bool :=
  let d := lgrp s g
  d.valid && !d.first && decide (d.next = 0x3FFF)

/-- XSPAN of a table (R198). -/
def xspan (s : State) (t : Nat) : Nat := rf s .gateThdrt t 23 10

/-- YSPAN of a table. -/
def yspan (s : State) (t : Nat) : Nat := rf s .gateThdrt t 13 10

/-- A gate notice (R519). -/
def gateNotice (s : State) (ev x : Nat) (h : BitVec 32) : State :=
  raiseT s 0x0061 (srcOf 13 0) (mkWord [(8, 8, ev), (0, 9, x)]) (BitVec.ofNat 64 h.toNat)

/-- The gate slots in use. -/
def setSlots (s : State) (l : List GSlot) : State := { s with gate := { s.gate with slots := l } }

/-- The unsettled slots that the device tracks: those dispatched (R207, GATE_STAT.OUTST). -/
def tracked (s : State) : Nat := (s.gate.slots.filter fun g => decide (g.st ≠ .waiting)).length

/-! ## Row blocks (R197) -/

/-- The device address of slot word `j` of a row block. -/
def slotAddr (rblk j : Nat) : Nat := rblk + 8 * j

/-- The device address of result slot `j`. -/
def yAddr (s : State) (t rblk j : Nat) : Nat := rblk + 0x80 + 64 * xspan s t + 64 * yspan s t * j

/-- Writes a word of a row block. -/
def gatePut (s : State) (a : Nat) (w : Word) : State := devWrite s a (wordBytes w) (gateAcc s)

/-- Reads a word that the gate unit uses; none where it is uncorrectable. -/
def gateGet (s : State) (a : Nat) : State × Option Word :=
  let (s, bs, bad) := devRead s a 8 (gateAcc s)
  (s, if bad.isSome then none else some (bytesWord bs))

/-- Writes a row's status word: SETTLED, ABANDONED (R197). -/
def putRowStatus (s : State) (rblk : Nat) (settled aband : Bool) : State :=
  gatePut s (rblk + 0x40) (mkWord [(63, 1, b2n settled), (62, 1, b2n aband)])

/-- A slot leaves the unsettled ones; the row settles when it was the last (R197). -/
def dropSlot (s : State) (g : GSlot) : State :=
  let s := setSlots s (s.gate.slots.filter fun x => x.tag ≠ g.tag)
  let s := if g.st = .waiting then s else setOcc s g.expert (gateOcc s g.expert - 1)
  if s.gate.slots.any fun x => x.rblk = g.rblk && x.pass = g.pass then s
  else countT (putRowStatus s g.rblk true g.aband) 0x118 0 1

/-- DONE is set in a slot's word (R205). -/
def markDone (s : State) (g : GSlot) : State :=
  let (s, w) := gateGet s (slotAddr g.rblk g.j)
  match w with
  | some v => gatePut s (slotAddr g.rblk g.j) (setBit v 30 true)
  | none => s

/-- A session that waits for expert results and has none outstanding becomes READY (R205). -/
def gateReady (s : State) (i : Nat) : State :=
  if (ses s i).st = .waiting && (ses s i).wait = .gate &&
      !(s.gate.slots.any fun g => g.sess = i && !g.aband) &&
      !(s.gate.reports.any fun id => s.ses.passes.any fun p => p.id = id && p.rows.any fun r => r.slot = i && r.live)
  then modSes s i fun x => { x with st := .ready, wait := .none, readyT := nowT s } else s

/-! ## Dispatch (R203, R204, R206, R208) -/

/-- The header of a remote dispatch (R206). -/
def dispatchHdr (s : State) (g : GSlot) : List Byte :=
  wordsBytes [mkWord [(32, 32, g.tag.toNat), (16, 16, devId s)],
    mkWord [(50, 14, g.group.toNat), (47, 3, g.cls.val), (38, 9, g.expert)],
    mkWord [(32, 32, g.rvh.toNat)],
    mkWord [(54, 10, xspan s g.table), (44, 10, yspan s g.table)], 0, 0, 0, 0]

/-- The valley end on which a remote slot can be dispatched; none where DVH is stale or closed, names an end
of another kind or consumer, or the packet breaks the 4 KiB limit of the subset (R208, R410). -/
def dispatchEnd (s : State) (g : GSlot) : Option Nat :=
  match endOfHandle s g.valley with
  | none => none
  | some v =>
    let e := vend s v
    if e.st = .closed ∨ e.kind ≠ 0 ∨ e.cons ≠ 1 ∨ (effLevel e < 3 ∧ 4096 < 64 + 64 * xspan s g.table) then none
    else some v

/-- A slot for the expert of an entry, as the entry was read. -/
def aimSlot (g : GSlot) (c : GCand) : GSlot :=
  { g with expert := c.expert, capf := c.capf, remote := c.remote, group := c.group, valley := c.valley, rvh := c.rvh }

/-- The state with a slot replaced by another of the same tag. -/
def putSlot (s : State) (g : GSlot) : State :=
  setSlots s (mapIf (fun x => decide (x.tag = g.tag)) (fun _ => g) s.gate.slots)

/-- LIVE := 0 of a slot's entry, with the gate notice of R208. -/
def killEntry (s : State) (g : GSlot) : State :=
  let k := g.table * 1024 + 2 * g.expert
  let s := { s with gate := { s.gate with
    entries := tput 0 s.gate.entries k (setBit (tget 0 s.gate.entries k) 63 false) } }
  gateNotice s 1 g.expert g.valley

/-- EXPERT of a slot's word becomes `e`: a slot that another candidate takes keeps its index and its weight (R201). -/
def putExpert (s : State) (g : GSlot) (e : Nat) : State :=
  let (s, w) := gateGet s (slotAddr g.rblk g.j)
  match w with
  | some v => gatePut s (slotAddr g.rblk g.j) (setFld v 16 9 e)
  | none => s

/-- Slots of one row of one pass (R197). -/
def sameRow (g x : GSlot) : Bool := x.pass = g.pass && x.rblk = g.rblk

/-- The spare candidates of a slot's row that none of the row's slots has taken (R201, R208). -/
def rowSpare (s : State) (g : GSlot) : List GCand :=
  match s.gate.slots.find? fun x => x.tag = g.tag with
  | some x => x.spare
  | none => g.spare

/-- Spare candidate `e` is taken by a slot of the row: it is a spare of none of them any more. -/
def dropSpare (s : State) (g : GSlot) (e : Nat) : State :=
  setSlots s (mapIf (sameRow g) (fun x => { x with spare := x.spare.filter (·.expert ≠ e) }) s.gate.slots)

/-- Spare candidate `c` takes the place of a slot's expert in the row's words, and is a spare no more. -/
def takeSpare (s : State) (g : GSlot) (c : GCand) : State := dropSpare (putExpert s g c.expert) g c.expert

/-- The spare candidate that a slot goes to when its dispatch cannot be made: the next with room, with true, else the
next (R208). The entries are those read when the row was settled (R199). -/
def nextSpare (s : State) (g : GSlot) : Option (GCand × Bool) :=
  match (rowSpare s g).find? fun c => decide (gateOcc s c.expert < capOf s g.table c.capf) with
  | some c => some (c, true)
  | none => (rowSpare s g).head?.map fun c => (c, false)

/-- A slot that spare candidate `c` takes. -/
def toSpare (s : State) (g : GSlot) (c : GCand) : GSlot :=
  { aimSlot { g with spare := (rowSpare s g).filter (·.expert ≠ c.expert) } c with st := .waiting }

/-- A slot that no spare candidate is left for: R208 names no outcome, and in the model it waits until its expert's entry is
LIVE again, and then goes by it (DESIGN CHOICE, assumption log 82). -/
def deadSlot (g : GSlot) : GSlot := { g with st := .waiting, remote := true, valley := 0 }

/-- Dispatches a slot to its expert (R204, R206); a remote dispatch that cannot be made goes to the next
spare candidate with room, else it waits on the next (R208). `n` bounds the spares tried. -/
def dispatchSlot (s : State) (g : GSlot) : Nat → State
  | 0 => putSlot s { g with st := .waiting }
  | n + 1 =>
    if 262144 ≤ tracked s then putSlot s { g with st := .waiting }
    else if !g.remote then
      let s := setOcc s g.expert (gateOcc s g.expert + 1)
      let s := putSlot s { g with st := .queued, arrive := nowT s, ord := s.gate.nextOrd }
      countT { s with gate := { s.gate with nextOrd := s.gate.nextOrd + 1 } } 0x119 0 1
    else
      match dispatchEnd s g with
      | some v =>
        let s := setOcc s g.expert (gateOcc s g.expert + 1)
        let s := putSlot s { g with st := .remote, sent := nowT s }
        let s := pushSend s v (.gate g.tag (dispatchHdr s g) (g.rblk + 0x80) (64 * xspan s g.table)) 0 false 0
        countT s 0x11A 0 1
      | none =>
        let s := killEntry s g
        match nextSpare s g with
        | some (c, true) => dispatchSlot (takeSpare s g c) (toSpare s g c) n
        | some (c, false) => putSlot (takeSpare s g c) (toSpare s g c)
        | none => putSlot s (deadSlot g)

/-- Dispatches the waiting slots whose expert has room, oldest first (R201), by what the experts' entries held when the rows
were settled (R199). A slot without any candidate goes by its expert's entry as it stands, once that is LIVE. -/
def wakeSlots (s : State) : State :=
  (s.gate.slots.filter fun g => decide (g.st = .waiting)).foldl (fun s g0 =>
    match s.gate.slots.find? fun x => x.tag = g0.tag && x.st = .waiting with
    | none => s
    | some g =>
      let dead := g.remote && g.valley == 0
      let g := if dead then aimSlot g (readEntry s g.table g.expert) else g
      if (!dead || entLive s g.table g.expert) && decide (gateOcc s g.expert < capOf s g.table g.capf)
      then dispatchSlot s g 16 else s) s

/-! ## Selection (R201, R202) -/

/-- The order of R201 on logits: descending, NaN below every number, ties to the lower expert. -/
def ranksBefore (a b : Nat × BitVec 32) : Bool :=
  if isNan32 a.2 then isNan32 b.2 && decide (a.1 < b.1)
  else if isNan32 b.2 then true
  else if lt32 b.2 a.2 then true
  else if lt32 a.2 b.2 then false else decide (a.1 < b.1)

/-- Insertion into a ranked list. -/
def rankInsert (x : Nat × BitVec 32) : List (Nat × BitVec 32) → List (Nat × BitVec 32)
  | [] => [x]
  | y :: l => if ranksBefore x y then x :: y :: l else y :: rankInsert x l

/-- What R201 selects for one row: the final set in slot order, each with its waiting mark, and the experts
that were replaced under NEXT. -/
def selectRow (s : State) (t : Nat) (cand : List (Nat × BitVec 32)) : List (Nat × Bool) × Nat :=
  let k := min (rf s .gateThdrt t 51 3 + 1) cand.length
  let es := cand.map Prod.fst
  let spill := if rbit s .gateThdrt t 48 then 0 else rf s .gateThdrt t 45 3
  (List.range k).foldl (fun x j =>
    let e := nth es j 0
    let sel := x.1.map Prod.fst ++ (es.take k).drop j
    if gateOcc s e < gateCap s t e then (x.1 ++ [(e, false)], x.2)
    else
      match ((es.drop k).take spill).find? fun c => !sel.contains c && decide (gateOcc s c < gateCap s t c) with
      | some c => (x.1 ++ [(c, false)], x.2 + 1)
      | none => (x.1 ++ [(e, true)], x.2)) ([], 0)

/-- The largest of some logits; none is NaN. -/
def maxLogit (ls : List (BitVec 32)) : BitVec 32 := ls.foldl (fun m l => minMax32 true m l) 0xFF800000

/-- exp(l - m) of each logit, each with a free draw (R202). -/
def expAll (s : State) (m : BitVec 32) (ls : List (BitVec 32)) : State × List (BitVec 32) :=
  ls.foldl (fun x l =>
    let (s, d) := takeFree x.1
    (s, x.2 ++ [exp32 (add32 l (m ^^^ 0x80000000)) (d.toNat % 20)])) (s, [])

/-- The weights of the final set (R202); a NaN among the terms makes them NaN. -/
def gateWeights (s : State) (t : Nat) (sel : List (BitVec 32)) (all live : List (BitVec 32)) :
    State × List (BitVec 32) :=
  let norm := rf s .gateThdrt t 49 2
  if norm = 2 then (s, sel)
  else
    let terms := if norm = 0 then sel else live
    let m := if norm = 0 then maxLogit sel else maxLogit all
    if terms.any isNan32 || sel.any isNan32 then (s, sel.map fun _ => 0x7FC00000) else
    let (s, es) := expAll s m sel
    let (s, ds) := if norm = 0 then (s, es) else expAll s m live
    let sum := ds.foldl add32 0
    (s, es.map fun e => fDiv32 e sum)

/-- Slot word j (R197). -/
def slotWord (w : BitVec 32) (e : Nat) : Word := mkWord [(32, 32, w.toNat), (31, 1, 1), (16, 9, e)]

/-- Settles one row (R201): `logits` the row's E logits. -/
def settleRow (s : State) (p : Pass) (row : PRow) (rblk t : Nat) (logits : List (BitVec 32)) : State :=
  let n := logits.length
  let live := (List.range n).filter (entLive s t)
  let at_ := fun (e : Nat) => nth logits e 0
  let cand := (live.map fun e => (e, at_ e)).foldl (fun l x => rankInsert x l) []
  let (sel, repl) := selectRow s t cand
  let (s, ws) := gateWeights s t (sel.map fun x => at_ x.1) logits (live.map at_)
  let words := (sel.zip ws).map (fun x => slotWord x.2 x.1.1) ++ List.replicate (8 - sel.length) 0
  let s := devWrite s rblk (wordsBytes words) (gateAcc s)
  let s := countT (countT s 0x11B 0 repl) 0x11C 0 (sel.filter Prod.snd).length
  let spill := (((cand.map Prod.fst).drop (min (rf s .gateThdrt t 51 3 + 1) cand.length)).take
    (rf s .gateThdrt t 45 3)).filter fun c => !(sel.map Prod.fst).contains c
  let spare := spill.map (readEntry s t)
  if sel.isEmpty then countT (putRowStatus s rblk true false) 0x118 0 1
  else
    let x := ses s row.slot
    let mk := fun (tag j e : Nat) => aimSlot {
      tag := BitVec.ofNat 32 tag, pass := p.id, rblk := rblk, j := j, expert := e, table := t, sess := row.slot,
      handle := row.handle, cls := x.cls, st := .waiting, spare := spare } (readEntry s t e)
    let tag0 := s.gate.nextTag.toNat
    let gs := (List.range sel.length).map fun j => mk (tag0 + j) j (nth sel j (0, false)).1
    let s := { s with gate := { s.gate with
      slots := s.gate.slots ++ gs, nextTag := s.gate.nextTag + BitVec.ofNat 32 sel.length } }
    (gs.zip sel).foldl (fun s y =>
      if y.2.2 then s else dispatchSlot s ((s.gate.slots.find? fun x => x.tag = y.1.tag).getD y.1) 16) s

/-! ## Discarding a step (R101, R208) -/

/-- A session's gate rows when its step is discarded (R208): waiting slots are removed, remote ones abandoned,
queued and running local ones stay until their pass reports; ABANDONED is set. -/
def abandonRows (s : State) (i : Nat) : State :=
  let mine := s.gate.slots.filter fun g => decide (g.sess = i) && !g.aband
  let stay := fun (g : GSlot) => decide (g.st = .queued ∨ g.st = .inPass)
  let s := setSlots s (mapIf (fun g => decide (g.sess = i)) (fun g => { g with aband := true }) s.gate.slots)
  let s := (mine.filter fun g => !stay g).foldl (fun s g => dropSlot s { g with aband := true }) s
  (mine.filter stay).foldl (fun s g => putRowStatus s g.rblk false true) s

/-- An uncommitted step of slot `i` is discarded (R101); the waiting slots of others may now have room. -/
def discardSession (s : State) (i : Nat) : State :=
  if inStep (ses s i) then wakeSlots (abandonRows (dropRows (rollback s i) i) i) else s

/-- Discards the steps of every session that still has rows in a pass (R120). -/
def discardRows (s : State) (p : Pass) : State :=
  (p.rows.filter fun r => r.live && decide (r.handle ≠ 0)).foldl (fun s r =>
    if sesHandle s r.slot = r.handle then discardSession s r.slot else s) s

/-! ## Results (R205-R207) -/

/-- The inbox slot `i`'s address (R207, R209). -/
def inboxAddr (s : State) (i : Nat) : Nat := rf s .gateIbase 0 6 34 * 64 + i * (rf s .gateIctl 0 0 12 * 64)

/-- Sends a return packet on a valley (R206); nothing where the handle is no longer good. -/
def sendReturn (s : State) (rvh tag : BitVec 32) (status : Nat) (y : List Byte) : State :=
  match endOfHandle s rvh with
  | none => s
  | some v =>
    let hdr := mkWord [(32, 32, tag.toNat), (24, 8, status)]
    if (vend s v).st = .closed then s
    else pushSend s v (.bytes (wordBytes hdr ++ List.replicate 56 0 ++ y)) 0 false 0

/-- An expert pass has reported for one row (R205). Whether DONE is set in the slot of a local row that is abandoned (R197,
R208) no rule says; the model leaves it 0 (DESIGN CHOICE, assumption log 83). -/
def expertRow (s : State) (failed : Bool) (r : PRow) : State :=
  match r.inbox with
  | some b =>
    let x := tget { tag := 0, rvh := 0, egrp := 0, expert := 0, cls := 0, xspan := 0, yspan := 0, arrive := 0 }
      s.gate.inbox b
    let (s, y, bad) := devRead s (inboxAddr s b + 0x80 + 64 * x.xspan) (64 * x.yspan) (gateAcc s)
    let s := if failed || bad.isSome then sendReturn s x.rvh x.tag 1 [] else sendReturn s x.rvh x.tag 0 y
    { s with gate := { s.gate with inbox := s.gate.inbox.filter fun e => e.1 ≠ b } }
  | none =>
    match s.gate.slots.find? fun g => some g.tag = r.tag with
    | none => s
    | some g =>
      if failed then
        let s := if g.aband then s else discardSession s g.sess
        dropSlot s { g with aband := true }
      else if g.aband then dropSlot s g
      else gateReady (dropSlot (markDone s g) g) g.sess

/-- A remote slot's return says FAILED, or never came, or its valley closed: the slot is abandoned and the
session's step discarded (R208). -/
def failSlot (s : State) (g : GSlot) : State :=
  if sesHandle s g.sess = g.handle ∧ inStep (ses s g.sess) = true then discardSession s g.sess
  else wakeSlots (dropSlot s { g with aband := true })

/-- The slots outstanding on a valley that closes are abandoned (R208). -/
def failValleySlots (s : State) (h : BitVec 32) : State :=
  (s.gate.slots.filter fun g => g.st = .remote ∧ g.valley = h).foldl (fun s g =>
    if s.gate.slots.any fun x => x.tag = g.tag then failSlot s g else s) s

/-- A dispatch that cannot be made after all (a REFUSED return, a send dropped at a port of the subset):
LIVE := 0 and the slot goes to a spare candidate (R208); the expert's occupancy has fallen. -/
def redirectSlot (s : State) (g : GSlot) : State :=
  let s := killEntry (setOcc s g.expert (gateOcc s g.expert - 1)) g
  wakeSlots (match nextSpare s g with
    | some (c, true) => dispatchSlot (putSlot (takeSpare s g c) (toSpare s g c)) (toSpare s g c) 16
    | some (c, false) => putSlot (takeSpare s g c) (toSpare s g c)
    | none => putSlot s (deadSlot g))

end Sys2Proof.Machine
end

