-- ==== Sys2Proof/Machine/Recovery.lean ====
section
/-! DEFINITION. Passes as their rafters report them (R84, R120, R205, R210, R213), and what faults and
freezes do to sessions, valleys, rafters and bays (R101, R131, R415, R432-R458). -/

namespace Sys2Proof.Machine

/-- The highest of the signed 16-bit fields at bit `lo` of some registers. -/
def hottest (ws : List Word) (lo : Nat) : Int :=
  match ws.map fun w => sext 16 (fld w lo 16) with
  | [] => 0
  | t :: l => l.foldl max t

/-- A signed number as a 16-bit field. -/
def tempField (t : Int) : Nat := (BitVec.ofInt 16 t).toNat

/-- Words 3-5 of a fault record: power and the highest temperatures as they stand (R365). -/
def recordSnap (s : State) (f : FRec) : FRec :=
  let stat := fun (q : Nat) => rg s .thmqStat q
  let die := fun (d : Nat) => tempField (hottest ((List.range 16).map fun k => stat (16 * d + k)) 48)
  { f with
    w3 := mkWord [(48, 16, rf s .pwrBus 0 16 16), (32, 16, rf s .pwrBus 0 48 16), (16, 16, rf s .pwrFeedf 0 40 16),
      (0, 16, rf s .pwrFeedf 1 40 16)],
    w4 := mkWord [(0, 16, die 0), (16, 16, die 1), (32, 16, die 2), (48, 16, die 3)],
    w5 := mkWord [(48, 16, tempField (hottest ((List.range 16).map fun k => stat (64 + k)) 48)),
      (32, 16, tempField (hottest [stat 80] 48)),
      (16, 16, tempField (hottest ((List.range 8).map fun k => rg s .hkValn (328 + k)) 0))] }

/-- A record for the flash fault log (R364, R365). -/
def logFault (s : State) (f : FRec) : State :=
  { s with flash := { s.flash with waiting := s.flash.waiting ++ [recordSnap s f] } }

/-- The record of a shutdown or of the bus's collapse: it follows the one already being programmed (R363). -/
def logNext (s : State) (f : FRec) : State :=
  { s with flash := { s.flash with waiting := s.flash.waiting.take 1 ++ [recordSnap s f] ++ s.flash.waiting.drop 1 } }

/-! ## Placement (R371, R438) -/

/-- A group is blocked (R438): its mask names a rafter without a stand-in. -/
def groupBlocked (s : State) (g : Nat) : Bool :=
  s.bat.blocked.any fun n => (lgrp s g).rafters.getLsbD n

/-- Moves what a placement pair moves from group `src` to `dst` (R371): sessions between steps, at most `most`
in ascending slot order, or gate entries. The numbers are the sessions moved and the entries rewritten. -/
def movePair (s : State) (kind : Bool) (src dst most : Nat) : State × Nat × Nat :=
  if kind then
    let hits := s.gate.entries.filter fun e => e.1 % 2 = 0 && bitOf e.2 63 && !bitOf e.2 62 && fld e.2 40 14 = src
    ({ s with gate := { s.gate with
        entries := hits.foldl (fun t e => tput 0 t e.1 (setFld e.2 40 14 dst)) s.gate.entries } }, 0, hits.length)
  else
    let free := (usedSlots s).filter fun i =>
      let x := ses s i
      decide (x.start.toNat = src) &&
        (decide (x.st = .open ∨ x.st = .parked) || (decide (x.st = .ready) && decide (x.lgrp = x.start)))
    let go := free.take most
    (go.foldl (fun s i => modSes s i fun x => { x with
        start := BitVec.ofNat 14 dst, lgrp := if x.st = .ready then BitVec.ofNat 14 dst else x.lgrp }) s,
      go.length, 0)

/-- A placement pair of the table (R370). -/
def plPair (s : State) (k : Nat) : Word := tget 0 s.bat.pltab k

/-- The placement notice of a round that moved something (R371, R519). -/
def placeNotice (s : State) (moved rewritten : Nat) : State :=
  if moved = 0 ∧ rewritten = 0 then s
  else raiseT s 0x0062 (srcOf 14 0) (mkWord [(16, 16, moved), (0, 16, rewritten)])

/-- Enabled pairs with exactly one blocked group take effect at once (R438), on what they can move; this is looked at whenever
a group becomes blocked or free, and whenever a session comes between steps (assumption log 81). -/
def placeBlocked (s : State) : State :=
  if s.bat.blocked.isEmpty then s else
  let (s, m, w) := (List.range 256).foldl (fun x k =>
    let s := x.1
    let v := plPair s k
    let a := fld v 48 14
    let b := fld v 34 14
    if bitOf v 63 && groupBlocked s a != groupBlocked s b then
      let (src, dst) := if groupBlocked s a then (a, b) else (b, a)
      let (s, m, w) := movePair s (bitOf v 62) src dst 1048576
      (s, x.2.1 + m, x.2.2 + w)
    else x) (s, 0, 0)
  placeNotice s m w

/-! ## Session outcomes (R84, R443-R445) -/

/-- A session ends (R84): its uncommitted step is discarded, DONE with CLOSED and a session-lost notice. -/
def endSession (s : State) (i : Nat) : State :=
  let x := ses s i
  if x.st = .free ∨ x.st = .closing then s else
  let s := discardSession s i
  let s := lostSession (doneComp s i 0x0B) (sesHandle s i).toNat 0
  giveHot (beginClosing s i).1

/-- A session's entry is lost: the slot leaves AVAIL until device reset, and no completion is written
(R84, R445). -/
def loseEntry (s : State) (i : Nat) : State :=
  if (ses s i).st = .free then modSes s i fun x => { x with out := true } else
  let s := dropRows (abandonRows s i) i
  let s := freeSession s i
  wakeSlots (giveHot (modSes s i fun x => { x with out := true }))

/-- A session moves to a new slot (R442): MIG_OUT under the old handle, MIG_IN under the new; where no slot
is free it ends. -/
def moveSession (s : State) (i : Nat) : State :=
  match freeSlot s with
  | none => endSession s i
  | some j =>
    let x := ses s i
    let s := sesComp s i 0x05 0x0C
    let gen := (ses s j).gen
    let s := freeSession (modSes s i fun x => { x with times := [] }) i
    let s := setSes s j { x with gen := gen, move := false }
    let s := setSlots s (s.gate.slots.map fun g =>
      if g.sess = i then { g with sess := j, handle := sesHandle s j } else g)
    let s := (x.pages.zip (List.range x.pages.length)).foldl
      (fun s p => devWrite s (plistAddr s j + 4 * p.2) (natBytes p.1 4) (sesAcc s)) s
    putComp s {
      ring := x.ring, kind := 0x04, status := 0, handle := sesHandle s j, time := nowT s,
      w1 := mkWord [(32, 32, x.pos.toNat), (0, 32, x.counted)], w2 := BitVec.ofNat 64 (devId s) }

/-- The slots in use whose entry lies in bay `b`. -/
def bayUsers (s : State) (b : Nat) : List Nat := (usedSlots s).filter fun i => slotBay i = b

/-- A hot page has a block in bay `b`. -/
def hotIn (b : Nat) (p : BitVec 17) : Bool := (pageBays p.toNat).contains b

/-- The sessions that hold a hot page with a block in bay `b`, the copies of filled pages among them. -/
def hotUsers (s : State) (b : Nat) : List Nat :=
  (usedSlots s).filter fun i => (ses s i).hot.any (hotIn b) || (ses s i).olds.any (hotIn b)

/-- The sessions that were to move at their next commit point, and whose step has been discarded, move at once (R84). -/
def moveFlagged (s : State) : State :=
  ((usedSlots s).filter fun i => (ses s i).move && decide ((ses s i).st = .ready ∧ (ses s i).lgrp = (ses s i).start)).foldl
    moveSession s

/-- What follows the discard of steps: hot pages given up go to others (R89), sessions that are to move do (R84), and those
of blocked groups go where a placement pair sends them (R438). -/
def afterDiscard (s : State) : State := placeBlocked (moveFlagged (giveHot s))

/-- The steps of a pass's sessions are discarded (R101, R120). -/
def discardPass (s : State) (p : Pass) : State := afterDiscard (discardRows s p)

/-! ## Group completion (R84, R210, R213) -/

/-- The group reached by following NEXT `n` times, never past the last (R210). -/
def followNext (s : State) (g : BitVec 14) : Nat → BitVec 14
  | 0 => g
  | n + 1 => if (lgrp s g.toNat).next = 0x3FFF then g else followNext s (lgrp s g.toNat).next n

/-- The bay-space address of the report area of rafter `n`'s batch slot `b` (R195). -/
def areaOff (s : State) (b : Nat) : Nat := rf s .gateRaoff 0 12 13 * 4096 + b * 0x9000

/-- The device address of offset `o` of a report area: it is walked within its bay. -/
def areaAddr (s : State) (n b o : Nat) : Nat := bayAddr n (areaOff s b + o)

/-- Row result words of a session's rows (R213). -/
def resultWords (s : State) (p : Pass) (r : PRow) : State × List Word :=
  (List.range r.nrows).foldl (fun x k =>
    let (s, bs, _) := devRead x.1 (areaAddr x.1 p.rep p.repSlot (0x80C0 + 8 * (r.rowIx + k))) 8 (sesAcc x.1)
    (s, x.2 ++ [bytesWord bs])) (s, [])

/-- The tokens a step generated, cut after STOPTOK (R213). -/
def cutStop (stop : BitVec 32) : List (BitVec 32) → List (BitVec 32)
  | [] => []
  | t :: l => if stop ≠ 0xFFFFFFFF ∧ t = stop then [t] else t :: cutStop stop l

/-- The result of a step whose last group has completed (R213): `ended`, with what it took and generated. -/
def stepResult (s : State) (p : Pass) (r : PRow) : State :=
  let (s, ws) := resultWords s p r
  let x := ses s r.slot
  let tok := fun (w : Word) => BitVec.ofNat 32 (fld w 32 32)
  if x.pend ≠ 0 then
    let left := decide (x.nrows < x.pend.toNat)
    let g := if left then [] else [tok (nth ws (x.nrows - 1) 0)]
    modSes s r.slot fun x => { x with ended := true, took := x.nrows, gened := g }
  else
    let raw := fld (nth ws 0 0) 27 5
    let n := min (max raw 1) x.nrows
    let s := if raw = n then s else
      raiseT s 0x0063 (srcOf 14 0) (mkWord [(32, 32, r.handle.toNat), (0, 5, raw)])
    modSes s r.slot fun x => { x with ended := true, took := 0, gened := cutStop x.stoptok ((ws.take n).map tok) }

/-- A layer group is complete for one session of a pass (R84, R210). A last group (NEXT 0x3FFF) with OUTSIDE = 1 fits two
rows of R84; the model lets the session commit, without a wait (assumption log 59). -/
def groupDone (s : State) (p : Pass) (r : PRow) : State :=
  let d := lgrp s p.group.toNat
  if !r.live || sesHandle s r.slot ≠ r.handle then s
  else if d.next = 0x3FFF then stepResult s p r
  else
    let asked := (List.range r.nrows).all fun k => bitOf p.skip (r.rowIx + k)
    let n := if asked then fld p.skip 44 4 else 0
    let g := followNext s d.next n
    modSes s r.slot fun x =>
      if d.outside then { x with st := .waiting, lgrp := g, wait := if d.kind = 4 then .gate else .release }
      else { x with st := .ready, lgrp := g, readyT := nowT s }

/-- The state with pass `p` replaced. -/
def putPass (s : State) (p : Pass) : State :=
  { s with ses := { s.ses with passes := mapIf (fun q => decide (q.id = p.id)) (fun _ => p) s.ses.passes } }

/-- The state without pass `id`. -/
def dropPass (s : State) (id : Nat) : State :=
  { s with ses := { s.ses with passes := s.ses.passes.filter fun q => q.id ≠ id } }

/-- Batch slot `b` of rafter `n` holds no pass, where it held pass `num`. -/
def freeBatch (s : State) (n b : Nat) (num : BitVec 32) : State :=
  modRaf s n fun r =>
    if b = 0 then (if r.slot0 = some num then { r with slot0 := none } else r)
    else (if r.slot1 = some num then { r with slot1 := none } else r)

/-- RAFSUB_SHADOW clears once no pass dispatched to a thawed rafter's stand-in remains (R440). -/
def clearShadows (s : State) : State :=
  let serving := s.bat.swaps.map fun w => w.2.1
  (idxs 256 fun n => rbit s .rafnShadow n 63 && !serving.contains n &&
      !(s.ses.passes.any fun p => p.targets.any fun t => t.1 = n)).foldl
    (fun s n => rgSet s .rafnShadow n 0 0) s

/-- The sessions that are bound to a fault or a freeze (R433): those of the local rows of an expert pass that it made fail and
that has not been reported by all of its rafters. -/
def boundSlots (s : State) : List Nat :=
  let tags := (s.ses.passes.filter (·.bound)).flatMap fun p => p.rows.filterMap (·.tag)
  ((s.gate.slots.filter fun g => !g.aband && tags.contains g.tag).map (·.sess)).dedup

/-- A fault or a freeze is being recovered from (R449): SES_STAT.RECOVERING is set. -/
def startRecovery (s : State) : State := rfSet s .sesStat 0 62 1 1

/-- SES_STAT.RECOVERING clears once no session is bound and no takeover goes on; swaps and route changes are complete within
the command that makes them (R449). -/
def endRecovery (s : State) : State :=
  if (boundSlots s).isEmpty && !(s.eaves.any fun e => e.2.takeover) then rfSet s .sesStat 0 62 1 0 else s

/-- All rafters of a pass have reported (R84, R205): a GATE pass waits for the gate unit, with the reporting
rafter's batch slot kept (R201). -/
def finishPass (s : State) (p : Pass) : State :=
  let gate := decide ((lgrp s p.group.toNat).kind = 4)
  if p.expert then
    afterDiscard (wakeSlots (p.rows.foldl (fun s r => expertRow s p.failed r) (dropPass s p.id)))
  else if p.failed then
    let s := dropPass s p.id
    if gate && (raf s p.rep).st ≠ .frozen then freeBatch s p.rep p.repSlot p.repNum else s
  else
    let s := if gate then { s with gate := { s.gate with reports := s.gate.reports ++ [p.id] } }
      else dropPass s p.id
    p.rows.foldl (fun s r => groupDone s p r) s

/-- Rafter `n` reports pass `id`, good or failed (R120). -/
def reportPass (s : State) (id n : Nat) (failed : Bool) (skip : Word) : State :=
  match s.ses.passes.find? fun p => p.id = id with
  | none => s
  | some p =>
    let p' := { p with
      targets := p.targets.filter fun t => t.1 ≠ n, failed := p.failed || failed,
      skip := if p.rep = n then skip else p.skip }
    let s := putPass s p'
    let s := if failed && !p.failed && !p.expert then discardPass s p' else s
    if p'.targets.isEmpty then
      let s := clearShadows (finishPass s p')
      if p.bound then endRecovery s else s
    else s

/-- Every pass on rafter `n`, running or queued, is reported failed (R434); where `n` is a reporting rafter its RAFn_SKIP is
cleared (R210). -/
def failPasses (s : State) (n : Nat) : State :=
  let s := if s.ses.passes.any fun p => p.rep = n && p.targets.any fun t => t.1 = n then rgSet s .rafnSkip n 0 0 else s
  let mine := fun (p : Pass) => p.targets.any fun t => t.1 = n
  let s := { s with ses := { s.ses with passes := mapIf mine (fun p => { p with bound := p.bound || p.expert }) s.ses.passes } }
  (s.ses.passes.filter mine).foldl (fun s p => reportPass s p.id n true 0) s

/-! ## Stand-ins (R437-R440) -/

/-- Rafter `n` has frozen or is being retired: its stand-in takes its place in every descriptor that names it,
or its groups are blocked, with one notice (R438). A frozen rafter that is retired keeps the stand-in it has. -/
def standIn (s : State) (n : Nat) : State :=
  if s.bat.swaps.any fun w => w.1 = n then s else
  let v := tget 0 s.bat.sitab n
  let sub := fld v 48 8
  let ok := bitOf v 63 && !retired s sub && decide ((raf s sub).st ≠ .frozen ∧ (raf s sub).st ≠ .retired) &&
    !rbit s .rafnShadow sub 63
  if ok then
    let hits := (s.ses.lgt.filter fun d => d.2.rafters.getLsbD n).map Prod.fst
    let fix := fun (d : LGroup) => { d with
      rafters := (d.rafters &&& ~~~(1#256 <<< n)) ||| (1#256 <<< sub) }
    let s := { s with
      ses := { s.ses with lgt := hits.foldl (fun t g => tput {} t g (fix (tget {} t g))) s.ses.lgt },
      bat := { s.bat with swaps := s.bat.swaps ++ [(n, sub, hits)], blocked := s.bat.blocked.filter (· ≠ n) } }
    let for_ := if rbit s .rafnShadow n 63 then rf s .rafnShadow n 0 8 else n
    placeBlocked (rgSet s .rafnShadow sub 0 (mkWord [(63, 1, 1), (0, 8, for_)]))
  else if s.bat.blocked.contains n then s
  else
    let s := { s with bat := { s.bat with blocked := s.bat.blocked ++ [n] } }
    placeBlocked (raiseT s 0x0071 (srcOf 1 n) (mkWord [(0, 8, if bitOf v 63 then sub else 0xFF)]))

/-- The rafters that stand in for `n`, the nearest first: a stand-in may have one of its own (R438). -/
def swapChain (sw : List (Nat × Nat × List Nat)) (n : Nat) : Nat → List Nat
  | 0 => []
  | f + 1 => match sw.find? fun w => w.1 = n with
    | none => []
    | some w => w.2.1 :: swapChain sw w.2.1 f

/-- THAW of rafter `n` reverses its swap for every descriptor that it changed, wherever a stand-in's own stand-in has
taken it since, or unblocks its groups (R438, R440). -/
def undoSwap (s : State) (n : Nat) : State :=
  let s := { s with bat := { s.bat with blocked := s.bat.blocked.filter (· ≠ n) } }
  match s.bat.swaps.find? fun w => w.1 = n with
  | none => placeBlocked s
  | some w =>
    let chain := swapChain s.bat.swaps n 256
    let subs : BitVec 256 := chain.foldl (fun m k => m ||| (1#256 <<< k)) 0
    let fix := fun (d : LGroup) =>
      if d.rafters &&& subs = 0 then d else { d with rafters := (d.rafters &&& ~~~subs) ||| (1#256 <<< n) }
    placeBlocked <| clearShadows { s with
      ses := { s.ses with lgt := w.2.2.foldl (fun t g => tput {} t g (fix (tget {} t g))) s.ses.lgt },
      bat := { s.bat with swaps := s.bat.swaps.filter fun w => w.1 ≠ n && !chain.contains w.1 } }

/-! ## Freezing a rafter (R131, R135, R434) -/

/-- What freezing does inside the rafter (R135): the sequencer stops, queued slate commands are discarded,
yealm slots stop (R224), and reads that these await are waited for no more. -/
def freezeIn (r : Rafter) (cause : Nat) : Rafter :=
  { r with
    st := .frozen, cause := BitVec.ofNat 8 cause, wait := .none, sweep := none,
    scmds := r.scmds.filter (·.started), reads := r.reads.filter fun q => match q.src with | .chan _ => true | _ => false,
    ys := (List.range 16).foldl (fun t y =>
      let x := tget {} t y
      if x.st = .run ∨ x.st = .trapped then tput {} t y { x with st := .stopped } else t) r.ys }

/-- What retirement does inside the rafter (R136, R224): everything is left in place. -/
def retireIn (r : Rafter) : Rafter := { r with st := .retired, wait := .none, sweep := none }

/-- A rafter freezes (R434, R449): the freeze notice, its passes reported failed, its stand-in swap. -/
def freezeRafter (s : State) (n cause : Nat) : State :=
  let s := modRaf (startRecovery s) n fun r => freezeIn r cause
  let s := raiseT s 0x0070 (srcOf 1 n) (mkWord [(8, 8, cause)])
  endRecovery (standIn (failPasses s n) n)

/-! ## Migration at the target (R84, R102, R453) -/

/-- The data of a packet in a ring cannot be read now, and the packet stays where it is (R302, R315, R321). -/
def packetHeld (s : State) (v : Nat) (p : VRing) (acc : Acc) : Bool :=
  let e := vend s v
  let size := 2 ^ e.rxlog2
  let a := (p.off + 64) % size
  let k := min p.size (size - a)
  rangeHeld s (e.rxbase + a) k acc.cls || rangeHeld s e.rxbase (p.size - k) acc.cls

/-- The oldest packet of an end's ring that no consumer has taken. -/
def nextPacket (s : State) (v : Nat) : Option VRing := (vend s v).ring.find? fun p => !p.taken

/-- The data of a packet in a ring (R411). -/
def packetData (s : State) (v : Nat) (p : VRing) (acc : Acc) : State × List Byte × Option Nat :=
  let e := vend s v
  let size := 2 ^ e.rxlog2
  let a := (p.off + 64) % size
  let k := min p.size (size - a)
  let (s, b1, bad1) := devRead s (e.rxbase + a) k acc
  let (s, b2, bad2) := devRead s e.rxbase (p.size - k) acc
  (s, b1 ++ b2, bad1.or bad2)

/-- The session of this device that arrives over end `v`. -/
def arrivingOn (s : State) (v : Nat) : Option Nat :=
  (usedSlots s).find? fun i => decide ((ses s i).st = .migrating ∧ (ses s i).back = .free ∧ (ses s i).aux = endHandle s v)

/-- A reply of the target: R102 gives neither its size nor its content. -/
def migReply (s : State) (v : Nat) : State :=
  let (s, d) := takeFree s
  let (s, bs) := freeBytes s (1 + d.toNat % 8)
  pushSend s v (.bytes bs) 0 false 0

/-- The session that a migration header describes, at the target (R82, R102). Its last token is not in the header. -/
def headerSession (gen : BitVec 12) (ring : Fin 16) (h : BitVec 32) (last : BitVec 32) (ws : List Word) : Session :=
  let w := fun k => nth ws k 0
  { gen := gen, st := .migrating, cls := Fin.ofNat 8 (fld (w 0) 45 3), ring := ring,
    lgrp := BitVec.ofNat 14 (fld (w 0) 27 14), start := BitVec.ofNat 14 (fld (w 0) 13 14),
    pos := BitVec.ofNat 32 (fld (w 1) 32 32), budget := BitVec.ofNat 32 (fld (w 1) 0 32),
    cseq := BitVec.ofNat 32 (fld (w 2) 32 32), pend := BitVec.ofNat 32 (fld (w 2) 0 32), aux := h,
    every := BitVec.ofNat 8 (fld (w 4) 24 8), since := BitVec.ofNat 8 (fld (w 4) 16 8),
    temp := BitVec.ofNat 16 (fld (w 5) 48 16), topk := BitVec.ofNat 8 (fld (w 5) 40 8),
    topp := BitVec.ofNat 8 (fld (w 5) 32 8), stoptok := BitVec.ofNat 32 (fld (w 5) 0 32), readyT := w 6, dest := w 7,
    last := last, back := .free, migRing := ring }

/-- The header of a migration: a slot and the pages it needs are taken, or the target refuses (R102). A session whose pages
exceed the target's own SES_KVMAX.MAXP is refused like one for which pages are short: R102 names no outcome for it, and
this is the model's choice (assumption log 73). -/
def migHeader (s : State) (v : Nat) (bs : List Byte) : State :=
  let ws := bytesWords bs 8
  let need := fld (nth ws 3 0) 0 32
  match (if s.ses.hbmLost then none else freeSlot s) with
  | none => migReply s v
  | some i =>
    if kvFree s < need ∨ rf s .sesKvmax 0 0 13 < need then migReply s v
    else
      let (s, d) := takeFree s
      let x := headerSession (ses s i).gen ((vend s v).opener.getD 0) (endHandle s v) (BitVec.ofNat 32 (fld d 0 32)) ws
      takePages (setSes s i x) i need

/-- A page chunk: it is written to the page it names. Chunks count while they come in the order of R102. -/
def migChunk (s : State) (i : Nat) (bs : List Byte) (bad : Bool) : State :=
  let p := bytesNat (bs.take 4)
  let o := bytesNat ((bs.drop 4).take 4)
  let data := bs.drop 64
  let x := ses s i
  if bad ∨ x.migPages ≠ 65536 * p + o ∨ x.pages.length ≤ p ∨ 65536 < o + data.length then s
  else
    let s := devWrite s (pageAddr s (nth x.pages p 0) + o) data (sesAcc s)
    modSes s i fun x => { x with migPages := x.migPages + data.length }

/-- The final commit record `bs` of session `i`, which arrives over end `v` (R102): it is checked against what has come. The
target takes the session: PARKED, MIG_IN, an acceptance; or it refuses and frees what it took. A session whose entry lies in a
bay being retired moves at once (R84, R442). The entry as it now stands is that of the last commit point, until the session
commits here. -/
def finalRecord (s : State) (v i : Nat) (bs : List Byte) (bad : Bool) : State :=
  let x := ses s i
  let ok := !bad && decide (bytesNat ((bs.drop 4).take 4) = x.cseq.toNat) &&
    decide (bytesNat ((bs.drop 8).take 4) = x.pages.length) && decide (x.migPages = 65536 * x.pages.length)
  if !ok then migReply (freeTarget s i) v
  else
    let s := modSes s i fun x => { x with st := .parked, aux := 0, base := x.pages.length, migPages := 0 }
    let s := modSes s i fun x => { x with ent := entryWords s x }
    let s := putComp s {
      ring := x.migRing, kind := 0x04, status := 0, handle := sesHandle s i, time := nowT s,
      w1 := mkWord [(32, 32, x.pos.toNat)], w2 := BitVec.ofNat 64 (vend s v).pdev.toNat }
    let s := migReply s v
    placeBlocked (if (ses s i).move then moveSession s i else s)

/-- The next packet of an end's ring goes to the session that arrives over it. -/
def migNext (s : State) (v : Nat) : State :=
  match nextPacket s v, arrivingOn s v with
  | some p, some i =>
    let (s, bs, bad) := packetData s v p (sesAcc s)
    let s := ringFree s v p.pseq
    if p.size = 32 then finalRecord s v i bs bad.isSome else migChunk s i bs bad.isSome
  | _, _ => s

/-- A valley that closes with a final commit record whole in its ring: what stands before the record is taken, and the session
is checked and lives here (R453). -/
def finishArrival (s : State) (v : Nat) : State :=
  let ps := (vend s v).ring.filter fun p => !p.taken
  match ps.findIdx? fun p => decide (p.size = 32) with
  | some k => if (arrivingOn s v).isSome && !stopped s then (List.range (k + 1)).foldl (fun s _ => migNext s v) s else s
  | none => s

/-! ## Valley ends leaving LIVE (R415) -/

/-- MIG_FAIL for a source session whose valley closed; a target frees what it took (R84, R453). -/
def failMigrations (s : State) (h : BitVec 32) : State :=
  ((usedSlots s).filter fun i => (ses s i).st = .migrating ∧ (ses s i).aux = h).foldl (fun s i =>
    if (ses s i).back = .free then freeTarget s i
    else
      let s := modSes (sesComp s i 0x05 0x0D) i fun x => { x with st := x.back, aux := 0 }
      if (ses s i).move then moveSession s i else s) s

/-- The descriptor at place `j` of a channel's queue ends with BAD_VALLEY; the CADDs that wait for it count down (R138). -/
def endQueued (r : Rafter) (c j : Nat) (d : SDesc) : Rafter :=
  let x := chan r c
  let r := { r with cadds := r.cadds.map fun a =>
    { a with descs := a.descs.map fun e => if e.1 = c ∧ j < e.2 then (c, e.2 - 1) else e } }
  descNotice (setChan (if j = 0 then dropReads r (.chan c) else r) c
    { x with queue := x.queue.eraseIdx j, status := 0x02 }) d 0x02 0

/-- The descriptors on an end in a channel's queue end with BAD_VALLEY (R415): the one at its head with what it has moved,
whether the channel is BUSY, HALTED or about to start it. A FROZEN channel keeps its queue (R141). -/
def endDescsIn (r : Rafter) (c : Nat) (h : BitVec 32) : Rafter :=
  let x := chan r c
  if x.st = .frozen then r else
  let back := ((x.queue.zip (List.range x.queue.length)).drop 1).reverse
  let r := back.foldl (fun r d => if sdValley d.1 = some h then endQueued r c d.2 d.1 else r) r
  match x.queue with
  | d :: _ => if sdValley d = some h then endDescIn r c 0x02 x.moved else r
  | [] => r

/-- Every queued descriptor on an end ends with BAD_VALLEY (R415). -/
def endDescs (s : State) (h : BitVec 32) : State :=
  (s.rafters.map Prod.fst).foldl (fun s n => modRaf s n fun r =>
    (List.range 16).foldl (fun r c => endDescsIn r c h) r) s

/-- What leaving LIVE brings with it (R415): descriptors, migrations, gate slots, sums and unacknowledged
packets; CLOSE to the partner unless it caused the change. -/
def leaveLive (s : State) (i cause : Nat) (tell : Bool) : State :=
  let e := vend s i
  let h := endHandle s i
  let was := decide (e.st = .live ∨ e.st = .frozen)
  let s := if was && tell then sendToPartner s i 0x06 0 (mkWord [(24, 8, cause)]) else s
  let s := modVend (finishArrival s i) i fun e => { e with sends := [], gets := [], gapFor := none }
  let s := { s with vly := { s.vly with sums := s.vly.sums.filter fun m => m.out ≠ i } }
  let s := failMigrations (endDescs s h) h
  afterDiscard (failValleySlots s h)

/-- An end enters CLOSED with a cause, and a valley notice names it (R415, R425). -/
def closeEnd (s : State) (i cause : Nat) (tell : Bool) : State :=
  if (vend s i).st = .free ∨ (vend s i).st = .closed then s else
  let s := leaveLive s i cause tell
  valleyNotice (modVend s i fun e => { e with st := .closed, cause := cause }) i false cause

/-- An end returns to FREE with its generation advanced (R406, R415). -/
def freeEndSlot (s : State) (i : Nat) : State :=
  let s := if (vend s i).st = .closed then s else leaveLive s i 1 true
  let g := (vend s i).vgen
  setVend s i { vDef s with vgen := if g = 0xFFFF then 1 else g + 1 }

/-- An end enters FROZEN (R418, R434); both of its notices are raised on the Ridge die, where the end lies (R517). -/
def freezeEnd (s : State) (i cause : Nat) : State :=
  let s := modVend s i fun e => { e with st := .frozen, cause := cause }
  let s := raiseR s 0x0070 (srcOf 12 i) (mkWord [(8, 8, cause)]) (BitVec.ofNat 64 (endHandle s i).toNat)
  valleyNotice s i true cause

/-- A range of bay space that touches bay `b`. -/
def touchesBay (b a n : Nat) : Bool :=
  isBay a && decide (0 < n) && (List.range (min 256 ((a + n - 1) / 4096 - a / 4096 + 1))).any fun k => (a / 4096 + k) % 256 = b

/-- Closes every end whose receive ring or window touches bay `b` (R442 step 6, R443). -/
def closeBayEnds (s : State) (b : Nat) : State :=
  ((openEnds s).filter fun e => touchesBay b e.2.rxbase (2 ^ e.2.rxlog2) ||
    (decide (e.2.kind = 1) && touchesBay b e.2.wbase (e.2.wsize * 4096))).foldl (fun s e => closeEnd s e.1 1 true) s

/-! ## Retirement (R442) -/

/-- A session's hot page is written back; one that cannot be read ends the session (R445). -/
def backOrEnd (s : State) (i : Nat) : State := let (t, bad) := startWriteback s i; if bad then endSession t i else t

/-- Bring-up runs: reset is released and no step has failed (R460, R464). -/
def booting (s : State) : Bool := s.boot.released && decide (rf s .sysState 0 0 2 = 0) && !stopped s

/-- A step's action runs (R461). -/
def inAction (s : State) (step : Nat) : Bool := booting s && decide (bootStep s = step ∧ bootPhase s = 1)

/-- The action has ended: POST (R461). -/
def actionDone (s : State) (step : Nat) : State := setBoot s step 2

/-- The RPROG section that names a rafter, with its number among them (R493). -/
def progOf (s : State) (n : Nat) : Option (RProg × Nat) :=
  (s.boot.progs.zip (List.range s.boot.progs.length)).find? fun p => p.1.mask.getLsbD n

/-- The named rafters that are live (R481, R484). -/
def loading (s : State) : List Nat :=
  idxs 256 fun n => !retired s n && decide ((raf s n).st ≠ .retired) && (progOf s n).isSome

/-- The rafters whose images are not verified. -/
def unverified (s : State) : List Nat := (loading s).filter fun n => !(tget {} s.boot.loaders n).ok

/-- LOAD's action ends, after the end mark, once every named rafter holds a verified image or is retired (R460, R484). -/
def loadDone (s : State) : State :=
  if inAction s 9 && s.boot.marked && (unverified s).isEmpty then actionDone s 9 else s

/-- A retirement begins on a live pair (R442 steps 1-6): `reason` as in R496. A bay in reset starts its drain once it has
reopened (R302). A session that is MIGRATING moves once its migration has ended: R84 lets it move in no other state
(assumption log 79). -/
def retireRafter (s : State) (n reason : Nat) : State :=
  if (raf s n).st = .retired ∨ retired s n = true then s else
  let s := modRaf (startRecovery s) n retireIn
  let s := endRecovery (standIn (failPasses s n) n)
  let s := if bayState s n = 1 then s else rfSet s .baybStat n 62 2 2
  let s := setBay s n { bay s n with reason := reason }
  let s := ((usedSlots s).filter fun i => (ses s i).hot.any (hotIn n)).foldl (fun s i => backOrEnd s i) s
  let s := (bayUsers s n).foldl (fun s i =>
    match (ses s i).st with
    | .running => modSes s i fun x => { x with move := true }
    | .waiting => modSes s i fun x => { x with move := true }
    | .closing => s
    | .migrating => modSes s i fun x => { x with move := true }
    | _ => moveSession s i) s
  loadDone (closeBayEnds s n)

/-- The pair's HUB_RETIREd bit is set, the record and the notice written (R442 step 7). -/
def finishRetire (s : State) (n : Nat) : State :=
  let s := rgSet s .hubRetired (n / 64) 0 (setBit (rg s .hubRetired (n / 64)) (n % 64) true)
  let s := rfSet s .baybStat n 62 2 3
  let reason := (bay s n).reason
  let s := logFault s {
    cause := 0x10, time := nowT s, src := n,
    w6 := mkWord [(56, 8, reason), (8, 9, 66 * (n / 64) + physOf s n), (0, 6, n % 64)] }
  raiseT s 0x0072 (srcOf 1 n) (mkWord [(56, 8, reason), (0, 8, liveCount s)])

/-! ## Device loss (R455, R456, R363) -/

/-- What the host port may still send after a stop: the answers to RRD (R456). -/
def answersOnly (s : State) : State :=
  { s with
    host := { s.host with tx := s.host.tx.filter fun x => match x with | .rcpl _ _ _ => true | _ => false },
    notices := { s.notices with lined := [] } }

/-- The device fails stop with a cause (R456 steps 1-3, R457): every master stops, the first DEPART is sent on the ports
in UP, the fault record waits to be programmed. Under REFERENCE the ports are down and none is sent. -/
def failStop (s : State) (code : Nat) : State :=
  if stopped s then s else
  let active := activeCount s
  let seq := (s.flash.nextSeq + BitVec.ofNat 32 s.flash.waiting.length).toNat
  let words := [mkWord [(48, 16, devId s), (40, 8, code)], nowR s, mkWord [(32, 32, seq), (0, 32, active)]]
  let s := logFault s { cause := 0x05, time := nowR s, w6 := BitVec.ofNat 64 code, w7 := BitVec.ofNat 64 active }
  let s := { s with stop := { s.stop with failStop := some (BitVec.ofNat 8 code), departs := if code = 4 then 4 else 1, sentAt := nowR s, record := words } }
  let s := answersOnly (rfSet (rfSet s .sysState 0 0 2 3) .sesStat 0 63 1 0)
  if code = 4 then s else sendDepart s

/-! ## Bay failure and HBM data loss (R443, R444) -/

/-- Whether the poison lists have room for every dirty line of a bay (R443). -/
def canPoison (s : State) (b : Nat) : Bool :=
  let d := (bay s b).tags.filter fun e => e.2.valid && e.2.dirty
  let home := fun (e : Nat × CLine) =>
    hbmOf b (e.1 / 32) e.2.tag
  (List.range 8).all fun t =>
    let new_ := d.filter fun e => decide (stackOf (home e) = t ∧ tget 0 (stack s t).poison (home e) = 0)
    decide ((stack s t).poison.length + new_.length ≤ 4096)

/-- The gate reports that lie in bay `b` are lost: the passes' sessions redo their steps (R443). -/
def lostReports (s : State) (b : Nat) : State :=
  (s.ses.passes.filter fun p => decide (p.rep = b) && s.gate.reports.contains p.id).foldl
    (fun s p => dropPass (discardPass { s with gate := { s.gate with
      reports := s.gate.reports.filter (· ≠ p.id) } } p) p.id) s

/-- A bay fails (R443): the pair is retired without a drain, and what the bay held resolves. Whether the tag store of a failed
bay can be read through the test path is a free value (assumption log 80). The requests that the bay had not answered, and the
writes that the mesh held for it, go on to the controllers where they name HBM lines, which are uncached from now on (R282). -/
def failBay (s : State) (b : Nat) : State :=
  if retired s b then s else
  let (s, d) := takeFree s
  if !bitOf d 0 || !canPoison s b then failStop s 0x05 else
  let s := poisonDirty s b
  let s := modRaf (startRecovery s) b retireIn
  let s := standIn (failPasses s b) b
  let s := lostReports s b
  let hots := (hotUsers s b).filter fun i => slotBay i ≠ b
  let users := bayUsers s b
  let s := users.foldl (fun s i => loseEntry s i) s
  let s := if users.isEmpty then s else
    lostSession s (64 * b) (63 * 16384 + 64 * b + 63)
  let s := hots.foldl (fun s i => endSession (modSes s i fun x => { x with
    hot := if x.hot.any (hotIn b) then none else x.hot, wb := x.wb && !x.hot.any (hotIn b),
    olds := x.olds.filter fun p => !hotIn b p }) i) s
  let s := (s.gate.slots.filter fun g => !g.aband && touchesBay b g.rblk (0x80 + 64 * xspan s g.table +
      64 * yspan s g.table * (rf s .gateThdrt g.table 51 3 + 1))).foldl (fun s g => failSlot s g) s
  let s := afterDiscard s
  let s := { s with gate := { s.gate with
    inbox := s.gate.inbox.filter fun e => !touchesBay b (inboxAddr s e.1) (rf s .gateIctl 0 0 12 * 64) } }
  let s := closeBayEnds s b
  let x := bay s b
  let away := x.away.filter fun w => w.runs.any fun r => isHbm r.1
  let due := (x.redo ++ (x.fills.filter (!·.done)).flatMap fillReqs ++ x.asked.filterMap Prod.snd).filter fun r =>
    isHbm r.addr.toNat
  let s := finishRetire (setBay s b { bay s b with
    reason := 5, tags := [], fills := [], redo := [], away := [], asked := [], stale := 0, watches := [], fix := [],
    broken := false }) b
  loadDone (endRecovery (away.foldl (fun s w => lineRuns s w.runs w.acc) (due.foldl reqDirect s)))

/-- HBM data loss of stack `t` (R444). -/
def hbmDataLoss (s : State) (t : Nat) : State :=
  let s := startRecovery { s with ses := { s.ses with hbmLost := true } }
  let s := ((usedSlots s).filter fun i => !(ses s i).pages.isEmpty).foldl (fun s i => endSession s i) s
  raiseT (endRecovery s) 0x0042 (srcOf 4 t) (mkWord [(0, 32, rf s .hbmsStat t 0 32)])

/-- What accesses have brought about and has not been carried out yet: the writes that waited and that nothing holds any more
(R302, R315, R321), the failure of a bay whose tag entry was lost in both copies (R280), and the loss of the data of a pseudo-channel that was retired (R444). The events of bays, of HBM
controllers and of housekeeping carry it out (assumption log 70). -/
def settle (s : State) : State :=
  let s := (s.bays.filter fun e => !e.2.away.isEmpty && decide (bayState s e.1 ≠ 1)).foldl (fun s e => releaseAway s e.1) s
  let s := (s.bays.filter fun e => e.2.broken).foldl (fun s e => failBay s e.1) s
  (s.hbm.filter fun e => e.2.loss).foldl (fun s e =>
    stageQos (hbmDataLoss (setStack s e.1 { stack s e.1 with loss := false }) e.1)) s

end Sys2Proof.Machine
end

