-- ==== Sys2Proof/Machine/Opens.lean ====
section
/-! DEFINITION. What a register write can set going beyond its register: opening and closing a valley end
(R407, R412-R415), a release (R554), a flash program (R494), provisioning (R501, R502). -/

namespace Sys2Proof.Machine

/-! ## Placement rules of operands (R108, R411) -/

/-- The ranges [a, a+n) and [b, b+m) meet. -/
def overlaps (a n b m : Nat) : Bool := decide (a < b + m ∧ b < a + n)

/-- A range that lies wholly in bay scratch or in HBM, outside the session table, every cache way, every
retired bay, the KV pool and the page-list area (R38, R39, R108, R411). -/
def placeOk (s : State) (a n : Nat) : Bool :=
  let kv := rf s .sesKvcount 0 0 22
  if isBay a then decide (a + n ≤ 0x180000000) && !protectedRange s a n
  else isHbm a && decide (a + n ≤ 0x4000000000) &&
    (decide (kv = 0) || (!overlaps a n (pageAddr s 0) (kv * 65536) &&
      !overlaps a n (plistAddr s 0) (4 * rf s .sesKvmax 0 0 13 * 1048576)))

/-! ## Opening a valley end -/

/-- The named bits of words 1-7 of a VLY_OPEN entry (R412). -/
def openReserved (e : Entry) : Bool :=
  decide (fld e.w1 48 6 ≠ 0 ∨ fld e.w2 40 24 ≠ 0 ∨ fld e.w2 0 12 ≠ 0 ∨ fld e.w3 32 27 ≠ 0 ∨
    fld e.w4 40 23 ≠ 0 ∨ fld e.w4 0 12 ≠ 0 ∨ fld e.w5 40 24 ≠ 0 ∨ fld e.w5 0 12 ≠ 0 ∨ e.w6 ≠ 0 ∨ e.w7 ≠ 0)

/-- The end that a VLY_OPEN entry describes (R412). -/
def openFields (s : State) (e : Entry) (opener : Option (Fin 16)) : VEnd :=
  { st := if fld e.w1 0 32 = 0 then .listen else .connecting,
    kind := BitVec.ofNat 2 (fld e.w1 62 2), dir := bitOf e.w1 61, cons := BitVec.ofNat 2 (fld e.w1 59 2),
    floor := if fld e.w1 57 2 = 0 then 3 else fld e.w1 57 2, local_ := bitOf e.w1 56, nin := fld e.w1 54 2,
    pdev := BitVec.ofNat 16 (fld e.w1 32 16), ph := BitVec.ofNat 32 (fld e.w1 0 32), opener := opener,
    rxbase := fld e.w2 12 28 * 4096, rxlog2 := fld e.w3 59 5, chain := BitVec.ofNat 32 (fld e.w3 0 32),
    wwr := bitOf e.w4 63, wbase := fld e.w4 12 28 * 4096, wsize := fld e.w5 12 28,
    opened := nowR s, lastCon := nowR s, progAt := nowR s }

/-- Whether an end's operands keep R409-R412, R419, R421 and R423. -/
def openOk (s : State) (x : VEnd) : Bool :=
  let red := decide (x.kind = 2)
  let chainOk := decide (x.chain = 0) ||
    (red && x.dir && match endOfHandle s x.chain with
      | some o => decide ((vend s o).kind = 2) && !(vend s o).dir &&
          decide (((openEnds s).filter fun e => decide (e.2.chain = x.chain)).length < (vend s o).nin)
      | none => false)
  decide (x.kind ≠ 3 ∧ x.cons ≠ 3) && (red || !x.dir) && chainOk &&
  decide (12 ≤ x.rxlog2 ∧ x.rxlog2 ≤ 24) && placeOk s x.rxbase (2 ^ x.rxlog2) &&
  (decide (x.kind ≠ 1) || decide (x.wsize = 0) || placeOk s x.wbase (x.wsize * 4096)) &&
  (decide (effLevel x = 3) || decide (16 ≤ x.rxlog2)) && (decide (effLevel x ≠ 1) || decide (x.kind = 0))

/-- Opens an end (R407, R412, R414): the status code of R111 and the handle. -/
def openEnd (s : State) (e : Entry) (opener : Option (Fin 16)) : State × Nat × BitVec 32 :=
  let x := openFields s e opener
  let chain := decide (x.chain ≠ 0)
  if openReserved e then (s, 0x06, 0)
  else if !inService s then (s, 0x01, 0)
  else if chain && (endOfHandle s x.chain).isNone then (s, 0x03, 0)
  else if !openOk s x then (s, 0x06, 0)
  else
    match freeEnd s with
    | none => (s, 0x05, 0)
    | some i =>
      if !(partners s).contains x.pdev.toNat && decide (4096 ≤ (partners s).length) then (s, 0x05, 0)
      else
        let s := setVend s i { x with vgen := (vend s i).vgen }
        let s := if x.st = .connecting then sendJoin s i 0x01 3 else s
        (s, 0, endHandle s i)

/-- Closes an end (R415): the status code of R111. -/
def closeByHandle (s : State) (h : BitVec 32) : State × Nat :=
  if !inService s then (s, 0x01) else
  match endOfHandle s h with
  | none => (s, 0x03)
  | some i => (freeEndSlot s i, 0)

/-- The eight words at a store offset as a command entry (R413). -/
def storeEntry (r : Rafter) (o : Nat) : Entry :=
  { w0 := storeWord r o, w1 := storeWord r (o + 8), w2 := storeWord r (o + 16), w3 := storeWord r (o + 24),
    w4 := storeWord r (o + 32), w5 := storeWord r (o + 40), w6 := storeWord r (o + 48), w7 := storeWord r (o + 56) }

/-- A write of RAFn_VOPEN (R413): the request in the rafter store is served, and the notice word says how.
The word comes back over the spar channel (R20). The model serves it within the step, so none is ever outstanding (assumption
log 16). -/
def vopenWrite (s : State) (m : Master) (n : Nat) (v : Word) : State :=
  let i := fld v 20 9
  let o := fld v 0 20
  if i < 2 ∨ o % 64 ≠ 0 then accessNotice s m 5 (regAddr .rafnVopen n) v
  else
    let s := rgSet s .rafnVopen n 0 (v &&& (regRow .rafnVopen).rw)
    let e := storeEntry (raf s n) o
    let op := fld e.w0 56 8
    let (s, st, h) :=
      if op = 0x20 then (if fld e.w0 48 8 ≠ 0 then (s, 0x06, 0) else openEnd s e none)
      else if op = 0x21 then
        (if fld e.w0 48 8 ≠ 0 ∨ e.w1 ≠ 0 ∨ e.w2 ≠ 0 ∨ e.w3 ≠ 0 ∨ e.w4 ≠ 0 ∨ e.w5 ≠ 0 ∨ e.w6 ≠ 0 ∨ e.w7 ≠ 0
          then (s, 0x06, 0)
        else let (s, c) := closeByHandle s (BitVec.ofNat 32 (fld e.w0 0 32)); (s, c, BitVec.ofNat 32 (fld e.w0 0 32)))
      else (s, 0x02, 0)
    if st = 0 then notifyOver s n i 0 h.toNat else notifyOver s n i 0x02 st

/-! ## A release (R554) -/

/-- A write of RAFn_WREL: the session named leaves its wait, or the write is discarded. -/
def wrelWrite (s : State) (m : Master) (n : Nat) (v : Word) : State :=
  let h := BitVec.ofNat 32 (fld v 0 32)
  match sesOfHandle s h with
  | some i =>
    if (ses s i).st = .waiting ∧ (ses s i).wait = .release then
      let s := rgSet s .rafnWrel n 0 (BitVec.ofNat 64 h.toNat)
      modSes s i fun x => { x with st := .ready, wait := .none, readyT := nowT s }
    else accessNotice s m 5 (regAddr .rafnWrel n) v
  | none => accessNotice s m 5 (regAddr .rafnWrel n) v

/-! ## Flash (R488, R494, R548) -/

/-- A byte of the module flash; an erased byte reads 0xFF (assumption log 5). -/
def fbyte (s : State) (a : Nat) : Byte := tget 0xFF s.flash.bytes a

/-- `n` bytes of the flash. -/
def fbytes (s : State) (a : Nat) : Nat → List Byte
  | 0 => []
  | n + 1 => fbyte s a :: fbytes s (a + 1) n

/-- Programs bytes into the flash. -/
def fprogram (s : State) (a : Nat) : List Byte → State
  | [] => s
  | b :: bs => fprogram { s with flash := { s.flash with bytes := tput 0xFF s.flash.bytes a b } } (a + 1) bs

/-- Erases the 4 KiB sector of an address. -/
def ferase (s : State) (a : Nat) : State :=
  { s with flash := { s.flash with
      bytes := s.flash.bytes.filter fun e => !decide (a / 4096 * 4096 ≤ e.1 ∧ e.1 < a / 4096 * 4096 + 4096) } }

/-- The image slot of a flash offset (R488). -/
def slotOfOff (a : Nat) : Option Nat :=
  if 0x100000 ≤ a ∧ a < 0x4000000 then some 0 else if 0x4000000 ≤ a ∧ a < 0x7F00000 then some 1 else none

/-- A write of BOOT_FWDATA (R494): a program is in progress until the flash reports its end; a write while
one is waits and leaves the state as it is (assumption log 17). -/
def fwdataWrite (s : State) (m : Master) (v : Word) : State :=
  let a := rf s .bootFwaddr 0 0 27 / 8 * 8
  if rbit s .bootFwaddr 0 63 then s
  else if slotOfOff a = some (rf s .bootStat 0 55 1) ∨ (0x10000 ≤ a ∧ a < 0x100000) then
    accessNotice s m 5 (regAddr .bootFwdata) v
  else
    let s := if a % 4096 = 0 then ferase s a else s
    let s := fprogram s a (wordBytes v)
    rgSet s .bootFwaddr 0 0 (mkWord [(63, 1, 1), (0, 27, a + 8)])

/-! ## Provisioning (R501, R502, R510) -/

/-- The bytes of the provisioning record from offset `o` (R501). -/
def recBytes (s : State) (o n : Nat) : List Byte :=
  (((wordsBytes ((List.range 54).map fun i => tget 0 s.sec.prov i)).drop o).take n)

/-- A write of SEC_PDATA (R510). -/
def pdataWrite (s : State) (v : Word) : State :=
  let i := rf s .secPidx 0 0 6
  let s := if i < 54 then { s with sec := { s.sec with prov := tput 0 s.sec.prov i v } } else s
  rfSet s .secPidx 0 0 6 ((i + 1) % 54)

/-- The result code of the checks of R502: 1 where all pass. -/
def provCheck (s : State) : Nat :=
  let op := bytesNat (recBytes s 0 1)
  let sl := bytesNat (recBytes s 1 1)
  let zero := bytesNat (recBytes s 2 6) = 0 ∧ (op = 2 → bytesNat (recBytes s 0x18 136) = 0)
  let root := recBytes s 0xA0 136
  if ¬ ((op = 1 ∨ op = 2) ∧ sl < 4 ∧ zero) then 2
  else if bytesNat (recBytes s 8 16) ≠ s.fuses.serial.toNat then 3
  else if digestOf root ≠ s.fuses.rootHash ∨
      Config.ecdsaVerify root (sha512 (recBytes s 0 0xA0)) (recBytes s 0x128 136) = false then 4
  else if (op = 1 ∧ (s.fuses.owned.getLsbD sl ∨ s.fuses.revoked.getLsbD sl ∨ s.fuses.partly.getLsbD sl)) ∨
      (op = 2 ∧ s.fuses.revoked.getLsbD sl) then 5
  else 1

/-- A write of SEC_PCTL with GO = 1 (R502). -/
def provGo (s : State) (m : Master) (v : Word) : State :=
  if s.sec.busy.isSome then accessNotice s m 5 (regAddr .secPctl) v
  else
    let c := provCheck s
    if c = 1 then
      rfSet { s with sec := { s.sec with
        busy := some (bytesNat (recBytes s 0 1), bytesNat (recBytes s 1 1), digestOf (recBytes s 0x18 136)) } } .secStat 0 42 1 1
    else rfSet s .secStat 0 32 8 c

end Sys2Proof.Machine
end

