-- ==== Sys2Proof/Machine/Ports.lean ====
section
/-! DEFINITION. The states of a port (R389-R392, R403, R447): leaving UP, failing, returning to DETECT. -/

namespace Sys2Proof.Machine

/-- LNKp_STAT.STATE (R403). -/
def portState (s : State) (p : Nat) : Nat := rf s .lnkpStat p 60 4

/-- The state with LNKp_STAT.STATE set. -/
def setPortState (s : State) (p st : Nat) : State := rfSet s .lnkpStat p 60 4 st

/-- The level a port runs at: 1 U1, 2 U2, 3 U3; 0 none (R372, R403). -/
def portLevel (s : State) (p : Nat) : Nat := rf s .lnkpStat p 58 2

/-- What a port keeps when its link is given up: the flits accepted before, its saved settings and its
counts. Its replay buffer is discarded (R392, R447), and with it the flits of the same packets that wait. -/
def portFresh (x : Port) : Port :=
  { landing := x.landing, asm := x.asm, counts := x.counts, taps := x.taps, saved := x.saved, entered := x.entered,
    hopSaid := x.hopSaid, pause := x.pause, eqAt := x.eqAt, eqSent := x.eqSent }

/-- A port takes a state in which it carries nothing: 0 DOWN, 1 DETECT, 8 HELD. Its boundary queues are emptied with it
(R73). Every change out of UP writes a link notice with event `ev` (R392). -/
def portDrop (s : State) (p st ev : Nat) : State :=
  let up := portUp s p
  let s := rfSet (rfSet (setPortState s p st) .lnkpStat p 58 2 0) .lnkpStat p 0 8 0
  let s := qReset (qReset (setPort s p (portFresh (port s p))) p) (13 + p)
  if up then linkNotice s p ev else s

/-- A port enters RETRAIN: its buffers are kept, the entry is counted, and a link notice with event `ev` is written
(R384, R392, R404). -/
def portRetrain (s : State) (p ev : Nat) : State :=
  let s := rfSat (setPortState s p 7) .lnkpErr p 24 8 1
  linkNotice (setPort s p { port s p with stepAt := nowR s }) p ev

/-- A port fails LEVEL, EQ or ALIGN (R391): back to DETECT with FAILS one more, or HELD at the eighth. -/
def portFail (s : State) (p : Nat) : State :=
  let s := rfSat s .lnkpStat p 8 8 1
  if 8 ≤ rf s .lnkpStat p 8 8 then linkNotice (portDrop s p 8 3) p 3 else portDrop s p 1 2

/-- A write of LNKp_CTL.EN and REQUAL (R391, R402). A port switched on after its step of bring-up has begun
enters DETECT (R389). The event of a link notice for a port that goes DOWN is not stated. -/
def portCtl (s : State) (p : Nat) (v : Word) : State :=
  let (s, d) := takeFree s
  if !bitOf v 63 then portDrop s p 0 (fld d 0 8)
  else if portState s p = 0 ∧ ((port s p).entered ∨ 8 ≤ bootStep s) then setPortState s p 1
  else if bitOf v 60 ∧ portState s p = 8 then rfSet (setPortState s p 1) .lnkpStat p 8 8 0
  else s

end Sys2Proof.Machine
end

