-- ==== Sys2Proof/Machine/Go.lean ====
section
/-! DEFINITION. BOOT_GO (R461): which write is awaited, what starts a step's action and what completes a step
(R473-R478). -/

namespace Sys2Proof.Machine

/-- The stage-list entry that the present step and phase have still to carry out (R467-R469); none in attended mode. -/
def curEntry (s : State) : Option StageEnt :=
  match s.boot.stages[s.boot.pos]? with
  | some e =>
    if !attended s && decide (e.step.toNat = bootStep s) && (if e.post then decide (bootPhase s = 2) else decide (bootPhase s = 0))
    then some e else none
  | none => none

/-- Whether a BOOT_GO write is one that the present step and phase await (R461, R469, R470): the host makes them in
attended mode, the Ridge controller in autonomous mode once the phase's entries are carried out. -/
def goAwaited (s : State) (m : Master) (step : Nat) (fin : Bool) : Bool :=
  booting s && decide (3 ≤ step ∧ step ≤ 10 ∧ step = bootStep s) &&
  (if attended s then decide (m = .host) else decide (m = .stage) && (curEntry s).isNone) &&
  (if fin then decide (bootPhase s = 2 ∧ 4 ≤ step ∧ step ≤ 9) else decide (bootPhase s = 0))

/-- HBMs_RDQ packs 32-bit units while its stack is in training read-back, and only then (R68, R75). -/
def packReads (s : State) (t : Nat) (on : Bool) : State := rfSet s .hbmsRdqCtl t 28 4 (if on then 3 else 0)

/-- The action of a step begins (R461): TRUSS and SPAR request their courses (R473, R474), LINK lets the enabled fabric
ports train (R389, R478), QUALIFY notes the ports in QUAL (R460); HBM's training read-back passes through HBMs_RDQ with 32-to-64-bit
packing (R68, R476). -/
def startStep (s : State) (step : Nat) : State :=
  let s := setErr (setBoot s step 1) 0 0
  let s := { s with boot := { s.boot with goAt := nowR s } }
  if step = 4 then { s with power := { s.power with queue := (List.range 16).map (64 + ·) } }
  else if step = 5 then { s with power := { s.power with queue := List.range 64 } }
  else if step = 6 then (List.range 8).foldl (fun s t => packReads s t true) s
  else if step = 7 then
    (List.range 12).foldl (fun s p =>
      let s := setPort s p { port s p with entered := true }
      if rbit s .lnkpCtl p 63 && decide (portState s p = 0) then setPortState s p 1 else s) s
  else if step = 8 then
    { s with boot := { s.boot with
      qualAt := BitVec.ofNat 12 ((idxs 12 fun p => decide (portState s p = 5)).foldl (fun a p => a + 2 ^ p) 0) } }
  else s

/-! ## The end of SPAR (R475) -/

/-- A physical pair that the repair summary marks failed or that has failed in this bring-up (R29, R475). -/
def pairBad (s : State) (d p : Nat) : Bool := s.boot.pairs.getLsbD (66 * d + p) || s.boot.now_.getLsbD (66 * d + p)

/-- The enabled spare of die `d` that serves position `l`. -/
def spareServes (s : State) (d l : Nat) : Bool :=
  let v := rg s .hubSpared d
  (bitOf v 15 && decide (fld v 8 6 = l)) || (bitOf v 31 && decide (fld v 24 6 = l))

/-- The positions that FIN retires: failed, and served by no enabled spare (R475). -/
def unserved (s : State) : List Nat := idxs 256 fun n => pairBad s (n / 64) (n % 64) && !spareServes s (n / 64) (n % 64)

/-- A position is retired at FIN (R30, R475). -/
def retireAtFin (s : State) (n : Nat) : State :=
  let s := rgSet s .hubRetired (n / 64) 0 (setBit (rg s .hubRetired (n / 64)) (n % 64) true)
  modRaf (rfSet s .baybStat n 62 2 3) n fun r => { r with st := .retired }

/-- The notice of a position that stays retired (R26); its reason is known where its course is dark. -/
def finNotice (s : State) (n : Nat) : State :=
  let (s, d) := takeFree s
  let why := if courseDark s (16 * (n / 64) + pairK (n / 64) (n % 64)) then 2 else fld d 0 8
  raiseT s 0x0072 (srcOf 1 n) (mkWord [(56, 8, why), (0, 8, liveCount s)])

/-- The group of a lane in SPRn_STAT: its field's low bit and width, its spares, and the half it lies in (2: none)
(R291, R295). -/
def laneGroup (lane : Nat) : Nat × Nat × Nat × Nat :=
  if lane < 16 then (55, 7, 64, 0) else if lane < 32 then (48, 7, 64, 1)
  else if lane < 40 then (43, 5, 24, 0) else if lane < 48 then (38, 5, 24, 1) else (33, 5, 16, 2)

/-- The lowest free spare of a lane's group serves a bond (R292, R295). -/
def useSpare (s : State) (n lane bond : Nat) : State :=
  let (lo, w, _, _) := laneGroup lane
  let used := rf s .sprnStat n lo w
  let x := sparOf s n
  let s := setSpar s n { x with spares := x.spares.filter (fun e => ¬ (e.1 = lane ∧ e.2.1 = bond)) ++ [(lane, bond, used)] }
  rfSet s .sprnStat n lo w (used + 1)

/-- What SPAR found about a pair, kept under its logical number: the slates still enabled and the spare bonds used
(R291, R295, R441, R474). -/
def takePair (s : State) (n : Nat) : State :=
  let k := 66 * (n / 64) + physOf s n
  let bad := (s.boot.slates.filter fun e => e.1 = k).foldl (fun a e => a ||| e.2) (0 : Byte)
  let s := (s.boot.bonds.filter fun e => e.1 = k).foldl (fun s e => useSpare s n e.2.1 e.2.2) (rgSet s .sprnStat n 0 0)
  modRaf s n fun r => { r with slateEn := 0xFF &&& ~~~bad }

/-- The pairs whose header switches FIN opens: failed pairs, and spares that serve no position (R27, R475). -/
def openPairs (s : State) : List Nat := idxs 264 fun k =>
  pairBad s (k / 66) (k % 66) || (decide (k % 66 = 64) && !rbit s .hubSpared (k / 66) 15) ||
    (decide (k % 66 = 65) && !rbit s .hubSpared (k / 66) 31)

/-- SPAR's FIN (R28, R475): LIVE is set, unserved positions are retired, the header switches of pairs that serve none are opened, the others
keep what SPAR found, and too few live rafters fail the step. -/
def sparFin (s : State) : State :=
  let gone := unserved s
  let s := { s with boot := { s.boot with
    live := true, openHdr := BitVec.ofNat 264 ((openPairs s).foldl (fun a k => a ||| 2 ^ k) 0) } }
  let s := (List.range 256).foldl takePair s
  let s := gone.foldl retireAtFin s
  let s := gone.foldl finNotice s
  if liveCount s < rf s .bootCtl 0 0 16 then bootFail s 0x22 (liveCount s) else s

/-- A step completes at FIN (R461): HBM's rates and the ports' settings after QUALIFY are kept for the training saves
(R477). -/
def finishStep (s : State) (step : Nat) : State :=
  let s :=
    if step = 5 then sparFin s
    else if step = 6 then
      { s with boot := { s.boot with
        rates := (List.range 8).foldl (fun t k => tput 0 t k (rf s .hbmsStat k 60 2 + 1)) [] } }
    else if step = 8 then
      { s with boot := { s.boot with
        portSet := (List.range 13).filterMap fun p => (port s p).saved.map fun x => (p, x) } }
    else s
  if rf s .sysState 0 0 2 = 0 then setBoot s (step + 1) 0 else s

/-- A write of BOOT_GO (R461): FIN = 0 starts the step's action, FIN = 1 completes the step. Any other write is
discarded with an access notice. -/
def bootGoWrite (s : State) (m : Master) (v : Word) : State :=
  let step := fld v 0 4
  if goAwaited s m step (bitOf v 4) then (if bitOf v 4 then finishStep s step else startStep s step)
  else accessNotice s m 5 (regAddr .bootGo) v

end Sys2Proof.Machine
end

