-- ==== Sys2Proof/Machine/Traps.lean ====
section
/-! DEFINITION. The trap frame and the taking of a trap or a freeze by the sequencer (R121, R131, R133), and the program
image (R116). -/

namespace Sys2Proof.Machine

/-! ## Traps of the sequencer (R121, R131, R133) -/

/-- RAFn_STAT.STATE. -/
def rstNum : RState → Nat
  | .idle => 0 | .run => 1 | .handler => 2 | .frozen => 3 | .retired => 4

/-- What a trap frame records (R133, R251). -/
structure Trap where
  cause  : Nat
  detail : Nat := 0
  pc     : BitVec 20
  addr   : Word := 0
  insn   : Word := 0
  insnh  : Word := 0
  y6     : Word := 0
  y7     : Word := 0
  deriving DecidableEq, Repr

/-- Words 0-5 of a frame. -/
def frameHead (s : State) (n : Nat) (t : Trap) : List Word :=
  let r := raf s n
  [mkWord [(56, 8, t.cause), (53, 3, rstNum r.st), (32, 16, t.detail), (0, 32, r.pass.toNat)],
    BitVec.ofNat 64 t.pc.toNat, t.addr, t.insn, t.insnh, nowT s]

/-- Writes the trap frame. -/
def writeFrame (s : State) (n : Nat) (t : Trap) : State :=
  let ws := frameHead s n t ++ [t.y6, t.y7] ++ List.replicate 24 0
  modRaf s n fun r => { r with store := writeBytes r.store 0xEF000 (wordsBytes ws) }

/-- Writes SECOND of the trap frame. -/
def writeSecond (s : State) (n : Nat) (t : Trap) : State :=
  let ws := frameHead s n t
  modRaf s n fun r => { r with store := writeBytes r.store 0xEF080 (wordsBytes ws) }

/-- Rafter `n` takes a trap (R121, R131): in HANDLER it freezes with DOUBLE; a freeze cause, or a handler cause
where there is no handler, freezes it; else it enters HANDLER at TRAP. What the trapping instruction had asked for leaves the
request table. -/
def takeTrap (s : State) (n : Nat) (t : Trap) : State :=
  let r := raf s n
  let s := countR (modRaf s n fun r => dropReads r .seq) n 0x00C 1
  if r.st = .handler then freezeRafter (writeSecond s n t) n 0x14
  else
    let s := writeFrame s n t
    if 0x10 ≤ t.cause ∨ r.trap = 0 then freezeRafter s n t.cause
    else modRaf s n fun r => { r with
      st := .handler, pc := r.trap, cause := BitVec.ofNat 8 t.cause, wait := .none }

/-! ## The program image (R116, R117) -/

/-- The bay-space address of an image offset: the image is walked within its own bay. -/
def imgAddr (s : State) (n o : Nat) : Nat :=
  bayAddr n (offOf (fld (rg s .rafnPbase n) 12 28 * 4096) + o)

/-- The image word at an offset that is a multiple of 8. -/
def imgWord (s : State) (n o : Nat) : Word := wordAt s (imgAddr s n o)

/-- Whether the image word at an offset is uncorrectable. -/
def imgBad (s : State) (n o : Nat) : Bool := badAt s (imgAddr s n o)

/-- The word of the instruction at an image offset, and its extension word where it has one (R254). -/
def insnAt (s : State) (n o : Nat) : Word × Word :=
  let i := imgWord s n o
  (i, if bitOf i 51 then imgWord s n (o + 8) else 0)

end Sys2Proof.Machine
end

