-- ==== Sys2Proof/WellFormed.lean ====
section
/-! DEFINITION. Which commands are well formed: an operand must spell the row it stands in. A meaning refuses
a command that is not (Refusal.illFormed); every other operand value is the spec's to judge. -/

namespace Sys2Proof

open Machine

/-- An instruction word whose OP is assigned in its CLASS (R257-R269). -/
def assigned (w : Word) : Bool :=
  let o := fld w 52 8
  match fld w 60 4 with
  | 1 => decide (o ≤ 0x10 ∨ (0x20 ≤ o ∧ o ≤ 0x27) ∨ (0x2D ≤ o ∧ o ≤ 0x32) ∨ o = 0x40 ∨ o = 0x41)
  | 2 => decide (o ≤ 5 ∨ (8 ≤ o ∧ o ≤ 0x0B) ∨ (0x10 ≤ o ∧ o ≤ 0x13))
  | 3 => decide (o ≤ 2)
  | 4 => decide (o = 0)
  | 5 => decide (o ≤ 2)
  | 6 => decide (o ≤ 1)
  | 7 => decide (o ≤ 2)
  | 8 => decide (o ≤ 7 ∨ o = 0x10 ∨ o = 0x11 ∨ (0x14 ≤ o ∧ o ≤ 0x1C))
  | _ => false

/-- An instruction word whose CLASS and OP are those of its row (R255). One that is not assigned spells no row; any of the
instructions' commands may carry it, and it is ILLEGAL whichever does (R257, assumption log 18). -/
def opIs (cls op : Nat) (w : Word) : Bool := decide (fld w 60 4 = cls ∧ fld w 52 8 = op) || !assigned w

/-- A command entry whose OP is that of its row (R106). -/
def ringOp (op : Nat) (e : Entry) : Bool := decide (fld e.w0 56 8 = op)

/-- An entry of THAW or RETIRE whose UNIT is that of its row (R435); UNIT 3 stands in any of them. -/
def unitOf (u : Nat) (e : Entry) : Bool := decide (fld e.w1 62 2 = u ∨ fld e.w1 62 2 = 3)

/-- An OP that R107 lists. -/
def listedOp (op : Nat) : Bool :=
  [1, 2, 3, 4, 5, 6, 0x10, 0x20, 0x21, 0x30, 0x40, 0x41, 0x50].contains op

/-- The width of a register access in bytes (R14). -/
def sizeOk (size : Nat) : Bool := decide (size = 1 ∨ size = 2 ∨ size = 4 ∨ size = 8)

/-- A bay access within one line (R275). -/
def bayOpOk (a : Nat) : BayOp → Bool
  | .readLine => true
  | .writeWords ws => decide (a % 8 = 0 ∧ 0 < ws.length ∧ a % 256 + 8 * ws.length ≤ 256)
  | .writeBytes bs => decide (0 < bs.length ∧ a % 256 + bs.length ≤ 256)
  | .atomicAdd _ => decide (a % 8 = 0)

/-- A request to a bay sub-array, if there is one: bay space, or a line of HBM that the bay caches. -/
def reqOk : Option BayReq → Bool
  | none => true
  | some r => bayOpOk r.addr.toNat r.op

/-- A request to an HBM controller within one line (R306). -/
def hreqOk (r : HReq) : Bool :=
  decide (0x1000000000 ≤ r.addr.toNat ∧ r.addr.toNat < 0x4000000000) &&
  (if r.write then decide (0 < r.data.length ∧ r.addr.toNat % 256 + r.data.length ≤ 256) else r.data.isEmpty)

/-- A valley packet of its row: at most 64 KiB of data, its VOP and for WINDOW its WOP (R376, R416). -/
def pktIs (vop : Nat) (wop : Option Nat) (p : VPkt) : Bool :=
  decide (p.data.length ≤ 65536 ∧ p.vop.toNat = vop) &&
  match wop with | some w => decide (fld p.win 62 2 = w) | none => true

/-- The well-formed commands. -/
def wellFormed : Instr → Bool
  | .registerWrite _ _ size _ => sizeOk size
  | .unmappedRegisterRead _ _ => true
  | .rclFieldRead _ _ => true
  | .hubSpareWrite _ _ _ => true
  | .batEtdataWrite _ _ => true
  | .batPldataWrite _ _ => true
  | .batSidataWrite _ _ => true
  | .gateEdataWrite _ _ => true
  | .vlyRtdataWrite _ _ => true
  | .sesRctlWrite _ _ _ => true
  | .doorbell _ _ _ => true
  | .sesKheadWrite _ _ _ => true
  | .monNctlWrite _ _ => true
  | .monNheadWrite _ _ => true
  | .secPdataWrite _ _ => true
  | .provisioningGo _ _ => true
  | .provisioningDone => true
  | .secIddataRead _ => true
  | .monLdataRead _ => true
  | .peekdRead _ _ => true
  | .ylmPeekdRead _ _ => true
  | .bootGoAction _ _ => true
  | .bootGoFin _ _ => true
  | .bootFwdataWrite _ _ => true
  | .flashWriteDone => true
  | .release _ _ _ => true
  | .vopenOpen _ _ _ => true
  | .vopenClose _ _ _ => true
  | .requal _ _ _ => true
  | .flush _ _ _ => true
  | .counterSelectWrite _ _ _ => true
  | .monFreezeWrite _ _ => true
  | .sesOpen _ e => ringOp 1 e
  | .sesAppend _ e _ => ringOp 2 e
  | .sesRun _ e => ringOp 3 e
  | .sesPark _ e => ringOp 4 e
  | .sesClose _ e => ringOp 5 e
  | .sesMigrate _ e => ringOp 6 e
  | .shardLoadData _ e _ => ringOp 0x10 e && (bitOf e.w4 0 == false)
  | .shardLoadTable _ e _ => ringOp 0x10 e && (bitOf e.w4 0 == true)
  | .vlyOpen _ e => ringOp 0x20 e
  | .vlyClose _ e => ringOp 0x21 e
  | .regRead _ e => ringOp 0x30 e
  | .thawRafter _ e => ringOp 0x40 e && unitOf 0 e
  | .thawChannel _ e => ringOp 0x40 e && unitOf 1 e
  | .thawValley _ e => ringOp 0x40 e && unitOf 2 e
  | .retireRafter _ e => ringOp 0x41 e && unitOf 0 e
  | .retireChannel _ e => ringOp 0x41 e && unitOf 1 e
  | .retireValley _ e => ringOp 0x41 e && unitOf 2 e
  | .attest _ e => ringOp 0x50 e
  | .attestReportDone => true
  | .illegalOp _ e => !listedOp (fld e.w0 56 8)
  | .add _ w => opIs 1 0x00 w
  | .sub _ w => opIs 1 0x01 w
  | .and _ w => opIs 1 0x02 w
  | .or _ w => opIs 1 0x03 w
  | .xor _ w => opIs 1 0x04 w
  | .shl _ w => opIs 1 0x05 w
  | .shr _ w => opIs 1 0x06 w
  | .sra _ w => opIs 1 0x07 w
  | .mul _ w => opIs 1 0x08 w
  | .divs _ w => opIs 1 0x09 w
  | .divu _ w => opIs 1 0x0A w
  | .rems _ w => opIs 1 0x0B w
  | .remu _ w => opIs 1 0x0C w
  | .slt _ w => opIs 1 0x0D w
  | .sltu _ w => opIs 1 0x0E w
  | .seq _ w => opIs 1 0x0F w
  | .sel _ w => opIs 1 0x10 w
  | .addi _ w => opIs 1 0x20 w
  | .subi _ w => opIs 1 0x21 w
  | .andi _ w => opIs 1 0x22 w
  | .ori _ w => opIs 1 0x23 w
  | .xori _ w => opIs 1 0x24 w
  | .shli _ w => opIs 1 0x25 w
  | .shri _ w => opIs 1 0x26 w
  | .srai _ w => opIs 1 0x27 w
  | .slti _ w => opIs 1 0x2D w
  | .sltui _ w => opIs 1 0x2E w
  | .seqi _ w => opIs 1 0x2F w
  | .li _ w _ => opIs 1 0x30 w
  | .time _ w => opIs 1 0x31 w
  | .rafid _ w => opIs 1 0x32 w
  | .ld _ w => opIs 1 0x40 w
  | .st _ w => opIs 1 0x41 w
  | .beq _ w => opIs 2 0x00 w
  | .bne _ w => opIs 2 0x01 w
  | .blt _ w => opIs 2 0x02 w
  | .bge _ w => opIs 2 0x03 w
  | .bltu _ w => opIs 2 0x04 w
  | .bgeu _ w => opIs 2 0x05 w
  | .jmp _ w => opIs 2 0x08 w
  | .jal _ w => opIs 2 0x09 w
  | .jr _ w => opIs 2 0x0A w
  | .jalr _ w => opIs 2 0x0B w
  | .endp _ w => opIs 2 0x10 w
  | .endpComplete _ => true
  | .rtt _ w => opIs 2 0x11 w
  | .frz _ w => opIs 2 0x12 w
  | .brk _ w => opIs 2 0x13 w
  | .ylaunch _ w => opIs 3 0x00 w
  | .yealmStart _ => true
  | .yealmRetire _ _ => true
  | .ywait _ w => opIs 3 0x01 w
  | .ywaitComplete _ => true
  | .ykill _ w => opIs 3 0x02 w
  | .slate _ w => opIs 4 0x00 w
  | .slateCommandStart _ _ => true
  | .kSlice _ _ => true
  | .dwellEnd _ => true
  | .slateCommandComplete _ _ => true
  | .str _ w => opIs 5 0x00 w
  | .strsm _ w => opIs 5 0x01 w
  | .stclr _ w => opIs 5 0x02 w
  | .streamDescriptorStart _ _ => true
  | .streamDataReturn _ _ => true
  | .streamDescriptorEnd _ _ => true
  | .cadd _ w => opIs 6 0x00 w
  | .caddPerform _ => true
  | .cwatch _ w => opIs 6 0x01 w
  | .poll _ w => opIs 7 0x00 w
  | .polli _ w _ => opIs 7 0x01 w
  | .nclr _ w => opIs 7 0x02 w
  | .pollWake _ => true
  | .pollTimeout _ => true
  | .fadd _ w => opIs 8 0x00 w
  | .fmul _ w => opIs 8 0x01 w
  | .fma _ w => opIs 8 0x02 w
  | .fmin _ w => opIs 8 0x03 w
  | .fmax _ w => opIs 8 0x04 w
  | .fcmp _ w => opIs 8 0x05 w
  | .fcvt _ w => opIs 8 0x06 w
  | .fsfu _ w => opIs 8 0x07 w
  | .yld _ w => opIs 8 0x10 w
  | .yst _ w => opIs 8 0x11 w
  | .yatom _ w => opIs 8 0x14 w
  | .ycas _ w => opIs 8 0x15 w
  | .yswap _ w => opIs 8 0x16 w
  | .yfence _ w => opIs 8 0x17 w
  | .yshfl _ w => opIs 8 0x18 w
  | .yred _ w => opIs 8 0x19 w
  | .yrand _ w => opIs 8 0x1A w
  | .ybar _ w => opIs 8 0x1B w
  | .yexit _ w => opIs 8 0x1C w
  | .passTake _ => true
  | .batcherSelect => true
  | .holdDue => true
  | .energyPublication => true
  | .publicationGap => true
  | .placementRound => true
  | .budgetReport => true
  | .commitPoint _ => true
  | .hotPageWritebackDone _ => true
  | .sessionPagesReleased _ => true
  | .migrationPacket _ => true
  | .finalCommitRecord _ => true
  | .migrationAcceptance _ => true
  | .migrationRefusal _ => true
  | .gateReport => true
  | .gateDispatchReceived _ => true
  | .gateReturnReceived _ => true
  | .gateReturnTimeout _ => true
  | .subarrayAccess _ _ spar purlin => reqOk spar && reqOk purlin
  | .correctionWriteback _ _ => true
  | .cacheFillReturn _ bytes _ => decide (bytes.length = 256)
  | .scrubLine _ _ => true
  | .lateScrub _ => true
  | .bucketLeak => true
  | .bayWatchdog _ => true
  | .bayInternalError _ => true
  | .baySelfCheckDone _ _ => true
  | .bayResetOverrun _ => true
  | .bayDrainComplete _ => true
  | .retirementComplete _ => true
  | .purlinFlitArrival _ f => reqOk (some f.req)
  | .parityRefusal _ => true
  | .controlHandshakeError _ => true
  | .laneTestEnd _ _ => true
  | .sparResponse _ _ _ => true
  | .eavesLockLoss _ => true
  | .eavesTakeoverComplete _ => true
  | .timeBeacon => true
  | .beaconTimeout _ => true
  | .referenceLoss => true
  | .referenceReturn => true
  | .holdoverExpiry => true
  | .monitorReading _ _ _ _ => true
  | .monitorFail _ _ => true
  | .queueWordWrite _ _ _ _ _ => true
  | .queueWordRead _ => true
  | .packItem _ _ _ => true
  | .queueTimeout _ => true
  | .hbmRequestAccept _ r => hreqOk r
  | .hbmSchedule _ _ => true
  | .hbmReadReturn _ _ _ _ _ _ => true
  | .hbmWriteAge _ _ => true
  | .perBankRefresh _ _ => true
  | .hbmPowerDown _ _ => true
  | .hbmWindowBoundary _ => true
  | .hbmRetrainDone _ _ => true
  | .feedUndervoltage _ _ => true
  | .feedOvervoltage _ _ => true
  | .feedReclose _ _ => true
  | .phaseFailure _ => true
  | .busCollapse _ => true
  | .cellFailure _ cause => decide (cause.val ≠ 0)
  | .powerOnRequest _ => true
  | .deferTimeout => true
  | .headerStageClose => true
  | .courseLive _ => true
  | .voltageLoopTick _ _ => true
  | .courseIdle _ => true
  | .hkChannelRead _ => true
  | .housekeepingLapEnd => true
  | .faultRecordProgrammed => true
  | .sectorEraseDone => true
  | .slateSweepStart _ _ => true
  | .slateSweepEnd _ _ _ => true
  | .frameReceived _ f => decide (f.words.length = 32)
  | .flitTransmit _ => true
  | .nakRepeat _ => true
  | .nak _ _ _ => true
  | .notReady _ _ => true
  | .portPauseEnd _ => true
  | .depart _ _ _ _ => true
  | .txeq _ _ => true
  | .retrainDone _ _ => true
  | .linkLockLoss _ => true
  | .detect _ => true
  | .level _ _ _ _ _ => true
  | .eq _ => true
  | .align _ => true
  | .qual _ => true
  | .trainingTimeout _ => true
  | .rrd _ _ => true
  | .rwr _ _ => true
  | .mcpl _ bytes _ => decide (bytes.length ≤ 4096)
  | .mrdTimeout _ => true
  | .mrdRetry _ => true
  | .connect _ => true
  | .connack _ => true
  | .connectRepeat _ => true
  | .joinTimeout _ => true
  | .credit _ => true
  | .done _ => true
  | .gap _ => true
  | .close _ => true
  | .refuse _ => true
  | .creditTimer _ => true
  | .valleyRto _ => true
  | .valleyPacketSend _ => true
  | .streamPacket p => pktIs 0 none p
  | .put p => pktIs 1 (some 0) p
  | .get p => pktIs 1 (some 1) p
  | .getdata p => pktIs 1 (some 2) p
  | .reducePacket p => pktIs 2 none p
  | .departRepeat => true
  | .resetRelease => true
  | .deviceReset => true
  | .standbyUp => true
  | .feedSwitchClose _ _ => true
  | .feed _ _ _ _ => true
  | .feedRetry => true
  | .ridge _ _ _ => true
  | .image _ => true
  | .truss _ => true
  | .eavesTrainTimeout _ => true
  | .spar _ => true
  | .hbm => true
  | .firmwareTraining _ _ => true
  | .link => true
  | .linkStepTimeout => true
  | .qualify => true
  | .load => true
  | .pieceBroadcast _ => true
  | .endMark => true
  | .repairRoundDone _ _ => true
  | .seal => true
  | .write => true
  | .rmw => true
  | .wait => true
  | .waitMet => true
  | .stageTimeout => true
  | .delay => true
  | .delayEnd => true
  | .block => true
  | .copy => true
  | .trainingSaveWrite => true
  | .rollbackBitBlown _ => true
  | .rbgHealthFail => true
  | .sidebandRefresh _ _ _ _ => true
  | .smbStatus => true
  | .smbFeedCause => true
  | .smbFeedAttempts => true
  | .smbFeed0Voltage => true
  | .smbFeed1Voltage => true
  | .smbModulePower => true
  | .smbFaultRecord => true
  | .smbBlockSelect _ => true
  | .smbTemperatures => true
  | .smbDeviceId => true
  | .smbFru => true
  | .bypass => true
  | .idcode => true
  | .samplePreload => true
  | .extest => true
  | .clamp => true
  | .highz => true
  | .hbmWriteParityFailure _ _ => true
  | .hbmPhyFailure _ => true
  | .codewordLockLoss _ _ => true

end Sys2Proof
end

