-- ==== Sys2Proof/Machine/Regs.lean ====
section
/-! DEFINITION. Reading and writing registers (R13-R15, R525-R534): what every register reads as, what a
read does, what a write does, and the commands of the table that are register accesses. -/

namespace Sys2Proof.Machine

/-! ## Slates of a rafter (R4, R178) -/

/-- The physical slates of logical rafter `n` that are enabled, in physical order: logical slate `i` is the
`i`-th of them (R4). -/
def enPhys (s : State) (n : Nat) : List Nat :=
  let d := n / 64
  let fused := tget (gradeSlates s.fuses.grade) s.fuses.slates (66 * d + physOf s n)
  idxs 8 fun i => (raf s n).slateEn.getLsbD i && fused.getLsbD i

/-- SLTn_STAT.EN: a bit for each logical slate; 0 before the fuses are read (R5, R178, R532). -/
def sltEn (s : State) (n : Nat) : Nat := if bootStep s < 3 then 0 else 2 ^ (enPhys s n).length - 1

/-- SLTn_STAT (R178). -/
def sltStat (s : State) (n : Nat) : Word :=
  let r := raf s n
  let ps := (enPhys s n).zip (List.range 8)
  let busy := (ps.filter fun p => r.scmds.any fun m => m.started && m.phys.contains p.1).foldl
    (fun a p => a + 2 ^ p.2) 0
  let qlen := ps.foldl (fun a p => a + (r.scmds.filter fun m => m.phys.contains p.1).length * 16 ^ p.2) 0
  mkWord [(56, 8, sltEn s n), (48, 8, busy), (0, 32, qlen)]

/-! ## Other computed views -/

/-- RAFn_STAT (R122). -/
def rafStat (s : State) (n : Nat) : Word :=
  let r := raf s n
  mkWord [(61, 3, rstNum r.st), (48, 8, r.cause.toNat), (32, 16, chfrz r), (0, 32, r.pass.toNat)]

/-- STMn_CSTATc (R144). -/
def chanStat (s : State) (n c : Nat) : Word :=
  let x := chan (raf s n) c
  let st := match x.st with | .idle => 0 | .busy => 1 | .halted => 2 | .frozen => 3
  mkWord [(61, 3, st), (57, 4, x.queue.length), (48, 9, ((x.queue.head?).map sdNotice).getD 0),
    (40, 8, x.status.toNat), (0, 40, if 2 ≤ st then x.addr.toNat else 0)]

/-- The state of a yealm slot as YLMn_STAT shows it. -/
def yNum : YState → Nat
  | .free => 0 | .run => 1 | .trapped => 2 | .stopped => 3

/-- YLMn_STAT (R252). -/
def ylmStat (s : State) (n : Nat) : Word :=
  let r := raf s n
  let sl := (List.range 16).foldl (fun a y => a + yNum (yslot r y).st * 4 ^ y) 0
  mkWord [(32, 32, sl), (16, 5, r.launch.length)]

/-- VLY_EDATA of the end that VLY_EIDX names (R426). A FREE end has no effective level: LVL reads 0. -/
def edata (s : State) : Word :=
  let e := vend s (rf s .vlyEidx 0 0 16)
  let st := match e.st with
    | .free => 0 | .listen => 1 | .connecting => 2 | .live => 3 | .closed => 4 | .frozen => 5
  mkWord [(61, 3, st), (56, 5, e.cause), (54, 2, if e.st = .free then 0 else effLevel e), (52, 2, e.kind.toNat), (45, 7, e.maxhop),
    (32, 13, min 8191 (vrtt e / 64)), (16, 16, e.pdev.toNat), (0, 16, e.vgen.toNat)]

/-- What a register shows at this moment; RAFn_PEEKD, YLMn_PEEKD, SEC_IDDATA and MON_LDATA, whose reads do
more, are answered by `regRead`. -/
def regView (s : State) (a : RegAt) : Word :=
  let v := rg s a.reg a.i a.j
  match a.reg with
  | .sysDcnt => s.time.dcnt
  | .rafnStat => rafStat s a.i
  | .sltnStat => sltStat s a.i
  | .ylmnStat => ylmStat s a.i
  | .stmnCstatc => chanStat s a.i a.j
  | .sesStat => mkWord [(62, 2, fld v 62 2), (38, 21, if sealed s then availCount s else 0),
      (17, 21, (usedSlots s).length), (0, 17, activeCount s)]
  | .sesKvfree => BitVec.ofNat 64 (kvFree s)
  | .batEtdata => ((tget 0 s.bat.etab (rf s .batEtidx 0 0 12)).setWidth 64)
  | .batPldata => tget 0 s.bat.pltab (rf s .batPlidx 0 0 8)
  | .batSidata => tget 0 s.bat.sitab (rf s .batSiidx 0 0 8)
  | .gateEdata => tget 0 s.gate.entries (rf s .gateEidx 0 0 17)
  | .gateStat => setFld v 45 19 (tracked s)
  | .vlyEdata => edata s
  | .vlyRtdata => ((tget 0 s.vly.rt (rf s .vlyRtidx 0 0 16)).setWidth 64)
  | .vlyStat => setFld (setFld v 47 17 (openEnds s).length) 34 13 (partners s).length
  | .lnkpHdata =>
    let it := rf s .lnkpHidx a.i 0 5
    if it < 19 then BitVec.ofNat 64 (tget 0 (port s a.i).counts (32 * rf s .lnkpHidx a.i 8 3 + it)) else 0
  | .baybStat => setFld v 0 17 (dirtyCount s a.i)
  | .hbmsQlvl => setFld v 0 10 (qLevel s a.i)
  | .qosStatc => qosStatView s a.i
  | .pwrqVstat => vstatView s a.i
  | .hbmsPoison => setFld v 0 13 (stack s a.i).poison.length
  | .hubSpared =>
    setFld v 40 8 (if s.boot.live then (idxs 64 fun l => !retired s (64 * a.i + l)).length else 0)
  | r =>
    match qOfReg r a.i with
    | some q => if r = (qRegs q).2.1 then qStatView s q else v
    | none => v

/-! ## Reads (R15, R137, R253, R510, R522, R526-R528) -/

/-- A register of a rafter block whose course is dark (R528). -/
def regDark (s : State) (a : RegAt) : Bool := rafterRegs.contains a.reg && courseDark s (courseOf s a.i)

/-- What RAFn_PEEKD answers (R137); none where the read is refused. An accumulator of a slate that is not
enabled has no stated value. -/
def peekd (s : State) (n : Nat) : Option (State × Word) :=
  let r := raf s n
  let v := rg s .rafnPeek n
  let a := fld v 0 20
  let sp := fld v 62 2
  if r.st ≠ .frozen ∨ sp = 3 ∨ (sp = 0 ∧ a % 8 ≠ 0) ∨ (sp = 1 ∧ 63 < a) ∨ (sp = 2 ∧ 8191 < a) then none
  else if sp = 0 then some (s, storeWord r a)
  else if sp = 1 then some (s, sreg r a)
  else
    match (enPhys s n)[a / 512 % 8]? with
    | none => some (takeFree s)
    | some p =>
      let t := if a < 4096 then (slate r p).acc0 else (slate r p).acc1
      let k := (a / 32 % 16) * 64 + (a % 32) * 2
      some (s, mkWord [(0, 32, (tget 0 t k).toNat), (32, 32, (tget 0 t (k + 1)).toNat)])

/-- What YLMn_PEEKD answers (R253); none where the slot is neither TRAPPED nor STOPPED. -/
def ylmPeekd (s : State) (n : Nat) : Option Word :=
  let v := rg s .ylmnPeek n
  let y := yslot (raf s n) (fld v 60 4)
  let t := tget {} y.thr (fld v 55 5)
  let i := fld v 49 6
  if y.st = .trapped ∨ y.st = .stopped then
    some (if i < 32 then tget 0 t.regs i
      else if i = 32 then BitVec.ofNat 64 t.pc.toNat
      else if i = 33 then mkWord [(0, 1, b2n t.exited), (1, 1, b2n t.held), (2, 1, b2n (y.barred.getLsbD (fld v 55 5)))]
      else 0)
  else none

/-- SEC_IDDATA (R510): the item at IDX, which then advances. An index above 35 names no item, and its value
is open. -/
def iddata (s : State) : State × Word :=
  let i := rf s .secIdidx 0 0 6
  let s1 := rfSet s .secIdidx 0 0 6 ((i + 1) % 36)
  if i < 34 then (s1, tget 0 s.fuses.idPub i)
  else if i < 36 then (s1, BitVec.ofNat 64 (s.fuses.serial.toNat / 2 ^ (64 * (i - 34))))
  else takeFree s1

/-- MON_LDATA (R522): the log word at IDX, which then advances; all ones in a retired bay. A base that is no
bay-space address gives no stated value. -/
def ldata (s : State) : State × Word :=
  let i := rf s .monLidx 0 0 14
  let a := logBase s + 8 * i
  let s := rfSet s .monLidx 0 0 14 ((i + 1) % 16384)
  if !isBay (logBase s) then takeFree s
  else if retired s (bayOf a) then (s, BitVec.allOnes 64)
  else
    let (s, bs, bad) := devRead s a 8 { cons := 11 }
    if bad.isSome then takeFree s else (s, bytesWord bs)

/-- A read of a whole register: what it returns and what it does. RCL fields return to their reset value. An address outside
register space is answered as an unmapped register address is: R15 refers to R126, which gives outcomes for rafters and
channels alone (DESIGN CHOICE, assumption log 62). -/
def regRead8 (s : State) (m : Master) (addr : Nat) : State × Word :=
  match (if isRegs addr then regAt (addr - 0xF000000000) else none) with
  | none => (accessNotice s m 1 addr 0, BitVec.allOnes 64)
  | some a =>
    if regDark s a then (accessNotice s m 6 addr 0, BitVec.allOnes 64) else
    match a.reg with
    | .rafnPeekd =>
      match peekd s a.i with
      | some x => x
      | none => (accessNotice s m 6 addr 0, BitVec.allOnes 64)
    | .ylmnPeekd =>
      match ylmPeekd s a.i with
      | some w => (s, w)
      | none => (accessNotice s m 6 addr 0, BitVec.allOnes 64)
    | .secIddata => iddata s
    | .monLdata => ldata s
    | r =>
      let k := (regRow r).rcl
      let v := rg s r a.i a.j
      let s' := if k = 0 then s else rgSet s r a.i a.j ((v &&& ~~~k) ||| (regReset r a.i &&& k))
      (s', regView s a)

/-- A read of `w` bytes, 1, 2, 4 or 8, at an address that is a multiple of `w` (R526). -/
def regRead (s : State) (m : Master) (addr w : Nat) : State × Word :=
  let (s, v) := regRead8 s m (addr / 8 * 8)
  (s, BitVec.ofNat 64 (fld v (8 * (addr % 8)) (8 * w)))

/-! ## Values that a write clamps or replaces -/

/-- A field clamped into a range. -/
def clampF (v : Word) (lo n a b : Nat) : Word := setFld v lo n (clampN (fld v lo n) a b)

/-- A field in which a written 0 is stored as 1. -/
def noZero (v : Word) (lo n : Nat) : Word := if fld v lo n = 0 then setFld v lo n 1 else v

/-- The value that a write of `v` stores, where a rule clamps or replaces what was written (R29, R50, R64,
R75, R93, R98, R104, R198, R209, R295, R298, R300, R318, R327, R350, R351, R369, R401, R402, R426, R520).
`d` is drawn where no rule says what results: among others for a MAXP or a page count outside its range (R86) and for a
TARGET of 0 (R93; assumption log 32). -/
def clampVal (s : State) (a : RegAt) (v d : Word) : Word :=
  match a.reg with
  | .pwrMctl => clampF v 0 8 4 0x20
  | .pwrCtl => clampF (clampF v 48 16 300 (rf s .pwrCtl 0 16 12)) 4 4 2 8
  | .pwrqVctl => clampF (clampF v 48 16 500 1200) 38 10 550 (rf s .pwrCtl 0 28 10)
  | .thmTlim => clampF (clampF (clampF (clampF v 56 8 80 100) 48 8 85 105) 40 8 95 112) 32 8 105 118
  | .thmRlim => clampF (clampF (clampF v 56 8 4 40) 48 8 8 60) 40 8 20 120
  | .thmActl => clampF (clampF v 56 8 1 16) 48 8 1 255
  | .lnkCtl => noZero v 57 7
  | .lnkQual => noZero (noZero v 48 16) 28 4
  | .lnkpCtl => noZero v 61 2
  | .vlyCtl => noZero (noZero v 48 16) 32 16
  | .bayCtl => clampF v 48 16 16 1023
  | .eccLbctl => noZero (clampF v 16 10 1 1000) 0 8
  | .sprCtl => noZero v 0 8
  | .hbmCtl =>
    let hi := fld v 55 9
    if fld v 46 9 < hi then v
    else setFld v 46 9 (if 64 ≤ hi then hi - 64 else fld d 0 9)
  | .qosClsc => noZero v 48 16
  | .batCtl => clampF v 0 5 1 16
  | .batcClass =>
    let v := if fld v 40 24 = 0 then setFld v 40 24 (fld d 0 24) else v
    if fld v 28 12 < fld v 16 12 then setFld v 16 12 (fld v 28 12) else v
  | .sesKvmax => if fld v 0 13 = 0 ∨ 4096 < fld v 0 13 then setFld v 0 13 (fld d 0 13) else v
  | .sesKvcount => if 3145728 < fld v 0 22 then setFld v 0 22 (fld d 0 22) else v
  | .sesHotcount => if 98304 < fld v 0 17 then setFld v 0 17 (fld d 0 17) else v
  | .gateCtl => noZero v 48 16
  | .gateThdrt => if fld v 49 2 = 3 then setFld v 49 2 0 else v
  | .monNctl => if rbit s .monNctl 0 63 then v else clampF v 58 5 6 16
  | .sesrRctl => if rbit s .sesrRctl a.i 63 then v else clampF (clampF v 58 5 6 16) 53 5 6 16
  | .hubSpared =>
    let bad := fun p => s.boot.pairs.getLsbD (66 * a.i + p) || s.boot.now_.getLsbD (66 * a.i + p)
    let v := if bad 64 then setBit v 15 false else v
    let v := if bad 65 then setBit v 31 false else v
    if bitOf v 15 ∧ bitOf v 31 ∧ fld v 8 6 = fld v 24 6 then setBit v 31 false else v
  | r =>
    match qOfReg r a.i with
    | some q =>
      if r = (qRegs q).1 ∧ qClocked q ∧ fld v 32 16 % 32 ≠ 0 then
        let c := (fld v 32 16 + 31) / 32 * 32
        setFld v 32 16 (if c < 65536 then c else fld d 0 16)
      else v
    | none => v

/-! ## Writes -/

/-- The value a register holds after a write of `v` to its writable fields: RW and SW fields take the
value, W1C bits written with 1 clear (R14). -/
def stored (s : State) (a : RegAt) (v : Word) : Word :=
  let row := regRow a.reg
  let k := row.rw ||| row.sw
  let old := rg s a.reg a.i a.j
  ((old &&& ~~~k) ||| (v &&& k)) &&& ~~~(v &&& row.w1c)

/-- A write whose fields are plain, with the clamps of `clampVal` and their notice of kind 4. -/
def plainWrite (s : State) (m : Master) (a : RegAt) (v : Word) : State :=
  let (s, d) := takeFree s
  let w := clampVal s a v d
  let t := rgSet s a.reg a.i a.j (stored s a w)
  if w = v then t else accessNotice t m 4 (regAddr a.reg a.i a.j) v

/-- A discarded write (R519 kind 5). -/
def discard (s : State) (m : Master) (a : RegAt) (v : Word) : State :=
  accessNotice s m 5 (regAddr a.reg a.i a.j) v

/-- The count register of a counter select. -/
def countOf : Reg → Reg
  | .monnSelk => .monnCntk
  | .monTselk => .monTcntk
  | .monRselk => .monRcntk
  | _ => .monHcntj

/-- Whether a select register's bank has source `src` with unit `u` (R515). -/
def srcListed (r : Reg) (src u : Nat) : Bool :=
  src = 0 || match r with
  | .monnSelk => decide (src ≤ 0x11 ∨ (0x20 ≤ src ∧ src ≤ 0x2F))
  | .monTselk => decide ((0x100 ≤ src ∧ src ≤ 0x107 ∧ u < 256) ∨ (0x108 ≤ src ∧ src ≤ 0x109 ∧ u < 272) ∨
      (0x110 ≤ src ∧ src ≤ 0x113) ∨ (src = 0x114 ∧ u < 80) ∨ src = 0x115 ∨ (0x118 ≤ src ∧ src ≤ 0x11C) ∨
      (0x120 ≤ src ∧ src ≤ 0x121 ∧ u < 4))
  | .monRselk => decide ((0x200 ≤ src ∧ src ≤ 0x205 ∧ u < 13) ∨ (0x210 ≤ src ∧ src ≤ 0x213) ∨
      (0x214 ≤ src ∧ src ≤ 0x215 ∧ u < 13) ∨ src = 0x220 ∨ src = 0x221)
  | _ => decide ((0x300 ≤ src ∧ src ≤ 0x304 ∧ u ≤ 32) ∨ (src = 0x305 ∧ u < 16) ∨
      (0x306 ≤ src ∧ src ≤ 0x307 ∧ u ≤ 32))

/-- A write of a counter select (R147, R512, R514): COUNT clears; a selection that counts nothing produces an
access notice, of a kind that no rule names. -/
def selectWrite (s : State) (m : Master) (a : RegAt) (v : Word) : State :=
  let s := rgSet s a.reg a.i a.j (stored s a v)
  let c := countOf a.reg
  let s := rgSet s c a.i a.j (setFld (rg s c a.i a.j) 0 48 0)
  let w := rg s a.reg a.i a.j
  if srcListed a.reg (fld w 0 10) (fld w 16 16) then s
  else let (s, d) := takeFree s; accessNotice s m (fld d 0 8) (regAddr a.reg a.i a.j) v

/-- A write of MON_NCTL (R520). LOG2 keeps its value while the ring is in use. A ring that the write puts in use begins with its
indices at 0 and its phase 1, before the notice of a LOG2 that was clamped. -/
def nctlWrite (s : State) (m : Master) (a : RegAt) (v : Word) : State :=
  let old := rg s .monNctl
  if bitOf old 63 then
    let s := rgSet s .monNctl 0 0 (setBit old 63 (bitOf v 63))
    if fld v 58 5 = fld old 58 5 then s else discard s m a v
  else
    let s := if bitOf v 63 then
        let s := rgSet (rgSet s .monNhead 0 0 0) .monNtail 0 0 0
        { s with notices := { s.notices with phase := true } }
      else s
    plainWrite s m a v

/-- A write of SESr_RCTL (R104). CLOG2 and KLOG2 keep their values while the pair is in use. -/
def rctlWrite (s : State) (m : Master) (a : RegAt) (v : Word) : State :=
  let old := rg s .sesrRctl a.i
  if bitOf old 63 then
    let s := rgSet s .sesrRctl a.i 0 (setBit old 63 (bitOf v 63))
    if fld v 53 10 = fld old 53 10 then s else discard s m a v
  else
    let s := plainWrite s m a v
    if bitOf v 63 then
      let s := [Reg.sesrCtail, .sesrChead, .sesrKhead, .sesrKtail].foldl (fun s r => rgSet s r a.i 0 0) s
      ringFetch (flushComps { s with host := { s.host with
        phases := s.host.phases ||| BitVec.ofNat 16 (2 ^ a.i) } })
    else s

/-- The size of the ring that an index register belongs to. -/
def ringEntries (s : State) (a : RegAt) : Nat :=
  match a.reg with
  | .sesrCtail => 2 ^ rf s .sesrRctl a.i 58 5
  | .sesrKhead => 2 ^ rf s .sesrRctl a.i 53 5
  | _ => 2 ^ rf s .monNctl 0 58 5

/-- A write of a ring index (R104, R105, R520): the doorbell lets commands be read; a consumed entry lets
completions or a Lost notice be written. -/
def indexWrite (s : State) (m : Master) (a : RegAt) (v : Word) : State :=
  if ringEntries s a ≤ fld v 0 16 then discard s m a v
  else
    let s := rgSet s a.reg a.i 0 (stored s a v)
    if a.reg = .monNhead then lostNotice s
    else if a.reg = .sesrKhead then ringFetch (flushComps s) else ringFetch s

/-- A write of a data register of an index and data pair: the entry at the index is written, and the index
advances modulo `n` (R96, R199, R370, R427, R437). -/
def advance (s : State) (r : Reg) (n : Nat) : State :=
  rgSet s r 0 0 (BitVec.ofNat 64 (((rg s r).toNat + 1) % n))

/-- A write of GATE_EDATA (R199, R200): an entry made LIVE whose group is not one an expert may have, or whose
reserved bits are set, is stored with LIVE 0. Waiting slots are tried again. -/
def gateEntryWrite (s : State) (m : Master) (a : RegAt) (v : Word) : State :=
  let i := rf s .gateEidx 0 0 17
  let bad := decide (i % 2 = 0) && bitOf v 63 && !bitOf v 62 && !isExpertGroup s (fld v 40 14)
  let w := if bad then setBit v 63 false else v
  let s := advance { s with gate := { s.gate with entries := tput 0 s.gate.entries i w } } .gateEidx 131072
  let s := if bad then accessNotice s m 4 (regAddr a.reg) v else s
  wakeSlots s

/-- A write that the block applies: `v` with the SW fields already held after SEAL. -/
def applyWrite (s : State) (m : Master) (a : RegAt) (v : Word) : State :=
  match a.reg with
  | .batEtdata =>
    advance { s with bat := { s.bat with
      etab := tput 0 s.bat.etab (rf s .batEtidx 0 0 12) (BitVec.ofNat 32 (fld v 0 32)) } } .batEtidx 4096
  | .batPldata =>
    placeBlocked (advance { s with bat := { s.bat with
      pltab := tput 0 s.bat.pltab (rf s .batPlidx 0 0 8) (v &&& (regRow .batPldata).sw) } } .batPlidx 256)
  | .batSidata =>
    advance { s with bat := { s.bat with
      sitab := tput 0 s.bat.sitab (rf s .batSiidx 0 0 8) (v &&& (regRow .batSidata).sw) } } .batSiidx 256
  | .vlyRtdata =>
    advance { s with vly := { s.vly with
      rt := tput 0 s.vly.rt (rf s .vlyRtidx 0 0 16) (BitVec.ofNat 32 (fld v 0 32)) } } .vlyRtidx 65536
  | .gateEdata => gateEntryWrite s m a v
  | .monNctl => nctlWrite s m a v
  | .sesrRctl => rctlWrite s m a v
  | .monNbase => if rbit s .monNctl 0 63 then discard s m a v else plainWrite s m a v
  | .sesrCbase | .sesrKbase => if ringOn s a.i then discard s m a v else plainWrite s m a v
  | .monNhead | .sesrCtail | .sesrKhead => indexWrite s m a v
  | .monnSelk | .monTselk | .monRselk | .monHselj => selectWrite s m a v
  | .rafnVopen => vopenWrite s m a.i v
  | .rafnWrel => wrelWrite s m a.i v
  | .secPdata => pdataWrite s v
  | .secPctl => if bitOf v 63 then provGo s m v else s
  | .bootGo => bootGoWrite s m v
  | .hubSpared => if bootStep s < 4 ∨ 6 ≤ bootStep s then discard s m a v else plainWrite s m a v
  | .bootFwdata => fwdataWrite s m v
  | .lnkpCtl => portCtl (plainWrite s m a v) a.i v
  | r =>
    let s := plainWrite s m a v
    match qOfReg r a.i with
    | some q => if r = (qRegs q).1 ∧ bitOf v 26 then qFlush s q else s
    | none => s

/-- A register write (R15, R526-R528, R534). One narrower than 8 bytes is a write to the register in which it lies, and is
discarded. An address outside register space is answered as an unmapped register address
is (DESIGN CHOICE, assumption log 62). -/
def regWrite (s : State) (m : Master) (addr size : Nat) (v : Word) : State :=
  match (if isRegs addr then regAt ((if size = 8 then addr else addr / 8 * 8) - 0xF000000000) else none) with
  | none => accessNotice s m 2 addr v
  | some a =>
    let row := regRow a.reg
    if size ≠ 8 ∨ regDark s a then accessNotice s m 5 addr v
    else if sealed s ∧ row.sw ≠ 0 ∧ row.rw ||| row.w1c ||| row.wo = 0 then accessNotice s m 3 addr v
    else if sealed s then
      let old := rg s a.reg a.i a.j
      let s := if (v ^^^ old) &&& row.sw = 0 then s else accessNotice s m 3 addr v
      applyWrite s m a ((v &&& ~~~row.sw) ||| (old &&& row.sw))
    else applyWrite s m a v

/-- A register access of rafter `n` that R126 or R528 does not allow: the trap at its instruction. A rafter that is not
running makes none, and nothing happens (assumption log 62). -/
def regTrap (s : State) (n cause addr : Nat) : State :=
  let r := raf s n
  if r.st = .run ∨ r.st = .handler then
    let w := insnAt s n r.pc.toNat
    takeTrap s n { cause := cause, pc := r.pc, addr := BitVec.ofNat 64 addr, insn := w.1, insnh := w.2 }
  else s

/-- A register read as a command that must wait: a rafter's before the eaves link to the Ridge die (R34), one of the notice log
at its bay in reset (R302). A rafter's write never crosses an eaves link: it may write its own block alone (R528). -/
def regWaits (s : State) (m : Master) (addr : Nat) : Bool :=
  (match m with | .rafter _ => isRegs addr && ridgeAway s addr | _ => false) ||
  (decide (addr = regAddr .monLdata) && bayAway s (logBase s + 8 * rf s .monLidx 0 0 14) && isBay (logBase s))

/-- A register write as a command: a rafter may write only RW registers of its own block, and any other write to register
space freezes it with cause PROTECTED (R528); an address outside it is judged as R126 gives (R15). -/
def writeBy (s : State) (m : Master) (addr size : Nat) (v : Word) : State :=
  match m with
  | .rafter n =>
    if isRegs addr then
      if ownRw n.val ((addr - 0xF000000000) / 8 * 8) then regWrite s m addr size v else regTrap s n.val 0x11 addr
    else
      match checkAccess s n.val addr size true with
      | .ok => regWrite s m addr size v
      | x => regTrap s n.val (violCause x) addr
  | _ => regWrite s m addr size v

/-- A read of a whole register as a command; the value it returns is `rdata`. A rafter's read outside register space is
judged as R126 gives (R15). -/
def readBy (s : State) (m : Master) (addr : Nat) : State :=
  if regWaits s m addr then s else
  let read := let (s, v) := regRead8 s m addr; { s with rdata := v }
  match m with
  | .rafter n =>
    if isRegs addr then read
    else
      match checkAccess s n.val addr 8 false with
      | .ok => read
      | x => regTrap s n.val (violCause x) addr
  | _ => read

/-! ## The commands that are register accesses -/

/-- REGISTER_WRITE (R14, R15, R526-R534). -/
def execRegisterWrite (m : Master) (addr : BitVec 40) (size : Nat) (v : Word) (s : State) : Out :=
  if !sizeOk size then .refused .illFormed else .next (writeBy s m addr.toNat size v)

/-- UNMAPPED_REGISTER_READ (R15, R525). -/
def execUnmappedRegisterRead (m : Master) (addr : BitVec 40) (s : State) : Out := .next (readBy s m addr.toNat)

/-- RCL_FIELD_READ (R14, R526, R527). -/
def execRclFieldRead (m : Master) (addr : BitVec 40) (s : State) : Out := .next (readBy s m addr.toNat)

/-- HUB_SPARE_WRITE (R28, R29). -/
def execHubSpareWrite (m : Master) (d : Fin 4) (v : Word) (s : State) : Out :=
  .next (writeBy s m (regAddr .hubSpared d) 8 v)

/-- BAT_ETDATA_WRITE (R96). -/
def execBatEtdataWrite (m : Master) (v : Word) (s : State) : Out := .next (writeBy s m (regAddr .batEtdata) 8 v)

/-- BAT_PLDATA_WRITE (R370). -/
def execBatPldataWrite (m : Master) (v : Word) (s : State) : Out := .next (writeBy s m (regAddr .batPldata) 8 v)

/-- BAT_SIDATA_WRITE (R437). -/
def execBatSidataWrite (m : Master) (v : Word) (s : State) : Out := .next (writeBy s m (regAddr .batSidata) 8 v)

/-- GATE_EDATA_WRITE (R199, R200). -/
def execGateEdataWrite (m : Master) (v : Word) (s : State) : Out := .next (writeBy s m (regAddr .gateEdata) 8 v)

/-- VLY_RTDATA_WRITE (R427). -/
def execVlyRtdataWrite (m : Master) (v : Word) (s : State) : Out := .next (writeBy s m (regAddr .vlyRtdata) 8 v)

/-- SES_RCTL_WRITE (R104). -/
def execSesRctlWrite (m : Master) (r : Fin 16) (v : Word) (s : State) : Out :=
  .next (writeBy s m (regAddr .sesrRctl r) 8 v)

/-- DOORBELL: a write of SESr_CTAIL (R104, R105). -/
def execDoorbell (m : Master) (r : Fin 16) (v : Word) (s : State) : Out :=
  .next (writeBy s m (regAddr .sesrCtail r) 8 v)

/-- SES_KHEAD_WRITE (R104, R105). -/
def execSesKheadWrite (m : Master) (r : Fin 16) (v : Word) (s : State) : Out :=
  .next (writeBy s m (regAddr .sesrKhead r) 8 v)

/-- MON_NCTL_WRITE (R520). -/
def execMonNctlWrite (m : Master) (v : Word) (s : State) : Out := .next (writeBy s m (regAddr .monNctl) 8 v)

/-- MON_NHEAD_WRITE (R520, R521). -/
def execMonNheadWrite (m : Master) (v : Word) (s : State) : Out := .next (writeBy s m (regAddr .monNhead) 8 v)

/-- SEC_PDATA_WRITE (R510). -/
def execSecPdataWrite (m : Master) (v : Word) (s : State) : Out := .next (writeBy s m (regAddr .secPdata) 8 v)

/-- PROVISIONING_GO: a write of SEC_PCTL (R502). -/
def execProvisioningGo (m : Master) (v : Word) (s : State) : Out := .next (writeBy s m (regAddr .secPctl) 8 v)

/-- SEC_IDDATA_READ (R510). -/
def execSecIddataRead (m : Master) (s : State) : Out := .next (readBy s m (regAddr .secIddata))

/-- MON_LDATA_READ (R522). -/
def execMonLdataRead (m : Master) (s : State) : Out := .next (readBy s m (regAddr .monLdata))

/-- PEEKD_READ (R137). -/
def execPeekdRead (m : Master) (n : Fin 256) (s : State) : Out := .next (readBy s m (regAddr .rafnPeekd n))

/-- YLM_PEEKD_READ (R253). -/
def execYlmPeekdRead (m : Master) (n : Fin 256) (s : State) : Out := .next (readBy s m (regAddr .ylmnPeekd n))

/-- BOOT_GO_ACTION: a write of BOOT_GO with FIN 0 (R461). -/
def execBootGoAction (m : Master) (step : Fin 16) (s : State) : Out :=
  .next (writeBy s m (regAddr .bootGo) 8 (BitVec.ofNat 64 step))

/-- BOOT_GO_FIN: a write of BOOT_GO with FIN 1 (R461). -/
def execBootGoFin (m : Master) (step : Fin 16) (s : State) : Out :=
  .next (writeBy s m (regAddr .bootGo) 8 (BitVec.ofNat 64 (16 + step)))

/-- BOOT_FWDATA_WRITE (R494). -/
def execBootFwdataWrite (m : Master) (v : Word) (s : State) : Out := .next (writeBy s m (regAddr .bootFwdata) 8 v)

/-- FLASH_WRITE_DONE: the program or erase that BOOT_FWDATA started ends (R497). -/
def execFlashWriteDone (s : State) : Out :=
  if rbit s .bootFwaddr 0 63 then .next (rfSet s .bootFwaddr 0 63 1 0) else .fault .notPossible

/-- RELEASE: a write of RAFn_WREL (R554). -/
def execRelease (m : Master) (n : Fin 256) (v : Word) (s : State) : Out :=
  .next (writeBy s m (regAddr .rafnWrel n) 8 v)

/-- VOPEN_OPEN: a write of RAFn_VOPEN whose request opens an end (R413). -/
def execVopenOpen (m : Master) (n : Fin 256) (v : Word) (s : State) : Out :=
  .next (writeBy s m (regAddr .rafnVopen n) 8 v)

/-- VOPEN_CLOSE: a write of RAFn_VOPEN whose request closes an end (R413). -/
def execVopenClose (m : Master) (n : Fin 256) (v : Word) (s : State) : Out :=
  .next (writeBy s m (regAddr .rafnVopen n) 8 v)

/-- REQUAL: a write of LNKp_CTL (R391, R402). -/
def execRequal (m : Master) (p : Fin 13) (v : Word) (s : State) : Out :=
  .next (writeBy s m (regAddr .lnkpCtl p) 8 v)

/-- FLUSH: a write of a queue's control register (R66, R75). -/
def execFlush (m : Master) (q : Fin 60) (v : Word) (s : State) : Out :=
  .next (writeBy s m (regAddr (qRegs q).1 (qRegs q).2.2) 8 v)

/-- COUNTER_SELECT_WRITE (R147, R512, R514). -/
def execCounterSelectWrite (m : Master) (addr : BitVec 40) (v : Word) (s : State) : Out :=
  .next (writeBy s m addr.toNat 8 v)

/-- MON_FREEZE_WRITE: a write of MON_CTL (R516). -/
def execMonFreezeWrite (m : Master) (v : Word) (s : State) : Out := .next (writeBy s m (regAddr .monCtl) 8 v)

end Sys2Proof.Machine
end

