-- ==== Sys2Proof/Machine/Ring.lean ====
section
/-! DEFINITION. The commands of the command rings (R104-R111): the checks of R107 in their order, and what each
accepted command does. -/

namespace Sys2Proof.Machine

/-! ## The checks that every command shares -/

/-- The operand bits that a command defines in its words 1, 2 and onward; the others are reserved (R106, R107,
R412, R435, R507). -/
def opMask (op : Nat) : List Word :=
  let all : Word := BitVec.allOnes 64
  if op = 0x01 then [0xFFFFF80000000000, all]
  else if op = 0x02 then [all, 0xFFFFFFFF]
  else if op = 0x03 then [all, 0xFFFFFFFFFF]
  else if op = 0x06 then [0xFFFFFFFF]
  else if op = 0x10 then [all, 0xFFFFFFFFFF, all, 1]
  else if op = 0x20 then [0xFFC0FFFFFFFFFFFF, 0xFFFFFFF000, 0xF8000000FFFFFFFF, 0x800000FFFFFFF000, 0xFFFFFFF000]
  else if op = 0x30 then [0xFFFFFFFFFF]
  else if op = 0x40 ∨ op = 0x41 then [0xC00000000000FF0F]
  else if op = 0x50 then [all, all, all, all, all]
  else []

/-- A reserved bit of the entry is set (R106); ATTEST has no bit beside those that R507 lists, so its HANDLE is 0 too. A nonzero
HANDLE in another command that names no handle (SES_OPEN, SHARD_LOAD, REG_READ, VLY_OPEN) is refused by no rule, and the model
ignores it (DESIGN CHOICE, assumption log 33). -/
def reservedSet (op : Nat) (e : Entry) : Bool :=
  decide (fld e.w0 48 8 ≠ 0) || (decide (op = 0x50) && decide (fld e.w0 0 32 ≠ 0)) ||
  (([e.w1, e.w2, e.w3, e.w4, e.w5, e.w6, e.w7].zip (opMask op ++ List.replicate 7 0)).any fun p =>
    decide (p.1 &&& ~~~p.2 ≠ 0))

/-- The refusal that R107 items 2 and 3 give, if any. REG_READ and ATTEST before the end of the IMAGE step answer NOT_READY
too: R107 gives no status for them (DESIGN CHOICE, assumption log 63). In FAILED both are served (R464, R507). -/
def early (s : State) (op : Nat) (e : Entry) : Option Nat :=
  if reservedSet op e then some 0x06
  else if op = 0x30 ∨ op = 0x50 then (if bootStep s ≤ 3 ∧ rf s .sysState 0 0 2 ≠ 2 then some 0x01 else none)
  else if inService s then none else some 0x01

/-- HANDLE of an entry. -/
def entHandle (e : Entry) : BitVec 32 := BitVec.ofNat 32 (fld e.w0 0 32)

/-- A command names a session that is bound to a fault or a freeze: it takes effect once that is back in READY (R449). -/
def namesBound (s : State) (op : Nat) (e : Entry) : Bool :=
  decide (2 ≤ op ∧ op ≤ 6) && match sesOfHandle s (entHandle e) with
    | some i => (boundSlots s).contains i
    | none => false

/-- An entry that the device has read is carried out: it no longer waits. -/
def takeArrived (s : State) (r : Fin 16) (e : Entry) : State :=
  { s with host := { s.host with arrived := dropFirst (fun a => decide (a = (r, e))) s.host.arrived } }

/-- A command of ring `r`: its early refusal, or `body`, which writes its own CMD completion. The ring must be in
use, and nothing is served once the device has stopped (R363, R456). While the ring's flow is taken over by another eaves
link, it waits (R446), and so does a command for a session that is bound (R449). Afterwards the device reads on (R105). -/
def ringDo (s : State) (r : Fin 16) (e : Entry) (op : Nat) (body : State → State) : Out :=
  if !ringOp op e then .refused .illFormed
  else if !ringOn s r || stopped s then .fault .notPossible
  else if flowWaits s (.ring r) || namesBound s op e then .next s
  else
    let s := takeArrived s r e
    .next (ringFetch (match early s op e with
      | some c => cmdComp s r e c (entHandle e)
      | none => body s))

/-- A command of ring `r` that takes `len` bytes at a host address (R84, R108, R400): `wants` says whether it gets as far as
needing them. They are fetched by MRD, and the command waits for them; `body` is given them. -/
def ringData (s : State) (r : Fin 16) (e : Entry) (op len : Nat) (cut : Fin 4096) (wants : Bool)
    (body : State → List Byte → State) : Out :=
  if !ringOp op e then .refused .illFormed
  else if !ringOn s r || stopped s then .fault .notPossible
  else if flowWaits s (.ring r) || namesBound s op e then .next s
  else if wants && (early s op e).isNone && (fetchedFor s r len).isNone then
    .next (if (fetchFor s r).isNone then startFetch s r e.w1 len cut else s)
  else ringDo s r e op fun s => body (setFetch s r none) ((fetchedFor s r len).getD [])

/-- A command that names a session: BAD_HANDLE, BAD_OPERAND where `bad`, else `body` of the slot, which answers
the state and the status (R107 items 4-6). -/
def sesCmd (s : State) (r : Fin 16) (e : Entry) (bad : Bool) (body : State → Nat → State × Nat) : State :=
  match sesOfHandle s (entHandle e) with
  | none => cmdComp s r e 0x03 (entHandle e)
  | some i =>
    if bad then cmdComp s r e 0x06 (entHandle e)
    else let (t, c) := body s i; cmdComp t r e c (entHandle e)

/-! ## Session commands (R84, R85, R107) -/

/-- SES_OPEN: the entry is initialised (R84, R444). A session opened into a blocked group is moved at once where a placement
pair says so (R438). -/
def execSesOpen (r : Fin 16) (e : Entry) (s : State) : Out :=
  ringDo s r e 0x01 fun s =>
    let g := fld e.w1 43 14
    let d := lgrp s g
    if !d.valid || !d.first then cmdComp s r e 0x06 0
    else
      match (if s.ses.hbmLost then none else freeSlot s) with
      | none => cmdComp s r e 0x05 0
      | some i =>
        let x := ses s i
        let s := setSes s i {
          gen := x.gen, st := .open, cls := Fin.ofNat 8 (fld e.w1 61 3), ring := Fin.ofNat 16 (fld e.w1 57 4),
          lgrp := BitVec.ofNat 14 g, start := BitVec.ofNat 14 g, temp := BitVec.ofNat 16 (fld e.w2 48 16),
          topk := BitVec.ofNat 8 (fld e.w2 40 8), topp := BitVec.ofNat 8 (fld e.w2 32 8),
          stoptok := BitVec.ofNat 32 (fld e.w2 0 32), readyT := x.readyT }
        let s := modSes s i fun x => { x with ent := entryWords s x }
        placeBlocked (cmdComp s r e 0 (sesHandle s i))

/-- Token identifiers as host memory holds them. -/
def tokensOf (bs : List Byte) : List (BitVec 32) :=
  (List.range (bs.length / 4)).map fun k => BitVec.ofNat 32 (bytesNat ((bs.drop (4 * k)).take 4))

/-- SES_APPEND's operands break its rules. -/
def appendBad (e : Entry) : Bool :=
  let n := fld e.w2 0 32
  decide (n = 0 ∨ 65536 < n) || decide (fld e.w1 0 2 ≠ 0)

/-- SES_APPEND: the COUNT identifiers at the host address of word 1 are fetched and appended (R84, R400). -/
def execSesAppend (r : Fin 16) (e : Entry) (cut : Fin 4096) (s : State) : Out :=
  let n := fld e.w2 0 32
  let wants := !appendBad e && match sesOfHandle s (entHandle e) with
    | some i => decide ((ses s i).st = .open ∨ (ses s i).st = .parked)
    | none => false
  ringData s r e 0x02 (4 * n) cut wants fun s bs =>
    sesCmd s r e (appendBad e) fun s i =>
      let x := ses s i
      if x.st = .open ∨ x.st = .parked then
        (modSes s i fun x => { x with prompt := x.prompt ++ tokensOf bs, pend := x.pend + BitVec.ofNat 32 n }, 0)
      else (s, 0x04)

/-- SES_RUN: the session becomes READY at START (R84); its tail page goes to the hot pool (R89). -/
def execSesRun (r : Fin 16) (e : Entry) (s : State) : Out :=
  ringDo s r e 0x03 fun s =>
    sesCmd s r e (decide (fld e.w2 0 32 = 0) || decide (fld e.w1 0 2 ≠ 0)) fun s i =>
      let x := ses s i
      if x.st = .open ∨ x.st = .parked then
        (takeHot (modSes s i fun x => { x with
          st := .ready, lgrp := x.start, readyT := nowT s, dest := e.w1, parking := false,
          every := BitVec.ofNat 8 (fld e.w2 32 8), budget := BitVec.ofNat 32 (fld e.w2 0 32) }) i, 0)
      else (s, 0x04)

/-- A session enters PARKED (R84, R89): DONE with PARKED unless it was OPEN. -/
def toParked (s : State) (i : Nat) : State :=
  let s := if (ses s i).st = .open then s else doneComp s i 0x0A
  modSes s i fun x => { x with st := .parked, parkReq := false, parking := false, nrows := 0 }

/-- A park acts: the hot page is written back, and the session is PARKED once that is acknowledged. A hot page that
cannot be read ends the session (R445). -/
def parkNow (s : State) (i : Nat) : State :=
  let (s, bad) := startWriteback s i
  if bad then endSession s i
  else if (ses s i).wb || !(ses s i).olds.isEmpty then modSes s i fun x => { x with parking := true }
  else toParked s i

/-- SES_PARK (R84, R85). -/
def execSesPark (r : Fin 16) (e : Entry) (s : State) : Out :=
  ringDo s r e 0x04 fun s =>
    sesCmd s r e false fun s i =>
      let x := ses s i
      if x.st = .migrating ∨ x.st = .closing then (s, 0x04)
      else if x.st = .parked ∨ x.parking = true then (s, 0)
      else if inStep x then (modSes s i fun x => { x with parkReq := true }, 0)
      else (parkNow s i, 0)

/-- A session that may be closed at once enters CLOSING; DONE with CLOSED if it was READY (R84). -/
def closeNow (s : State) (i : Nat) : State :=
  enterClosing (if (ses s i).st = .ready then doneComp s i 0x0B else s) i

/-- SES_CLOSE (R84, R85): a session that waits on a release loses its uncommitted step and closes; one with CLOSE_REQ set
is left as it is. -/
def execSesClose (r : Fin 16) (e : Entry) (s : State) : Out :=
  ringDo s r e 0x05 fun s =>
    sesCmd s r e false fun s i =>
      let x := ses s i
      if x.st = .migrating ∨ x.st = .closing then (s, 0x04)
      else if x.closeReq then (s, 0)
      else if x.st = .waiting ∧ x.wait = .release then (giveHot (closeNow (discardSession s i) i), 0)
      else if inStep x then (modSes s i fun x => { x with closeReq := true }, 0)
      else (closeNow s i, 0)

/-! ## Migration at the source (R102) -/

/-- Bytes of a page that one packet carries at an end's effective level (R102). -/
def chunkBytes (v : VEnd) : Nat := if effLevel v = 3 then 32768 else 2048

/-- The header of a migration (R102): the entry as at the session's last commit point, or as SES_OPEN made it where it has
committed none (assumption log 74), with STATE = MIGRATING. -/
def migEntry (x : Session) : List Word := setFld (nth x.ent 0 0) 48 4 6 :: x.ent.drop 1

/-- Queues the header, every chunk of every page, and the final commit record on the valley (R102). -/
def sendSession (s : State) (i v : Nat) : State :=
  let x := ses s i
  let c := chunkBytes (vend s v)
  let s := pushSend s v (.bytes (wordsBytes (migEntry x))) 0 false 0
  let s := (List.range x.pages.length).foldl (fun s p =>
    (List.range (65536 / c)).foldl (fun s k => pushSend s v (.mig i p (c * k) c) 0 false 0) s) s
  let fin := natBytes (sesHandle s i).toNat 4 ++ natBytes x.cseq.toNat 4 ++ natBytes x.pages.length 4 ++
    List.replicate 20 0
  pushSend s v (.bytes fin) 0 false 0

/-- SES_MIGRATE (R84, R102, R410): the end is STREAM with CONS SESSION, at its partner too. The hot copy of the tail page is written back first, so that the pages sent are
the session's last committed ones (assumption log 20). -/
def execSesMigrate (r : Fin 16) (e : Entry) (s : State) : Out :=
  ringDo s r e 0x06 fun s =>
    let vh := BitVec.ofNat 32 (fld e.w1 0 32)
    match sesOfHandle s (entHandle e), endOfHandle s vh with
    | some i, some v =>
      let x := ses s i
      let w := vend s v
      if w.kind ≠ 0 ∨ w.cons ≠ 2 ∨ (w.st = .live ∧ w.pcons ≠ 2) then cmdComp s r e 0x06 (entHandle e)
      else if ¬ (x.st = .open ∨ x.st = .parked) ∨ w.st ≠ .live then cmdComp s r e 0x04 (entHandle e)
      else
        let s := cmdComp s r e 0 (entHandle e)
        let (s, bad) := startWriteback s i
        if bad then endSession s i
        else
          let s := modSes s i fun x => { x with st := .migrating, back := x.st, aux := vh, parking := false }
          sendSession s i v
    | _, _ => cmdComp s r e 0x03 (entHandle e)

/-! ## SHARD_LOAD (R92, R108) -/

/-- A layer-group descriptor from its eight words (R90). -/
def lgOf (ws : List Word) : LGroup :=
  let w := fun k => nth ws k 0
  { valid := bitOf (w 0) 63, first := bitOf (w 0) 62, next := BitVec.ofNat 14 (fld (w 0) 48 14),
    outside := bitOf (w 0) 47, kind := BitVec.ofNat 4 (fld (w 0) 40 4), fmt := BitVec.ofNat 4 (fld (w 0) 36 4),
    entry := BitVec.ofNat 12 (fld (w 0) 24 12), rafters := w 4 ++ w 3 ++ w 2 ++ w 1,
    units := BitVec.ofNat 32 (fld (w 5) 32 32), tokkv := BitVec.ofNat 32 (fld (w 5) 0 32) }

/-- A descriptor that R108 refuses. -/
def lgBad (d : LGroup) : Bool :=
  d.valid && (decide (4 < d.kind.toNat) || decide (d.rafters = 0) ||
    (d.first && decide (d.tokkv.toNat = 0 ∨ 65536 < d.tokkv.toNat)))

/-- SHARD_LOAD with TBL 0: the LENGTH bytes at the host address are fetched and written to the destination (R108, R400). Its
write waits at its source while the bay of a byte is in reset or the controller holds its class (R302, R315, R321). -/
def execShardLoadData (r : Fin 16) (e : Entry) (cut : Fin 4096) (s : State) : Out :=
  let a := fld e.w2 0 40
  let n := e.w3.toNat
  if bitOf e.w4 0 then .refused .illFormed
  else if ringOp 0x10 e && ringOn s r && !stopped s && (early s 0x10 e).isNone && placeOk s a n && (fetchedFor s r n).isSome &&
      rangeHeld s a n (hostAcc s r).cls then .next s
  else
  ringData s r e 0x10 n cut (placeOk s a n) fun s bs =>
    if !placeOk s a n then cmdComp s r e 0x06 (entHandle e)
    else cmdComp (devWrite s a bs (hostAcc s r)) r e 0 (entHandle e)

/-- SHARD_LOAD with TBL 1: descriptors into the layer-group table from index W2[13:0]. Bits W2[39:14] are ignored: R107 has
them as operand bits and R108 gives only W2[13:0] a meaning; that is the model's choice (assumption log 58). -/
def execShardLoadTable (r : Fin 16) (e : Entry) (cut : Fin 4096) (s : State) : Out :=
  let g := fld e.w2 0 14
  let n := e.w3.toNat / 64
  let misfit := decide (e.w3.toNat % 64 ≠ 0 ∨ 16384 < g + n)
  if !bitOf e.w4 0 then .refused .illFormed else
  ringData s r e 0x10 e.w3.toNat cut (!misfit) fun s bs =>
    let ds := (List.range n).map fun k => lgOf (bytesWords (bs.drop (64 * k)) 8)
    if misfit || ds.any lgBad then cmdComp s r e 0x06 (entHandle e)
    else if (usedSlots s).any fun i => decide (g ≤ (ses s i).start.toNat ∧ (ses s i).start.toNat < g + n) then
      cmdComp s r e 0x04 (entHandle e)
    else
      let t := (ds.zip (List.range n)).foldl (fun t d => tput {} t (g + d.2) d.1) s.ses.lgt
      cmdComp (placeBlocked { s with ses := { s.ses with lgt := t } }) r e 0 (entHandle e)

/-! ## Valleys and registers -/

/-- VLY_OPEN (R107, R412): the completion carries the new handle. -/
def execVlyOpen (r : Fin 16) (e : Entry) (s : State) : Out :=
  ringDo s r e 0x20 fun s => let (s, c, h) := openEnd s e (some r); cmdComp s r e c h

/-- VLY_CLOSE (R107, R415). -/
def execVlyClose (r : Fin 16) (e : Entry) (s : State) : Out :=
  ringDo s r e 0x21 fun s => let (s, c) := closeByHandle s (entHandle e); cmdComp s r e c (entHandle e)

/-- REG_READ (R107, R109): the value is in word 2; the status is RECOVERING while SES_STAT says so. -/
def execRegRead (r : Fin 16) (e : Entry) (s : State) : Out :=
  ringDo s r e 0x30 fun s =>
    let c := if rbit s .sesStat 0 62 then 0x0E else 0
    let (s, v) := regRead8 s (.ring r) (fld e.w1 0 40)
    cmdComp s r e c (entHandle e) v

/-! ## THAW and RETIRE (R435, R436) -/

/-- RAF of an entry. -/
def entRaf (e : Entry) : Nat := fld e.w1 8 8

/-- CH of an entry. -/
def entCh (e : Entry) : Nat := fld e.w1 0 4

/-- THAW and RETIRE with an operand outside R435: UNIT 3, or a field that the UNIT does not use. -/
def unitBad (u : Nat) (e : Entry) : Bool :=
  decide (fld e.w1 62 2 ≠ u) || (decide (u ≠ 2) && decide (entHandle e ≠ 0)) ||
  (decide (u = 2) && decide (entRaf e ≠ 0)) || (decide (u ≠ 1) && decide (entCh e ≠ 0))

/-- Every queued descriptor of a rafter's FROZEN channels, or of all of them, ends with CLEARED. -/
def clearChans (r : Rafter) (all : Bool) : Rafter :=
  (List.range 16).foldl (fun r c => if all || decide ((chan r c).st = .frozen) then clearChanIn r c else r) r

/-- What THAW does inside the rafter (R136, R226): the batch slots are empty, every descriptor ends with CLEARED,
slate and yealm state is clear; the store keeps its data. -/
def thawIn (r : Rafter) : Rafter :=
  let r := clearYealms (clearChans r true)
  { r with
    st := .idle, wait := .none, slot0 := none, slot1 := none, scmds := [], cadds := [], ylast := 15,
    slates := tmap {} (fun x => { x with acc0 := [], acc1 := [] }) r.slates }

/-- THAW of a rafter (R136, R436, R440): the watches it registered are cancelled. -/
def thawRafterNow (s : State) (n : Nat) : State :=
  let s := modRaf s n thawIn
  let s := { s with bays := tmap {} (fun b => { b with watches := b.watches.filter fun w => w.raf ≠ n }) s.bays }
  undoSwap s n

/-- THAW_RAFTER. -/
def execThawRafter (r : Fin 16) (e : Entry) (s : State) : Out :=
  if !unitOf 0 e then .refused .illFormed else
  ringDo s r e 0x40 fun s =>
    if unitBad 0 e then cmdComp s r e 0x06 (entHandle e)
    else if (raf s (entRaf e)).st ≠ .frozen then cmdComp s r e 0x04 (entHandle e)
    else thawRafterNow (cmdComp s r e 0 (entHandle e)) (entRaf e)

/-- THAW_CHANNEL: the channel becomes IDLE and its descriptors end with CLEARED. -/
def execThawChannel (r : Fin 16) (e : Entry) (s : State) : Out :=
  if !unitOf 1 e then .refused .illFormed else
  ringDo s r e 0x40 fun s =>
    let x := raf s (entRaf e)
    if unitBad 1 e then cmdComp s r e 0x06 (entHandle e)
    else if (chan x (entCh e)).st ≠ .frozen ∨ x.st = .retired then cmdComp s r e 0x04 (entHandle e)
    else modRaf (cmdComp s r e 0 (entHandle e)) (entRaf e) fun x => clearChanIn x (entCh e)

/-- THAW_VALLEY: the end is LIVE again (R415). -/
def execThawValley (r : Fin 16) (e : Entry) (s : State) : Out :=
  if !unitOf 2 e then .refused .illFormed else
  ringDo s r e 0x40 fun s =>
    match (if fld e.w1 62 2 = 2 then endOfHandle s (entHandle e) else some 0) with
    | none => cmdComp s r e 0x03 (entHandle e)
    | some i =>
      if unitBad 2 e then cmdComp s r e 0x06 (entHandle e)
      else if (vend s i).st ≠ .frozen then cmdComp s r e 0x04 (entHandle e)
      else modVend (cmdComp s r e 0 (entHandle e)) i fun v => { v with st := .live, cause := 0 }

/-- RETIRE_RAFTER: retirement at run time (R442). -/
def execRetireRafter (r : Fin 16) (e : Entry) (s : State) : Out :=
  if !unitOf 0 e then .refused .illFormed else
  ringDo s r e 0x41 fun s =>
    let n := entRaf e
    if unitBad 0 e then cmdComp s r e 0x06 (entHandle e)
    else if (raf s n).st = .retired ∨ retired s n = true then cmdComp s r e 0x04 (entHandle e)
    else retireRafter (cmdComp s r e 0 (entHandle e)) n 3

/-- RETIRE_CHANNEL: the rafter that holds the FROZEN channel is retired. -/
def execRetireChannel (r : Fin 16) (e : Entry) (s : State) : Out :=
  if !unitOf 1 e then .refused .illFormed else
  ringDo s r e 0x41 fun s =>
    let x := raf s (entRaf e)
    if unitBad 1 e then cmdComp s r e 0x06 (entHandle e)
    else if (chan x (entCh e)).st ≠ .frozen then cmdComp s r e 0x04 (entHandle e)
    else retireRafter (cmdComp s r e 0 (entHandle e)) (entRaf e) 3

/-- RETIRE_VALLEY: the FROZEN end is CLOSED with cause LOCAL. -/
def execRetireValley (r : Fin 16) (e : Entry) (s : State) : Out :=
  if !unitOf 2 e then .refused .illFormed else
  ringDo s r e 0x41 fun s =>
    match (if fld e.w1 62 2 = 2 then endOfHandle s (entHandle e) else some 0) with
    | none => cmdComp s r e 0x03 (entHandle e)
    | some i =>
      if unitBad 2 e then cmdComp s r e 0x06 (entHandle e)
      else if (vend s i).st ≠ .frozen then cmdComp s r e 0x04 (entHandle e)
      else closeEnd (cmdComp s r e 0 (entHandle e)) i 1 true

/-! ## ATTEST (R507-R509) -/

/-- ATTEST: the security engine serves one at a time; another waits, and leaves the state as it is (assumption
log 17). -/
def execAttest (r : Fin 16) (e : Entry) (s : State) : Out :=
  if s.sec.attest.isSome && ringOp 0x50 e && (early s 0x50 e).isNone then .next s else
  ringDo s r e 0x50 fun s =>
    if fld e.w5 0 12 ≠ 0 then cmdComp s r e 0x06 (entHandle e)
    else if !rbit s .secStat 0 63 then cmdComp s r e 0x04 (entHandle e)
    else { s with sec := { s.sec with attest := some {
        ring := r, cmdid := BitVec.ofNat 16 (fld e.w0 32 16), nonce := e.w4 ++ e.w3 ++ e.w2 ++ e.w1,
        dest := e.w5 } } }

/-- The report of R508 before its signature; a field of a step that has not been reached is 0 (R509). -/
def reportBody (s : State) (nonce : BitVec 256) : List Byte :=
  let b := s.boot
  let ms := (b.progs.map (·.meas)).filter (· ≠ 0)
  let st := rg s .secStat
  let grade := mkWord [(16, 16, rf s .pwrCtl 0 28 10), (4, 12, rf s .pwrCtl 0 16 12),
    (0, 4, popcount (gradeSlates s.fuses.grade).toNat 8)]
  let fuse := mkWord [(8, 4, fld st 50 4), (4, 4, fld st 54 4), (0, 4, fld st 58 4)]
  let stat := mkWord [(60, 4, bootStep s), (56, 2, rf s .sysState 0 0 2), (55, 1, fld st 62 1), (0, 9, if b.live then liveCount s else 0)]
  natBytes 1 4 ++ natBytes (0x1E8 + 64 * ms.length) 4 ++ natBytes s.fuses.serial.toNat 16 ++
  natBytes (devId s) 2 ++ natBytes (rf s .bootStat 0 57 1) 1 ++ natBytes (rf s .bootStat 0 55 1) 1 ++
  natBytes (if attended s then 0xFF else b.owner.toNat) 1 ++ natBytes (if attended s then 0xFF else b.svn.toNat) 1 ++
  natBytes (fld st 43 7) 1 ++ natBytes ms.length 1 ++ wordsBytes [grade, fuse, stat, nowR s] ++
  natBytes nonce.toNat 32 ++ natBytes b.mRom.toNat 64 ++ natBytes b.mRfw.toNat 64 ++ natBytes b.mImage.toNat 64 ++
  natBytes (if attended s then 0 else b.mSigner.toNat) 64 ++ ms.flatMap fun m => natBytes m.toNat 64

/-- The signature field of a report (R508): the 132 bytes of r and s, and 4 zero bytes (R499). -/
def sigField (sig : List Byte) : List Byte := (sig ++ List.replicate 132 0).take 132 ++ List.replicate 4 0

/-- ATTEST_REPORT_DONE: the report is written to DEST, then the completion with LENGTH (R507); it is not served after a stop
(R456). -/
def execAttestReportDone (s : State) : Out :=
  if stopped s then .fault .notPossible else
  match s.sec.attest with
  | none => .fault .notPossible
  | some a =>
    let (s, d) := takeFree s
    let body := reportBody s a.nonce
    let sig := sigField (Config.identitySign (Config.unwrapKey s.fuses.idPriv) d.toNat (sha512 body))
    let s := hostSend { s with sec := { s.sec with attest := none } } (.mwr a.dest (body ++ sig))
    .next (ringFetch (putComp s {
      ring := a.ring, kind := 0x01, status := 0, cmdid := a.cmdid.toNat, handle := 0,
      w2 := BitVec.ofNat 64 (body.length + 136), time := nowT s }))

/-- ILLEGAL_OP: an OP that R107 does not list; it too waits with its ring's flow (R446). -/
def execIllegalOp (r : Fin 16) (e : Entry) (s : State) : Out :=
  if listedOp (fld e.w0 56 8) then .refused .illFormed
  else if !ringOn s r || stopped s then .fault .notPossible
  else if flowWaits s (.ring r) then .next s
  else .next (ringFetch (cmdComp (takeArrived s r e) r e 0x02 (entHandle e)))

end Sys2Proof.Machine
end

