-- ==== Sys2Proof/Machine/Spar.lean ====
section
/-! DEFINITION. The device space as a rafter reaches it (R11, R126), and its spar port: the reads and writes that wait, the
request table, the replay buffer (R145, R146), and the instruction buffer (R116). -/

namespace Sys2Proof.Machine

/-! ## The device space -/

/-- Reads words of register space as rafter `n` does; `k` words. -/
def regWords (s : State) (n a : Nat) : Nat → State × List Byte
  | 0 => (s, [])
  | k + 1 =>
    let (s, v) := regRead8 s (.rafter (Fin.ofNat 256 n)) a
    let (s, bs) := regWords s n (a + 8) k
    (s, wordBytes v ++ bs)

/-- Writes words of register space as rafter `n` does. -/
def regWordsPut (s : State) (n a : Nat) : List Word → State
  | [] => s
  | v :: vs => regWordsPut (regWrite s (.rafter (Fin.ofNat 256 n)) a 8 v) n (a + 8) vs

/-- A read of whole bytes of the device space (R11): the first uncorrectable word is named. -/
def spaceRead (s : State) (n a len : Nat) (acc : Acc) : State × List Byte × Option Nat :=
  if isRegs a then
    let (s, bs) := regWords s n (a / 8 * 8) ((a % 8 + len + 7) / 8)
    (s, (bs.drop (a % 8)).take len, none)
  else devRead s a len acc

/-- A write of whole bytes of register space. A register takes only whole words (R526). -/
def regBytesPut (s : State) (n a : Nat) (bs : List Byte) : State :=
  if a % 8 = 0 ∧ bs.length % 8 = 0 then regWordsPut s n a (bytesWords bs (bs.length / 8))
  else regWrite s (.rafter (Fin.ofNat 256 n)) a bs.length (bytesWord bs)

/-- A write of runs of bytes of the device space: in a bay, narrow writes to one word are merged (R287). -/
def spaceRuns (s : State) (n : Nat) (runs : List (Nat × List Byte)) (acc : Acc) : State :=
  let s := devRuns s (runs.filter fun r => !isRegs r.1) acc
  (runs.filter fun r => isRegs r.1).foldl (fun s r => regBytesPut s n r.1 r.2) s

/-! ## The channel (R20, R140, R293) -/

/-- The spar port sends nothing new: its channel is paused by a lane test (R292, R294), or write beats wait to be re-issued,
which no later request overtakes (R146). -/
def portHeld (s : State) (n : Nat) : Bool :=
  (sparOf s n).testing.isSome || (raf s n).beats.any fun b => !b.done

/-- A write beat that waits came before the read (R146). -/
def readAfter (r : Rafter) (q : RdReq) : Bool := r.beats.any fun b => !b.done && !b.after.contains q

/-- Where an access is served: its bay, by number; 256 for the registers. -/
def placeOf (a : Nat) : Nat := if isBay a then bayOf a else if isHbm a then homeOf a else 256

/-! ## The request table (R145) -/

/-- Device reads of a source must wait: the channel is paused, write beats that came before them wait (R146), or a bay or a
controller cannot serve them now. -/
def readHeld (s : State) (n cls : Nat) (l : List RdReq) : Bool :=
  (sparOf s n).testing.isSome || l.any fun q => readAfter (raf s n) q || rangeHeld s q.addr q.len cls

/-- The request table has room for the reads of a source, or holds them already. -/
def tableRoom (r : Rafter) (l : List RdReq) : Bool :=
  decide ((r.reads.filter fun q => !l.contains q).length + l.length ≤ 64)

/-- Reads of a source that must wait stand in the request table, where it has room (R145). -/
def askRead (s : State) (n : Nat) (l : List RdReq) : State :=
  if tableRoom (raf s n) l then
    modRaf s n fun r => { r with reads := r.reads ++ l.filter fun q => !r.reads.contains q }
  else s

/-- The reads of a source are served (R145). -/
def endRead (s : State) (n : Nat) (x : RdSrc) : State :=
  if (raf s n).reads.any fun q => q.src = x then modRaf s n fun r => dropReads r x else s

/-- A source's reads wait, asked for where the table has room; none where they can be served now (R145, R302). -/
def readWaits (s : State) (n cls : Nat) (l : List RdReq) : Option State :=
  if readHeld s n cls l || !tableRoom (raf s n) l then some (askRead s n l) else none

/-- The read of a line of a range that a channel moves to a valley, by the ranges' addresses and lengths: its lines go
through the request table one after another, and the first of them waits while any byte cannot be read (R145, R302). -/
def packetWaits (s : State) (n c : Nat) (ps : List (Nat × Nat)) : Option State :=
  let cls := (chanAcc s n c).cls
  match ps with
  | [] => none
  | p :: _ =>
    let q : RdReq := { src := .chan c, addr := p.1, len := min p.2 (256 - p.1 % 256) }
    if ps.any fun p => rangeHeld s p.1 p.2 cls then some (askRead s n [q]) else readWaits s n cls [q]

/-! ## The replay buffer (R145, R146) -/

/-- The attributes of a write beat (R288, R317). -/
def beatAcc (s : State) (n : Nat) (b : Beat) : Acc :=
  match b.chan with
  | some c => chanAcc s n c
  | none => if b.yslot.isSome then ylmAcc s n else rafAcc s n

/-- Performs the bytes of a write beat. -/
def performBeat (s : State) (n : Nat) (b : Beat) : State := spaceRuns s n b.runs (beatAcc s n b)

/-- A write beat that cannot be served now: the channel is paused, a read that came before it waits (R146), or its bay or
controller takes nothing. -/
def beatHeld (s : State) (n : Nat) (b : Beat) : Bool :=
  (sparOf s n).testing.isSome || (b.after.any fun q => (raf s n).reads.contains q) ||
    b.runs.any fun r => rangeHeld s r.1 r.2.length (beatAcc s n b).cls

/-- The bytes of a write beat. -/
def beatBytes (b : Beat) : Nat := (b.runs.map fun r => r.2.length).sum

/-- A write beat is issued: it is performed at once unless it, or an earlier one, must wait (R146), and kept until it is
acknowledged. -/
def issueBeat (s : State) (n : Nat) (b : Beat) : State :=
  let b := { b with after := (raf s n).reads.filter fun q => b.runs.any fun r => placeOf r.1 = placeOf q.addr }
  let held := portHeld s n || beatHeld s n b
  let s := if held then s else performBeat s n b
  writeBeats (modRaf s n fun r => { r with beats := r.beats ++ [{ b with done := !held }] }) n (beatBytes b)

/-- The first write beats that wait are re-issued in their order, as far as they can be served (R146); `f` bounds their
number. -/
def redoBeats (s : State) (n : Nat) : Nat → State
  | 0 => s
  | f + 1 =>
    match (raf s n).beats.findIdx? fun b => !b.done with
    | none => s
    | some i =>
      let b := nth (raf s n).beats i { runs := [], done := true }
      if beatHeld s n b then s
      else redoBeats (modRaf (performBeat s n b) n fun r => { r with beats := r.beats.set i { b with done := true } }) n f

/-- A rafter's port re-issues what was withdrawn from it (R146). -/
def redoPort (s : State) (n : Nat) : State := redoBeats s n 64

/-- Every rafter's port re-issues what was withdrawn from it (R146). -/
def redoPorts (s : State) : State := (s.rafters.map Prod.fst).foldl redoPort s

/-- Bytes cut into write beats of at most 128 bytes, at their places (R145). -/
def beatRuns (a : Nat) (bs : List Byte) : Nat → List (Nat × List Byte)
  | 0 => []
  | f + 1 => if bs.isEmpty then [] else
    let k := 128 - a % 128
    (a, bs.take k) :: beatRuns (a + k) (bs.drop k) f

/-! ## What a valley packet carries (R417) -/

/-- The data of a packet, read where the source says (R417, R445); none where a word is uncorrectable, with
its address. The kind of a descriptor's range is 0 STORE, 1 DEVICE, or 2 BAY, with the bay in the address's bits
[39:32] (R273); what a channel moves crosses its spar channel, to the rafter where the source is outside and from it to the
valley (R20, R140), and a register range is read as registers. R317 gives valley egress no class: a gate dispatch's input is read under the gate unit's, a page under the
session engine's (assumption log 72). -/
def srcBytes (s : State) : VSrc → State × List Byte × Option Nat
  | .bytes bs => (s, bs, none)
  | .chan n c kind addr len =>
    let s := writeBeats s n len
    if kind = 0 then (s, readBytes (raf s n).store addr len, none)
    else
      let s := readBeats (endRead s n (.chan c)) n len
      if kind = 2 then bayRead s (addr / 2 ^ 32) (addr % 2 ^ 32) len (chanAcc s n c)
      else spaceRead s n addr len (chanAcc s n c)
  | .mig slot page off len =>
    let (s, bs, bad) := devRead s (pageAddr s (nth (ses s slot).pages page 0) + off) len (sesAcc s)
    (s, natBytes page 4 ++ natBytes off 4 ++ List.replicate 56 0 ++ bs, bad)
  | .gate _ hdr addr len =>
    let (s, bs, bad) := devRead s addr len (gateAcc s)
    (s, hdr ++ bs, bad)

/-- A packet's source cannot be read now, so that the packet waits where it is (R145, R292, R302, R315, R321): the state with
a channel's read asked for. -/
def srcHeld (s : State) : VSrc → Option State
  | .bytes _ => none
  | .chan n c kind addr len =>
    if kind = 0 then (if (sparOf s n).testing.isSome then some s else none)
    else packetWaits s n c (if kind = 2 then bayRuns (addr / 2 ^ 32) (addr % 2 ^ 32) len (len / 4096 + 2) else [(addr, len)])
  | .mig slot page off len =>
    if rangeHeld s (pageAddr s (nth (ses s slot).pages page 0) + off) len (sesAcc s).cls then some s else none
  | .gate _ _ addr len => if rangeHeld s addr len (gateAcc s).cls then some s else none

/-! ## The instruction buffer (R116) -/

/-- Whether the instruction buffer holds the line of an image offset. -/
def buffered (s : State) (n o : Nat) : Bool := (raf s n).ibuf.contains (lineOf (imgAddr s n o))

/-- What a fetch meets: it must wait, asked for where the request table has room; the word is uncorrectable; it is there. -/
inductive Fetch
  | hold (s : State)
  | bad (s : State)
  | ok (s : State)

/-- The line at a bay-space address enters the instruction buffer, whose 256 lines give way oldest first. A line with an
uncorrectable word is not kept (assumption log 60). -/
def keepLine (s : State) (n l : Nat) : State :=
  if (badWords s l).isEmpty then
    modRaf s n fun r => { r with ibuf := (r.ibuf ++ [l]).drop (r.ibuf.length + 1 - 256) }
  else s

/-- The line of an image offset comes over the spar channel into the instruction buffer, after a miss that source 0x010
counts (R116, R288, R515): an array access of the rafter's own bay. -/
def fetchMiss (s : State) (n o : Nat) : State :=
  let a := imgAddr s n o
  let s := countR s n 0x010 1
  keepLine (readBeats (arrayRead s (lineOf a) 0 { rafAcc s n with cons := 1 } true) n 256) n (lineOf a)

/-- The read by which an instruction at an image offset is fetched, for the sequencer or for yealm slot `y` (R116, R145). -/
def codeReq (s : State) (n : Nat) (y : Option Nat) (o : Nat) : RdReq :=
  { src := .code y, addr := lineOf (imgAddr s n o), len := 256 }

/-- The instruction word at an image offset is fetched for the sequencer or for yealm slot `y`, from the instruction buffer or,
a line at a time, over the spar channel, where the read may have to wait in the request table (R116, R145). -/
def fetch (s : State) (n : Nat) (y : Option Nat) (o : Nat) : Fetch :=
  if buffered s n o then .ok s
  else
    match readWaits s n (rafAcc s n).cls [codeReq s n y o] with
    | some t => .hold t
    | none =>
      let t := fetchMiss (endRead s n (.code y)) n o
      if badAt s (imgAddr s n o) then .bad t else .ok t

end Sys2Proof.Machine
end

