-- ==== Sys2Proof/Machine/Operands.lean ====
section
/-! DEFINITION. The operand forms of the rafter instruction set (R254-R257, R260), the store space (R115), and the issue of a
sequencer instruction. -/

namespace Sys2Proof.Machine

/-! ## Fields of an instruction word (R255) -/

/-- RD. -/
def iRd (w : Word) : Nat := fld w 45 6

/-- RA. -/
def iRa (w : Word) : Nat := fld w 39 6

/-- RB. -/
def iRb (w : Word) : Nat := fld w 33 6

/-- RC. -/
def iRc (w : Word) : Nat := fld w 27 6

/-- The sign-extended IMM. -/
def iImm (w : Word) : Word := BitVec.ofInt 64 (sext 39 (fld w 0 39))

/-- The sign-extended OFF of MEM. -/
def iOff (w : Word) : Word := BitVec.ofInt 64 (sext 32 (fld w 0 32))

/-- The width in bytes that W of MEM selects. -/
def iWidth (w : Word) : Nat := 2 ^ fld w 37 2

/-- TGT. -/
def iTgt (w : Word) : BitVec 20 := BitVec.ofNat 20 (fld w 0 20)

/-- What an operation allows (R255-R257): its LONG, the bits of [50:0] it defines, the low bit positions of the
register fields it uses, and who may issue it. -/
structure Form where
  long : Bool := false
  mask : Word
  regs : List Nat := []
  s    : Bool := false
  t    : Bool := false
  deriving DecidableEq, Repr

/-- The bits of some register fields. -/
def regMask (l : List Nat) : Word := l.foldl (fun m p => m ||| maskOf p 6) 0

/-- A form from its register fields and its other bits. -/
def mkForm (regs : List Nat) (other : Word) (s t : Bool) (long : Bool := false) : Form :=
  { long := long, mask := regMask regs ||| other, regs := regs, s := s, t := t }

/-- A REG operation of the scalar class: RD, RA, RB. -/
def formR3 : Form := mkForm [45, 39, 33] 0 true true

/-- SEL. -/
def formR4 : Form := mkForm [45, 39, 33, 27] 0 true true

/-- An IMM operation. -/
def formImm : Form := mkForm [45, 39] (maskOf 0 39) true true

/-- A shift by an immediate: IMM[5:0] (R260). -/
def formShift : Form := mkForm [45, 39] (maskOf 0 6) true true

/-- A conditional branch: RA, RB, TGT[19:3] (R262). -/
def formBr : Form := mkForm [39, 33] (maskOf 3 17) true true

/-- A MEM operation, with SX as `sx` allows. -/
def formMem (s t : Bool) (sx : Bool) : Form :=
  mkForm [45, 39] (maskOf 37 2 ||| maskOf 36 1 ||| (if sx then maskOf 35 1 else 0) ||| maskOf 0 32) s t

/-- Whether an instruction word is legal for its operation and its issuer (R257). -/
def legalForm (f : Form) (thread : Bool) (w : Word) : Bool :=
  assigned w && (bitOf w 51 == f.long) && decide (w &&& maskOf 0 51 &&& ~~~f.mask = 0) &&
  (if thread then f.t && f.regs.all fun p => decide (fld w p 6 < 32) else f.s)

/-! ## The store space (R115) -/

/-- Whether a program may read (or write) `n` bytes of the store from offset `a`: the data area and the notice words, and
for a read the batch slots and the trap frame too. An access that lies across areas that allow it meets no range fault; a
misaligned one in the notice words, which R131's example of a misaligned access outside the data area does not name, is left
to ALIGN (DEDUCED, assumption log 65). -/
def storeOk (a n : Nat) (write : Bool) : Bool :=
  if write then decide (a + n ≤ 0xEC000) || decide (0xEE000 ≤ a ∧ a + n ≤ 0xEF000) else decide (a + n ≤ 0xEF100)

/-- The data area holds a whole range (R159, R264). -/
def inData (a n : Nat) : Bool := decide (a + n ≤ 0xEC000)

/-! ## Issue by the sequencer -/

/-- What an instruction does at the sequencer: the state after it; or the trap it takes, with the state in which
it takes it; or that it waits, its reads perhaps asked for. -/
inductive SOut
  | go (s : State)
  | trap (s : State) (cause detail : Nat) (addr : Word)
  | trapAt (s : State) (t : Trap)
  | hold (s : State)

/-- Whether the sequencer can issue (R121, R123). -/
def seqReady (s : State) (n : Nat) : Bool :=
  !stopped s && decide ((raf s n).st = .run ∨ (raf s n).st = .handler) && decide ((raf s n).wait = .none)

/-- The PC moves past an instruction (R254). DESIGN CHOICE (assumption log 38): past the last word of a 1 MiB image it goes on at
0, with no FETCH_RANGE of its own. -/
def pcNext (r : Rafter) (long : Bool) : Rafter := { r with pc := r.pc + (if long then 16 else 8) }

/-- A trap of the fetch at the PC of rafter `n`: FETCH_RANGE, UE_FETCH, ILLEGAL. The extension word of an ILLEGAL instruction
is not recorded (DESIGN CHOICE, assumption log 66). -/
def fetchTrap (s : State) (n cause : Nat) (addr : Nat) (i j : Word) : Out :=
  .next (takeTrap s n { cause := cause, pc := (raf s n).pc, addr := BitVec.ofNat 64 addr, insn := i, insnh := j })

/-- The effect of a fetched and legal instruction (R131). -/
def seqEff (s : State) (n : Nat) (w h : Word) (eff : State → SOut) : Out :=
  match eff s with
  | .go t => .next (countR t n 0x002 1)
  | .trap t c dt a => .next (takeTrap t n {
      cause := c, detail := dt, pc := (raf s n).pc, addr := a, insn := w, insnh := h })
  | .trapAt t x => .next (takeTrap t n x)
  | .hold t => .next t

/-- The extension word of a 128-bit instruction is fetched, and the instruction has its effect (R254). -/
def seqLong (s : State) (n : Nat) (w ext : Word) (eff : State → SOut) : Out :=
  let o := (raf s n).pc.toNat + 8
  if (raf s n).size.toNat ≤ o then let (t, d) := takeFree s; fetchTrap t n 0x02 0 w d
  else
    match fetch s n none o with
    | .hold t => .next t
    | .bad t => let (t, d) := takeFree t; fetchTrap t n 0x03 (imgAddr s n o) w d
    | .ok t => seqEff t n w ext eff

/-- The sequencer of rafter `n` issues the instruction fetched at PC, `w` with extension word `ext`. Traps of the
fetch and ILLEGAL come first (R131, R254, R257); an instruction that waits has no effect yet (assumption log 17). Bits of an
instruction that could not be fetched are open. -/
def seqDo (s : State) (n : Nat) (w ext : Word) (f : Form) (bad : Bool) (eff : State → SOut) : Out :=
  let o := (raf s n).pc.toNat
  if !seqReady s n then .fault .notPossible
  else if (raf s n).size.toNat ≤ o then let (t, d) := takeFree s; fetchTrap t n 0x02 0 d 0
  else
    match fetch s n none o with
    | .hold t => .next t
    | .bad t => let (t, d) := takeFree t; fetchTrap t n 0x03 (imgAddr s n o) d 0
    | .ok t =>
      if !legalForm f false w || bad then fetchTrap t n 0x01 0 w 0
      else if f.long then seqLong t n w ext eff else seqEff t n w 0 eff

/-- An instruction that the sequencer may not issue, or a form of it, is ILLEGAL (R257, R231). -/
def seqIllegal (s : State) (n : Nat) (w : Word) (f : Form) : Out := seqDo s n w 0 { f with s := false } true fun s => .go s

end Sys2Proof.Machine
end

