-- ==== Sys2Proof/Machine/Thread.lean ====
section
/-! DEFINITION. The yealm engine (R215-R230, R248-R251): threads and their registers, the convergence scheduler,
barriers, yealm traps, and the issue of a thread instruction. -/

namespace Sys2Proof.Machine

/-! ## Threads (R215, R216) -/

/-- Thread `i` of a slot; one that was never started counts as exited. -/
def thr (x : YSlot) (i : Nat) : Thread := tget {} x.thr i

/-- The slot with thread `i` replaced. -/
def setThr (x : YSlot) (i : Nat) (t : Thread) : YSlot := { x with thr := tput {} x.thr i t }

/-- A thread register; t0 reads as zero. -/
def treg (t : Thread) (i : Nat) : Word := if i = 0 then 0 else tget 0 t.regs i

/-- The thread with a register written; a write to t0 is ignored. -/
def setTreg (t : Thread) (i : Nat) (v : Word) : Thread := if i = 0 then t else { t with regs := tput 0 t.regs i v }

/-- A set of threads as a mask. -/
def thrMask (l : List Nat) : BitVec 32 := BitVec.ofNat 32 (l.foldl (fun a i => a + 2 ^ i) 0)

/-- A thread as a launch starts it (R216). -/
def startThread (l : Launch) (i : Nat) : Thread :=
  { pc := l.entry, exited := false,
    regs := tput 0 (tput 0 (tput 0 [] 1 (BitVec.ofNat 64 i)) 2 l.arg) 3 (BitVec.ofNat 64 l.slot) }

/-! ## The scheduler (R227) -/

/-- Threads that have not exited. -/
def yAlive (x : YSlot) : List Nat := idxs 32 fun i => !(thr x i).exited

/-- Threads that have not exited and are not held at YBAR. -/
def yLive (x : YSlot) : List Nat := idxs 32 fun i => !(thr x i).exited && !(thr x i).held

/-- The choice of R227: the slot with its scheduler state brought up to date, the live threads, the subset and
its program counter. -/
def yPick (x : YSlot) : Option (YSlot × List Nat × List Nat × BitVec 20) :=
  let live := yLive x
  let free := live.filter fun i => !x.barred.getLsbD i
  let (x, cand) := if free.isEmpty then ({ x with barred := 0 }, live) else (x, free)
  match leastBy (fun i => (thr x i).pc.toNat) cand with
  | none => none
  | some l =>
    let pc := (thr x l).pc
    let sub := cand.filter fun i => (thr x i).pc = pc
    let x := if thrMask sub = x.lastS then x else { x with count := 0, watch := none }
    some (x, live, sub, pc)

/-- What R227 does after a subset has issued at `pc`; `back` are the threads that took a backward branch. -/
def afterIssue (x : YSlot) (live sub : List Nat) (pc : BitVec 20) (back : List Nat) : YSlot :=
  let x : YSlot := { x with lastS := thrMask sub }
  let x : YSlot := if x.barred = 0 then x
    else if x.window + 1 = 64 then { x with window := 64, barred := 0 }
    else { x with window := x.window + 1 }
  if back.isEmpty then x else
  let x : YSlot := if x.watch = none then { x with watch := some pc } else x
  if x.watch ≠ some pc then x else
  let x : YSlot := { x with count := x.count + 1 }
  if x.count = 64 ∧ (live.any fun i => !sub.contains i) = true then
    { x with barred := thrMask back, window := 0, count := 0, watch := none }
  else x

/-! ## Yealm traps (R248-R251) -/

/-- Word 6 of YDETAIL (R251). -/
def yDetail (y : Nat) (x : YSlot) : Word :=
  mkWord [(56, 8, x.cause.toNat), (52, 4, y), (32, 20, x.tpc.toNat), (0, 32, x.tmask.toNat)]

/-- A slot with what its trap records. -/
def yFault (x : YSlot) (cause : Nat) (ts : List Nat) (pc : BitVec 20) (addr : Word) : YSlot :=
  { x with cause := BitVec.ofNat 8 cause, tpc := pc, tmask := thrMask ts, taddr := addr }

/-- A yealm traps: its slot becomes TRAPPED. -/
def yTrap (s : State) (n y : Nat) (x : YSlot) (cause : Nat) (ts : List Nat) (pc : BitVec 20) (addr : Word) : State :=
  modRaf s n fun r => setYslot (dropYealm r y) y { yFault x cause ts pc addr with st := .trapped }

/-- The offset of the next sequencer instruction to issue: after the one in which the sequencer waits. -/
def nextPc (r : Rafter) : BitVec 20 :=
  match r.wait with
  | .none => r.pc
  | .poll _ _ _ long _ => r.pc + (if long then 16 else 8)
  | _ => r.pc + 8

/-- A yealm's violation freezes the rafter at once (R250): the frame names the slot and the next sequencer
instruction (R251). -/
def yFreeze (s : State) (n y : Nat) (x : YSlot) (cause : Nat) (ts : List Nat) (pc : BitVec 20) (addr : Word) : State :=
  let r := raf s n
  let x := yFault x cause ts pc addr
  let p := nextPc r
  let i := insnAt s n p.toNat
  let s := writeFrame s n {
    cause := cause, detail := y, pc := p, addr := addr, insn := i.1, insnh := i.2, y6 := yDetail y x, y7 := addr }
  freezeRafter (countR (modRaf s n fun r => setYslot r y x) n 0x00C 1) n cause

/-- The trap YEALM at the sequencer instruction `w`, for slot `y` (R222, R225, R249, R251). -/
def yealmTrap (s : State) (n y : Nat) (w : Word) : Trap :=
  let r := raf s n
  let x := yslot r y
  { cause := 0x09, detail := y, pc := r.pc, addr := x.taddr, insn := w, y6 := yDetail y x, y7 := x.taddr }

/-! ## Barriers (R230) -/

/-- Once every live thread is held: released together at one program counter, else the trap BARRIER. -/
def barrier (s : State) (n y : Nat) : State :=
  let x := yslot (raf s n) y
  let alive := yAlive x
  if alive.isEmpty ∨ (alive.any fun i => !(thr x i).held) = true then s
  else
    let pcs := (alive.map fun i => (thr x i).pc).dedup
    match pcs with
    | [pc] => modRaf s n fun r => setYslot r y
        (alive.foldl (fun x i => setThr x i { thr x i with held := false, pc := pc + 8 }) x)
    | _ =>
      let low := (leastBy (fun (p : BitVec 20) => p.toNat) pcs).getD 0
      yTrap s n y x 0x0B alive low 0

/-! ## Issue by a thread (R227, R248, R254, R257) -/

/-- What an instruction does in a yealm: the state, the slot, and the threads that took a backward branch; or the
cause, the threads that meet it and the address of the lowest of them; or it cannot issue yet, its reads perhaps asked
for. -/
inductive YOut
  | go (s : State) (x : YSlot) (back : List Nat)
  | trap (s : State) (cause : Nat) (ts : List Nat) (addr : Word)
  | hold (s : State)

/-- Whether slot `y` of rafter `n` runs: one that YKILL has stopped issues nothing more (R223). -/
def yRuns (s : State) (n y : Nat) : Bool :=
  !stopped s && decide ((raf s n).st = .run ∨ (raf s n).st = .handler) && decide ((yslot (raf s n) y).st = .run) &&
    !(yslot (raf s n) y).killed

/-- What R227 has picked in a slot: the slot, its live threads, the subset and its program counter. -/
structure Picked where
  x    : YSlot
  live : List Nat
  sub  : List Nat
  pc   : BitVec 20

/-- The effect of a fetched and legal thread instruction (R227, R248, R250). -/
def thrEff (s : State) (n y : Nat) (k : Picked) (eff : State → YSlot → List Nat → BitVec 20 → YOut) : Out :=
  match eff s k.x k.sub k.pc with
  | .hold t => .next t
  | .trap t c ts a => if 0x10 ≤ c then .next (yFreeze t n y k.x c ts k.pc a) else .next (yTrap t n y k.x c ts k.pc a)
  | .go t x back =>
    let x := { afterIssue x k.live k.sub k.pc back with issued := satAdd 32 x.issued 1 }
    let t := modRaf t n fun r => { setYslot r y x with ylast := y }
    .next (barrier (countR t n 0x007 1) n y)

/-- The extension word of a 128-bit thread instruction is fetched, and the instruction has its effect (R254). -/
def thrLong (s : State) (n y : Nat) (k : Picked) (eff : State → YSlot → List Nat → BitVec 20 → YOut) : Out :=
  let o := k.pc.toNat + 8
  if (raf s n).size.toNat ≤ o then .next (yTrap s n y k.x 0x02 k.sub k.pc 0)
  else
    match fetch s n (some y) o with
    | .hold t => .next t
    | .bad t => .next (yTrap t n y k.x 0x03 k.sub k.pc (BitVec.ofNat 64 (imgAddr s n o)))
    | .ok t => thrEff t n y k eff

/-- The yealm engine issues the instruction fetched at the picked subset's program counter. -/
def thrDo (s : State) (n y : Nat) (w : Word) (f : Form) (bad : Bool)
    (eff : State → YSlot → List Nat → BitVec 20 → YOut) : Out :=
  if !yRuns s n y then .fault .notPossible else
  match yPick (yslot (raf s n) y) with
  | none => .fault .notPossible
  | some (x, live, sub, pc) =>
    let k : Picked := { x := x, live := live, sub := sub, pc := pc }
    if (raf s n).size.toNat ≤ pc.toNat then .next (yTrap s n y x 0x02 sub pc 0)
    else
      match fetch s n (some y) pc.toNat with
      | .hold t => .next t
      | .bad t => .next (yTrap t n y x 0x03 sub pc (BitVec.ofNat 64 (imgAddr s n pc.toNat)))
      | .ok t =>
        if !legalForm f true w || bad then .next (yTrap t n y x 0x01 sub pc 0)
        else if f.long then thrLong t n y k eff else thrEff t n y k eff

/-- The sequencer barred from a thread operation (R231), and a thread barred from a sequencer operation. -/
def thrIllegal (s : State) (n y : Nat) (w : Word) (f : Form) : Out :=
  thrDo s n y w { f with t := false } true fun s _ _ _ => .hold s

/-- A subset moves past its instruction. -/
def subPast (x : YSlot) (sub : List Nat) (pc : BitVec 20) : YSlot :=
  sub.foldl (fun x i => setThr x i { thr x i with pc := pc }) x

/-- A register written in every thread of a subset: thread `i` gets the value listed for it. -/
def subWrite (x : YSlot) (rd : Nat) (vs : List (Nat × Word)) : YSlot :=
  vs.foldl (fun x v => setThr x v.1 (setTreg (thr x v.1) rd v.2)) x

/-! ## Instructions that compute one value (R259, R268) -/

/-- An instruction of both issuers that computes one value from its operands: `val` of ra, rb and rc, none where
it divides by zero (R260). -/
def execVal (cls op : Nat) (f : Form) (bad : Bool) (val : Word → Word → Word → Option Word) (i : Issuer)
    (w ext : Word) (s : State) : Out :=
  if !opIs cls op w then .refused .illFormed else
  match i with
  | .seq n =>
    seqDo s n w ext f bad fun s =>
      let r := raf s n
      match val (sreg r (iRa w)) (sreg r (iRb w)) (sreg r (iRc w)) with
      | some v => .go (modRaf s n fun r => pcNext (setSreg r (iRd w) v) f.long)
      | none => .trap s 0x06 0 0
  | .thr n y =>
    thrDo s n y w f bad fun s x sub pc =>
      let vs := sub.map fun i =>
        let t := thr x i
        (i, val (treg t (iRa w)) (treg t (iRb w)) (treg t (iRc w)))
      let zero := (vs.filter fun v => v.2.isNone).map Prod.fst
      if zero.isEmpty then
        let x := subWrite x (iRd w) (vs.map fun v => (v.1, v.2.getD 0))
        .go s (subPast x sub (pc + (if f.long then 16 else 8))) []
      else .trap s 0x06 zero 0

end Sys2Proof.Machine
end

