-- ==== Sys2Proof/Machine/Scalar.lean ====
section
/-! DEFINITION. The scalar class (R259, R260) but for its loads and stores, for both issuers. -/

namespace Sys2Proof.Machine

/-- A truth value as a register value. -/
def truth (b : Bool) : Word := if b then 1 else 0

/-- ADD (R259, R260): rd := ra + rb, modulo 2^64. -/
def execAdd (i : Issuer) (w : Word) (s : State) : Out :=
  execVal 1 0x00 formR3 false (fun a b _ => some (a + b)) i w 0 s

/-- SUB (R259, R260): rd := ra - rb. -/
def execSub (i : Issuer) (w : Word) (s : State) : Out :=
  execVal 1 0x01 formR3 false (fun a b _ => some (a - b)) i w 0 s

/-- AND (R259, R260): rd := ra and rb. -/
def execAnd (i : Issuer) (w : Word) (s : State) : Out :=
  execVal 1 0x02 formR3 false (fun a b _ => some (a &&& b)) i w 0 s

/-- OR (R259, R260): rd := ra or rb. -/
def execOr (i : Issuer) (w : Word) (s : State) : Out :=
  execVal 1 0x03 formR3 false (fun a b _ => some (a ||| b)) i w 0 s

/-- XOR (R259, R260): rd := ra xor rb. -/
def execXor (i : Issuer) (w : Word) (s : State) : Out :=
  execVal 1 0x04 formR3 false (fun a b _ => some (a ^^^ b)) i w 0 s

/-- SHL (R259, R260): a shift left by rb[5:0]. -/
def execShl (i : Issuer) (w : Word) (s : State) : Out :=
  execVal 1 0x05 formR3 false (fun a b _ => some (a <<< (b.toNat % 64))) i w 0 s

/-- SHR (R259, R260): a logical shift right by rb[5:0]. -/
def execShr (i : Issuer) (w : Word) (s : State) : Out :=
  execVal 1 0x06 formR3 false (fun a b _ => some (a >>> (b.toNat % 64))) i w 0 s

/-- SRA (R259, R260): an arithmetic shift right by rb[5:0]. -/
def execSra (i : Issuer) (w : Word) (s : State) : Out :=
  execVal 1 0x07 formR3 false (fun a b _ => some (a.sshiftRight (b.toNat % 64))) i w 0 s

/-- MUL (R259, R260): the low 64 bits of ra times rb. -/
def execMul (i : Issuer) (w : Word) (s : State) : Out :=
  execVal 1 0x08 formR3 false (fun a b _ => some (a * b)) i w 0 s

/-- DIVS (R259, R260): the signed quotient, rounded toward zero; -2^63 by -1 gives -2^63. -/
def execDivs (i : Issuer) (w : Word) (s : State) : Out :=
  execVal 1 0x09 formR3 false (fun a b _ => if b = 0 then none else some (a.sdiv b)) i w 0 s

/-- DIVU (R259, R260): the unsigned quotient. -/
def execDivu (i : Issuer) (w : Word) (s : State) : Out :=
  execVal 1 0x0A formR3 false (fun a b _ => if b = 0 then none else some (a / b)) i w 0 s

/-- REMS (R259, R260): the signed remainder, with the sign of ra. -/
def execRems (i : Issuer) (w : Word) (s : State) : Out :=
  execVal 1 0x0B formR3 false (fun a b _ => if b = 0 then none else some (a.srem b)) i w 0 s

/-- REMU (R259, R260): the unsigned remainder. -/
def execRemu (i : Issuer) (w : Word) (s : State) : Out :=
  execVal 1 0x0C formR3 false (fun a b _ => if b = 0 then none else some (a % b)) i w 0 s

/-- SLT (R259, R260): 1 if ra < rb signed, else 0. -/
def execSlt (i : Issuer) (w : Word) (s : State) : Out :=
  execVal 1 0x0D formR3 false (fun a b _ => some (truth (a.slt b))) i w 0 s

/-- SLTU (R259, R260): 1 if ra < rb unsigned, else 0. -/
def execSltu (i : Issuer) (w : Word) (s : State) : Out :=
  execVal 1 0x0E formR3 false (fun a b _ => some (truth (a.ult b))) i w 0 s

/-- SEQ (R259, R260): 1 if ra = rb, else 0. -/
def execSeq (i : Issuer) (w : Word) (s : State) : Out :=
  execVal 1 0x0F formR3 false (fun a b _ => some (truth (a == b))) i w 0 s

/-- SEL (R259): rd := ra if rc is not 0, else rb. -/
def execSel (i : Issuer) (w : Word) (s : State) : Out :=
  execVal 1 0x10 formR4 false (fun a b c => some (if c ≠ 0 then a else b)) i w 0 s

/-- ADDI (R259, R260). -/
def execAddi (i : Issuer) (w : Word) (s : State) : Out :=
  execVal 1 0x20 formImm false (fun a _ _ => some (a + iImm w)) i w 0 s

/-- SUBI (R259, R260). -/
def execSubi (i : Issuer) (w : Word) (s : State) : Out :=
  execVal 1 0x21 formImm false (fun a _ _ => some (a - iImm w)) i w 0 s

/-- ANDI (R259, R260). -/
def execAndi (i : Issuer) (w : Word) (s : State) : Out :=
  execVal 1 0x22 formImm false (fun a _ _ => some (a &&& iImm w)) i w 0 s

/-- ORI (R259, R260). -/
def execOri (i : Issuer) (w : Word) (s : State) : Out :=
  execVal 1 0x23 formImm false (fun a _ _ => some (a ||| iImm w)) i w 0 s

/-- XORI (R259, R260). -/
def execXori (i : Issuer) (w : Word) (s : State) : Out :=
  execVal 1 0x24 formImm false (fun a _ _ => some (a ^^^ iImm w)) i w 0 s

/-- SHLI (R259, R260). -/
def execShli (i : Issuer) (w : Word) (s : State) : Out :=
  execVal 1 0x25 formShift false (fun a _ _ => some (a <<< fld w 0 6)) i w 0 s

/-- SHRI (R259, R260). -/
def execShri (i : Issuer) (w : Word) (s : State) : Out :=
  execVal 1 0x26 formShift false (fun a _ _ => some (a >>> fld w 0 6)) i w 0 s

/-- SRAI (R259, R260). -/
def execSrai (i : Issuer) (w : Word) (s : State) : Out :=
  execVal 1 0x27 formShift false (fun a _ _ => some (a.sshiftRight (fld w 0 6))) i w 0 s

/-- SLTI (R259, R260). -/
def execSlti (i : Issuer) (w : Word) (s : State) : Out :=
  execVal 1 0x2D formImm false (fun a _ _ => some (truth (a.slt (iImm w)))) i w 0 s

/-- SLTUI (R259, R260). -/
def execSltui (i : Issuer) (w : Word) (s : State) : Out :=
  execVal 1 0x2E formImm false (fun a _ _ => some (truth (a.ult (iImm w)))) i w 0 s

/-- SEQI (R259, R260). -/
def execSeqi (i : Issuer) (w : Word) (s : State) : Out :=
  execVal 1 0x2F formImm false (fun a _ _ => some (truth (a == iImm w))) i w 0 s

/-- LI (R259): rd := EXT. -/
def execLi (i : Issuer) (w ext : Word) (s : State) : Out :=
  execVal 1 0x30 (mkForm [45] 0 true true true) false (fun _ _ _ => some ext) i w ext s

/-- TIME (R54, R259): the beacon value that the rafter holds. -/
def execTime (i : Issuer) (w : Word) (s : State) : Out :=
  execVal 1 0x31 (mkForm [45] 0 true true) false (fun _ _ _ => some (nowT s)) i w 0 s

/-- The rafter of an issuer. -/
def issuerRaf : Issuer → Nat
  | .seq n => n.val
  | .thr n _ => n.val

/-- RAFID (R259): the logical rafter number. -/
def execRafid (i : Issuer) (w : Word) (s : State) : Out :=
  execVal 1 0x32 (mkForm [45] 0 true true) false (fun _ _ _ => some (BitVec.ofNat 64 (issuerRaf i))) i w 0 s

end Sys2Proof.Machine
end

