-- ==== Sys2Proof/Machine/LoadStore.lean ====
section
/-! DEFINITION. The sequencer's loads and stores (R125, R126, R259, R260), the answers to the spar port's write beats (R145,
R146), the synchronisation class (R138, R139, R266) and the notice-poll class (R130, R267). -/

namespace Sys2Proof.Machine

/-! ## The spar port (R145, R146) -/

/-- A write beat that no yealm and no channel has issued is a device store of the sequencer (R138). -/
def seqStore (b : Beat) : Bool := b.yslot.isNone && b.chan.isNone

/-- Write beat `idx` leaves the replay buffer: the CADDs that wait for it count down (R138, R145). -/
def ackBeat (r : Rafter) (idx : Nat) (b : Beat) : Rafter :=
  { r with
    beats := r.beats.eraseIdx idx,
    cadds := if seqStore b then
        let rank := ((r.beats.take idx).filter seqStore).length
        r.cadds.map fun a => if rank < a.stores then { a with stores := a.stores - 1 } else a
      else r.cadds }

/-- SPAR_RESPONSE (R145, R146): the bay acknowledges write beat `idx`, or has answered it "withdrawn" and serves
it now that it is re-issued. The beats that wait are served in their order. -/
def execSparResponse (n : Fin 256) (idx : Nat) (withdrawn : Bool) (s : State) : Out :=
  let r := raf s n
  match r.beats[idx]? with
  | none => .fault .notPossible
  | some b =>
    if beatHeld s n b || (!b.done && ((r.beats.take idx).any fun e => !e.done)) || (withdrawn && b.done) then
      .fault .notPossible
    else .next (modRaf (if b.done then s else performBeat s n b) n fun r => ackBeat r idx b)

/-! ## LD and ST -/

/-- A loaded value, extended as SX says. -/
def loadExt (w : Word) (bs : List Byte) : Word :=
  if bitOf w 35 then BitVec.ofInt 64 (sext (8 * bs.length) (bytesNat bs)) else bytesWord bs

/-- The cause that a store-space access of `k` bytes at `a` meets (R115, R125, R131, R260). -/
def storeFault (a : Word) (k : Nat) (write : Bool) : Option Nat :=
  if fld a 20 44 ≠ 0 ∨ storeOk a.toNat k write = false then some 0x05
  else if a.toNat % k ≠ 0 then some 0x04 else none

/-- The cause that a device-space access of `k` bytes at `a` meets (R125, R126, R131, R260). -/
def deviceFault (s : State) (n : Nat) (a : Word) (k : Nat) (write : Bool) : Option Nat :=
  if fld a 40 24 ≠ 0 then some 0x10
  else
    let v := checkAccess s n a.toNat k write
    if v ≠ .ok then some (violCause v)
    else if a.toNat % k ≠ 0 then some 0x04 else none

/-- LD (R259, R260). -/
def execLd (i : Issuer) (w : Word) (s : State) : Out :=
  if !opIs 1 0x40 w then .refused .illFormed else
  match i with
  | .thr n y => thrIllegal s n y w (formMem true false true)
  | .seq n =>
    seqDo s n w 0 (formMem true false true) (decide (fld w 37 2 = 3) && bitOf w 35) fun s =>
      let r := raf s n
      let a := sreg r (iRa w) + iOff w
      let k := iWidth w
      let put := fun (s : State) (bs : List Byte) =>
        SOut.go (modRaf s n fun r => pcNext (setSreg r (iRd w) (loadExt w bs)) false)
      if bitOf w 36 then
        match deviceFault s n a k false with
        | some c => .trap s c 0 a
        | none =>
          match readWaits s n (rafAcc s n).cls [{ src := .seq, addr := a.toNat, len := k }] with
          | some t => .hold t
          | none =>
            let s := readBeats (endRead s n .seq) n k
            if isRegs a.toNat then
              let (s, v) := regRead s (.rafter n) a.toNat k
              put s ((wordBytes v).take k)
            else
              let (s, bs, bad) := devRead s a.toNat k (rafAcc s n)
              if bad.isSome then .trap s 0x07 0 a else put s bs
      else
        match storeFault a k false with
        | some c => .trap s c 0 a
        | none => put s (readBytes r.store a.toNat k)

/-- ST (R259, R260): a device store waits while the replay buffer is full (R145). -/
def execSt (i : Issuer) (w : Word) (s : State) : Out :=
  if !opIs 1 0x41 w then .refused .illFormed else
  match i with
  | .thr n y => thrIllegal s n y w (formMem true false false)
  | .seq n =>
    seqDo s n w 0 (formMem true false false) false fun s =>
      let r := raf s n
      let a := sreg r (iRa w) + iOff w
      let k := iWidth w
      let bs := (wordBytes (sreg r (iRd w))).take k
      if bitOf w 36 then
        match deviceFault s n a k true with
        | some c => .trap s c 0 a
        | none =>
          if 64 ≤ r.beats.length then .hold s
          else .go (modRaf (issueBeat s n { runs := [(a.toNat, bs)], done := true }) n fun r => pcNext r false)
      else
        match storeFault a k true with
        | some c => .trap s c 0 a
        | none => .go (modRaf s n fun r => pcNext { r with store := writeBytes r.store a.toNat bs } false)

/-! ## CADD and CWATCH (R138, R139, R266) -/

/-- The cause that a counter address meets (R266). The address must be a word of bay scratch of a live bay. -/
def counterFault (s : State) (n : Nat) (a : Word) (write : Bool) : Option Nat :=
  if fld a 40 24 ≠ 0 then some 0x10
  else if protectedRange s a.toNat 8 then some 0x11
  else if !isBay a.toNat then some 0x10
  else deviceFault s n a 8 write

/-- CADD (R138, R266): it waits at the spar port until earlier device stores are acknowledged and the descriptors
issued earlier to the channels of CMASK have ended. The sequencer waits for the result of the returning form alone. -/
def execCadd (i : Issuer) (w : Word) (s : State) : Out :=
  if !opIs 6 0x00 w then .refused .illFormed else
  let f := mkForm [45, 39, 33] (maskOf 0 17) true false
  match i with
  | .thr n y => thrIllegal s n y w f
  | .seq n =>
    seqDo s n w 0 f (!bitOf w 16 && decide (iRd w ≠ 0)) fun s =>
      let r := raf s n
      let a := sreg r (iRa w)
      match counterFault s n a true with
      | some c => .trap s c 0 a
      | none =>
        let m : CAdd := {
          rd := if bitOf w 16 ∧ iRd w ≠ 0 then some (iRd w) else none, addr := a.toNat, addend := sreg r (iRb w),
          stores := (r.beats.filter seqStore).length,
          descs := (idxs 16 fun c => bitOf w c).map fun c => (c, (chan r c).queue.length), ret := bitOf w 16 }
        .go (modRaf s n fun r =>
          let r := { r with cadds := r.cadds ++ [m] }
          if bitOf w 16 then { r with wait := .cadd, insn := w } else pcNext r false)

/-- The end of a CADD's operation (R138, R288): the returning form writes the old value and lets the sequencer go on;
on an uncorrectable word it takes the trap UE_LOAD at the CADD. -/
def caddEnds (s : State) (n : Nat) (m : CAdd) (old : Option Word) : State :=
  let r := raf s n
  if !m.ret then s else
  match old with
  | some v =>
    let put := fun (r : Rafter) => match m.rd with | some d => setSreg r d v | none => r
    modRaf s n fun r => if r.wait = .cadd then pcNext (put { r with wait := .none }) false else put r
  | none =>
    if r.wait = .cadd then
      takeTrap s n { cause := 0x07, pc := r.pc, addr := BitVec.ofNat 64 m.addr, insn := r.insn }
    else s

/-- CADD_PERFORM: the oldest CADD is performed at its atomic unit (R138). The addend crosses the spar channel, and the
result of the returning form comes back over it (R20). An addition to an uncorrectable word is not applied (R288). -/
def execCaddPerform (n : Fin 256) (s : State) : Out :=
  if stopped s then .fault .notPossible else
  match (raf s n).cadds with
  | [] => .fault .notPossible
  | m :: ms =>
    if m.stores ≠ 0 ∨ (m.descs.any fun d => decide (d.2 ≠ 0)) = true ∨ portHeld s n = true ∨ bayAway s m.addr = true then
      .fault .notPossible
    else
      let s := modRaf s n fun r => { r with cadds := ms }
      let (s, old) := atomicAdd (writeBeats s n 8) m.addr m.addend { rafAcc s n with cons := if m.ret then 4 else 5 }
      .next (caddEnds (if m.ret then readBeats s n 8 else s) n m old)

/-- Registers a watch, which crosses the spar channel as a beat (R20), with the atomic unit of its counter (R139): refused with BUSY where 64 are held; fired at
once where its word already satisfies it. On an uncorrectable word it stays registered (R288). -/
def addWatch (s : State) (x : Watch) : State :=
  let b := bayOf x.addr
  let s := writeBeats s x.raf 16
  if 64 ≤ (bay s b).watches.length then notifyOver s x.raf x.notice 0x05 0 else
  let s := arrayRead s (lineOf x.addr) 0 { raf := x.raf, cons := 6 } true
  if watchMet s x then notifyOver s x.raf x.notice 0 (wordAt s x.addr).toNat
  else setBay s b { bay s b with watches := (bay s b).watches ++ [x] }

/-- CWATCH (R139, R266). -/
def execCwatch (i : Issuer) (w : Word) (s : State) : Out :=
  if !opIs 6 0x01 w then .refused .illFormed else
  let f := mkForm [39, 33] (maskOf 0 9) true false
  match i with
  | .thr n y => thrIllegal s n y w f
  | .seq n =>
    seqDo s n w 0 f (decide (fld w 0 9 < 2)) fun s =>
      let r := raf s n
      let a := sreg r (iRa w)
      match counterFault s n a false with
      | some c => .trap s c 0 a
      | none =>
        if portHeld s n || bayAway s a.toNat then .hold s
        else
          let s := addWatch s { addr := a.toNat, target := sreg r (iRb w), raf := n, notice := fld w 0 9 }
          .go (modRaf s n fun r => pcNext r false)

/-! ## POLL, POLLI and NCLR (R130, R267) -/

/-- The lowest-indexed named notice word that is set. -/
def pollSet (r : Rafter) (idx n : Nat) : Option Nat :=
  ((List.range n).map (idx + ·)).find? fun i => bitOf (storeWord r (noticeOff i)) 63

/-- The destination register written and the PC moved past the poll. -/
def pollDone (r : Rafter) (rd : Nat) (long : Bool) (v : Word) : Rafter :=
  pcNext (setSreg { r with wait := .none } rd v) long

/-- POLL and POLLI at issue: a word already set is answered at once; else the sequencer waits, with a timeout that
starts at the held time unless it is 0 (R54, R130). -/
def pollIssue (s : State) (n : Fin 256) (w : Word) (long : Bool) (t : Word) : SOut :=
  let r := raf s n
  let idx := fld w 0 9
  let k := fld w 9 3 + 1
  match pollSet r idx k with
  | some i => .go (modRaf s n fun r => pollDone r (iRd w) long (BitVec.ofNat 64 i))
  | none =>
    let s := modRaf s n fun r => { r with wait := .poll (BitVec.ofNat 6 (iRd w)) idx k long (decide (t ≠ 0)) }
    if t = 0 then .go s
    else .go { s with time := { s.time with
      timeouts := (s.time.timeouts.filter fun x => x.reader ≠ n.val) ++
        [{ reader := n, due := (nowT s).toNat + t.toNat + 64 }] } }

/-- The reader's timeout is dropped. -/
def dropTimeout (s : State) (n : Nat) : State :=
  { s with time := { s.time with timeouts := s.time.timeouts.filter fun x => x.reader ≠ n } }

/-- The illegal forms of the class: IDX + N - 1 above 511. -/
def noticeBad (w : Word) : Bool := decide (511 < fld w 0 9 + fld w 9 3)

/-- POLL (R130, R267): the timeout is in ra. -/
def execPoll (i : Issuer) (w : Word) (s : State) : Out :=
  if !opIs 7 0x00 w then .refused .illFormed else
  let f := mkForm [45, 39] (maskOf 0 12) true false
  match i with
  | .thr n y => thrIllegal s n y w f
  | .seq n => seqDo s n w 0 f (noticeBad w) fun s => pollIssue s n w false (sreg (raf s n) (iRa w))

/-- POLLI (R130, R267): the timeout is in EXT. -/
def execPolli (i : Issuer) (w ext : Word) (s : State) : Out :=
  if !opIs 7 0x01 w then .refused .illFormed else
  let f := mkForm [45] (maskOf 0 12) true false true
  match i with
  | .thr n y => thrIllegal s n y w f
  | .seq n => seqDo s n w ext f (noticeBad w) fun s => pollIssue s n w true ext

/-- NCLR (R267): a store of zero to each named word. -/
def execNclr (i : Issuer) (w : Word) (s : State) : Out :=
  if !opIs 7 0x02 w then .refused .illFormed else
  let f := mkForm [] (maskOf 0 12) true false
  match i with
  | .thr n y => thrIllegal s n y w f
  | .seq n =>
    seqDo s n w 0 f (noticeBad w) fun s =>
      .go (modRaf s n fun r => pcNext
        { r with store := writeBytes r.store (noticeOff (fld w 0 9)) (List.replicate (8 * (fld w 9 3 + 1)) 0) } false)

/-- POLL_WAKE: a named word is set (R130). -/
def execPollWake (n : Fin 256) (s : State) : Out :=
  if stopped s then .fault .notPossible else
  let r := raf s n
  match r.wait with
  | .poll rd idx k long _ =>
    match pollSet r idx k with
    | some i => .next (dropTimeout (modRaf s n fun r => pollDone r rd.toNat long (BitVec.ofNat 64 i)) n)
    | none => .fault .notPossible
  | _ => .fault .notPossible

/-- POLL_TIMEOUT: the timeout fires; a word found set at that moment is reported instead (R54, R130). -/
def execPollTimeout (n : Fin 256) (s : State) : Out :=
  if stopped s then .fault .notPossible else
  let r := raf s n
  match r.wait, s.time.timeouts.find? fun x => x.reader = n.val with
  | .poll rd idx k long true, some t =>
    if 2 ^ 64 ≤ t.due + 64 then .fault .notPossible else
    let v := match pollSet r idx k with | some i => BitVec.ofNat 64 i | none => BitVec.allOnes 64
    .next (dropTimeout (modRaf (dueT s t.due) n fun r => pollDone r rd.toNat long v) n)
  | _, _ => .fault .notPossible

end Sys2Proof.Machine
end

