-- ==== Sys2Proof/Machine/Yealm.lean ====
section
/-! DEFINITION. The yealm-launch class and the life of a yealm (R219-R225, R263), and the end of a pass (R120,
R261). -/

namespace Sys2Proof.Machine

/-! ## Launch and retirement -/

/-- YLAUNCH (R219, R220, R263): the sequencer waits while 16 launches are queued. -/
def execYlaunch (i : Issuer) (w : Word) (s : State) : Out :=
  if !opIs 3 0x00 w then .refused .illFormed else
  let f := mkForm [39] (maskOf 3 36) true false
  match i with
  | .thr n y => thrIllegal s n y w f
  | .seq n =>
    let k := fld w 29 6
    seqDo s n w 0 f (decide (k = 0 ∨ 32 < k) || decide (fld w 20 9 = 1)) fun s =>
      let r := raf s n
      if 16 ≤ r.launch.length then .hold s
      else
        let l : Launch := {
          slot := fld w 35 4, entry := iTgt w, nthr := k, arg := sreg r (iRa w), notice := fld w 20 9 }
        .go (modRaf s n fun r => pcNext { r with launch := r.launch ++ [l] } false)

/-- YEALM_START (R216, R220): the launch at the head of the queue starts where its slot is FREE. -/
def execYealmStart (n : Fin 256) (s : State) : Out :=
  if stopped s then .fault .notPossible else
  let r := raf s n
  match r.launch with
  | [] => .fault .notPossible
  | l :: ls =>
    if ¬ (r.st = .run ∨ r.st = .handler) ∨ (yslot r l.slot).st ≠ .free then .fault .notPossible
    else
      let x : YSlot := {
        st := .run, nthr := l.nthr, notice := l.notice,
        thr := (List.range l.nthr).foldl (fun t i => tput {} t i (startThread l i)) [] }
      .next (setRaf s n { setYslot r l.slot x with launch := ls })

/-- A slot becomes FREE and its notice word, if named, is written with a status (R221, R223). -/
def yFree (r : Rafter) (y status : Nat) : Rafter :=
  let x := yslot r y
  let r := setYslot r y {}
  if x.notice = 0 then r else notify r x.notice status (ylmValue x.nthr x.issued)

/-- Beats of slot `y` wait for their acknowledgement. -/
def yOwes (r : Rafter) (y : Nat) : Bool := r.beats.any fun b => b.yslot = some y

/-- YEALM_RETIRE (R221): every thread has exited, and every store and atomic has been acknowledged. A slot that YKILL
stopped becomes FREE with CLEARED (R223). -/
def execYealmRetire (n : Fin 256) (y : Fin 16) (s : State) : Out :=
  let r := raf s n
  let x := yslot r y
  if !stopped s && decide (r.st = .run ∨ r.st = .handler) && decide (x.st = .run) &&
      (x.killed || (yAlive x).isEmpty) && !yOwes r y then
    .next (setRaf s n (yFree r y (if x.killed then 0x03 else 0)))
  else .fault .notPossible

/-- Whether YWAIT on a slot completes: it is FREE, no queued launch names it, and what it stored has been performed
(R222). -/
def ywaitDone (r : Rafter) (y : Nat) : Bool :=
  decide ((yslot r y).st = .free) && !(r.launch.any fun l => l.slot = y) && !yOwes r y

/-- YWAIT (R222, R263): complete at once, a trap, or a wait. -/
def execYwait (i : Issuer) (w : Word) (s : State) : Out :=
  if !opIs 3 0x01 w then .refused .illFormed else
  let f := mkForm [] (maskOf 35 4) true false
  match i with
  | .thr n y => thrIllegal s n y w f
  | .seq n =>
    seqDo s n w 0 f false fun s =>
      let r := raf s n
      let y := fld w 35 4
      if (yslot r y).st = .trapped then .trapAt s (yealmTrap s n y w)
      else if ywaitDone r y then .go (modRaf s n fun r => pcNext r false)
      else .go (modRaf s n fun r => { r with wait := .ywait y, insn := w })

/-- YWAIT_COMPLETE (R222): the slot is FREE, or has become TRAPPED. -/
def execYwaitComplete (n : Fin 256) (s : State) : Out :=
  if stopped s then .fault .notPossible else
  let r := raf s n
  match r.wait with
  | .ywait y =>
    if (yslot r y).st = .trapped then .next (takeTrap s n (yealmTrap s n y r.insn))
    else if ywaitDone r y then .next (modRaf s n fun r => pcNext { r with wait := .none } false)
    else .fault .notPossible
  | _ => .fault .notPossible

/-- YKILL of slot `y` (R223): its threads stop; a slot that runs becomes FREE once the stores it has issued are
complete, a TRAPPED one at once. -/
def yKill (r : Rafter) (y : Nat) : Rafter :=
  let r := dropYealm r y
  let x := yslot r y
  if x.st = .run ∧ yOwes r y = true then setYslot r y { x with killed := true }
  else if x.st = .run ∨ x.st = .trapped then yFree r y 0x03 else r

/-- YKILL (R223, R263). -/
def execYkill (i : Issuer) (w : Word) (s : State) : Out :=
  if !opIs 3 0x02 w then .refused .illFormed else
  let f := mkForm [] (maskOf 35 4) true false
  match i with
  | .thr n y => thrIllegal s n y w f
  | .seq n =>
    seqDo s n w 0 f false fun s =>
      .go (modRaf s n fun r => pcNext (yKill r (fld w 35 4)) false)

/-! ## The end of a pass (R120, R225) -/

/-- A channel that ENDP does not wait for. -/
def chanStuck (r : Rafter) (c : Nat) : Bool :=
  decide ((chan r c).st = .halted ∨ (chan r c).st = .frozen)

/-- Slate commands fed by a HALTED or FROZEN channel end with STARVED (R120, R161). -/
def starveStuck (r : Rafter) : Rafter := (idxs 16 (chanStuck r)).foldl starveIn r

/-- Whether ENDP completes (R120): channels drained, slate commands and yealms done, the replay buffer empty. -/
def endpReady (r : Rafter) : Bool :=
  ((List.range 16).all fun c => chanStuck r c || (chan r c).queue.isEmpty) &&
  (starveStuck r).scmds.isEmpty && ((List.range 16).all fun y => decide ((yslot r y).st = .free)) &&
  r.launch.isEmpty && r.beats.isEmpty

/-- The lowest TRAPPED slot. -/
def trappedSlot (r : Rafter) : Option Nat := (List.range 16).find? fun y => (yslot r y).st = .trapped

/-- The pass is reported failed (R120), as judged when ENDP is reached: F, a HANDLER, a HALTED or FROZEN channel. -/
def endpFails (r : Rafter) (f : Bool) : Bool := f || decide (r.st = .handler) || (List.range 16).any (chanStuck r)

/-- In HANDLER, ENDP discards the queued launches and stops every slot as YKILL does (R225). -/
def endpStops (r : Rafter) : Rafter :=
  let r := r.launch.foldl (fun q l => if l.notice = 0 then q else notify q l.notice 0x03 (ylmValue l.nthr 0)) r
  (List.range 16).foldl yKill { r with launch := [] }

/-- The pass ends (R120, R121, R201, R210): HALTED channels are cleared, the pass is reported, the rafter is IDLE,
and its batch slot is freed unless the gate unit still has to read the report area. -/
def endPass (s : State) (n : Nat) (failed : Bool) : State :=
  let r := raf s n
  let p := runningPass s n
  let s := modRaf s n fun r =>
    let r := starveStuck r
    let r := (List.range 16).foldl (fun r c => if (chan r c).st = .halted then clearChanIn r c else r) r
    { r with st := .idle, wait := .none }
  let s := countR s n 0x00D 1
  let s := if failed then countR s n 0x00E 1 else s
  match p with
  | none => freeBatch s n r.cur r.pass
  | some p =>
    let isRep := decide (p.rep = n)
    let skip := rg s .rafnSkip n
    let s := if isRep then rgSet s .rafnSkip n 0 0 else s
    let gate := decide ((lgrp s p.group.toNat).kind = 4) && isRep && !failed && !p.failed && !p.expert
    let s := if gate then s else freeBatch s n r.cur r.pass
    reportPass s p.id n failed (if isRep then skip else 0)

/-- ENDP (R120, R225, R261): a TRAPPED slot takes the trap YEALM in RUN; in HANDLER queued launches are discarded
and slots stopped with CLEARED. -/
def execEndp (i : Issuer) (w : Word) (s : State) : Out :=
  if !opIs 2 0x10 w then .refused .illFormed else
  let f := mkForm [] 1 true false
  match i with
  | .thr n y => thrIllegal s n y w f
  | .seq n =>
    seqDo s n w 0 f false fun s =>
      let r := raf s n
      match (if r.st = .run then trappedSlot r else none) with
      | some y => .trapAt s (yealmTrap s n y w)
      | none =>
        let failed := endpFails r (bitOf w 0)
        let s := modRaf s n fun r => starveStuck (if r.st = .handler then endpStops r else r)
        if endpReady (raf s n) then .go (endPass s n failed)
        else .go (modRaf s n fun r => { r with wait := .endp failed, insn := w })

/-- ENDP_COMPLETE (R120, R225). -/
def execEndpComplete (n : Fin 256) (s : State) : Out :=
  if stopped s then .fault .notPossible else
  let r := raf s n
  match r.wait with
  | .endp f =>
    match (if r.st = .run then trappedSlot r else none) with
    | some y => .next (takeTrap s n (yealmTrap s n y r.insn))
    | none => if endpReady r then .next (endPass s n f) else .fault .notPossible
  | _ => .fault .notPossible

end Sys2Proof.Machine
end

