-- ==== Sys2Proof/Machine/ThreadOps.lean ====
section
/-! DEFINITION. The thread class (R232-R244, R268, R269). -/

namespace Sys2Proof.Machine

/-! ## FP32 arithmetic (R233, R268, R269) -/

/-- The FP32 number in a register. -/
def lo32 (v : Word) : BitVec 32 := v.setWidth 32

/-- An FP32 result in a register. -/
def up64 (x : BitVec 32) : Word := x.setWidth 64

/-- FADD (R233, R268). -/
def execFadd (i : Issuer) (w : Word) (s : State) : Out :=
  execVal 8 0x00 (mkForm [45, 39, 33] 0 false true) false (fun a b _ => some (up64 (add32 (lo32 a) (lo32 b)))) i w 0 s

/-- FMUL (R233, R268). -/
def execFmul (i : Issuer) (w : Word) (s : State) : Out :=
  execVal 8 0x01 (mkForm [45, 39, 33] 0 false true) false (fun a b _ => some (up64 (mul32 (lo32 a) (lo32 b)))) i w 0 s

/-- FMA (R233, R268): rounded once. -/
def execFma (i : Issuer) (w : Word) (s : State) : Out :=
  execVal 8 0x02 (mkForm [45, 39, 33, 27] 0 false true) false
    (fun a b c => some (up64 (fma32 (lo32 a) (lo32 b) (lo32 c)))) i w 0 s

/-- FMIN (R233). -/
def execFmin (i : Issuer) (w : Word) (s : State) : Out :=
  execVal 8 0x03 (mkForm [45, 39, 33] 0 false true) false
    (fun a b _ => some (up64 (minMax32 false (lo32 a) (lo32 b)))) i w 0 s

/-- FMAX (R233). -/
def execFmax (i : Issuer) (w : Word) (s : State) : Out :=
  execVal 8 0x04 (mkForm [45, 39, 33] 0 false true) false
    (fun a b _ => some (up64 (minMax32 true (lo32 a) (lo32 b)))) i w 0 s

/-- The relation of FCMP (R268, R269). -/
def fRelation (k : Nat) (a b : BitVec 32) : Bool :=
  match fCmp (ofF32 a) (ofF32 b) with
  | none => decide (k = 3)
  | some o => (decide (k = 0 ∨ k = 2) && decide (o = .eq)) || (decide (k = 1 ∨ k = 2) && decide (o = .lt))

/-- FCMP (R268, R269). -/
def execFcmp (i : Issuer) (w : Word) (s : State) : Out :=
  execVal 8 0x05 (mkForm [45, 39, 33] 3 false true) false
    (fun a b _ => some (truth (fRelation (fld w 0 2) (lo32 a) (lo32 b)))) i w 0 s

/-- The floating format of an FCVT type code (R269). -/
def cvtFmt (t : Nat) : Option FFmt :=
  if t = 0 then some f32 else if t = 1 then some bf16 else if t = 2 then some fp16
  else if t = 3 then some e4m3 else if t = 4 then some e5m2 else none

/-- The value of an FCVT source (R269): a narrow value occupies the low bits. -/
def cvtIn (t : Nat) (v : Word) : Fv :=
  match cvtFmt t with
  | some f => fDecode f (fld v 0 (1 + f.eb + f.mb))
  | none => if t = 5 then fInt (sext 32 v.toNat) 0 else fInt v.toInt 0

/-- The result of an FCVT (R233, R269). -/
def cvtOut (t : Nat) (sat : Bool) (v : Fv) : Word :=
  match cvtFmt t with
  | some f => BitVec.ofNat 64 (fConvert f v none sat).code
  | none => BitVec.ofInt 64 (f32ToInt (if t = 5 then 32 else 64) (toF32 v))

/-- The illegal forms of FCVT (R269). -/
def cvtBad (w : Word) : Bool :=
  let a := fld w 0 4
  let b := fld w 4 4
  decide (6 < a ∨ 6 < b) || decide ((a = 0) = (b = 0)) || (bitOf w 8 && decide (4 < b))

/-- FCVT (R233, R268, R269). -/
def execFcvt (i : Issuer) (w : Word) (s : State) : Out :=
  execVal 8 0x06 (mkForm [45, 39] (maskOf 0 9) false true) (cvtBad w)
    (fun a _ _ => some (cvtOut (fld w 4 4) (bitOf w 8) (cvtIn (fld w 0 4) a))) i w 0 s

/-! ## Instructions of threads alone -/

/-- An instruction that only threads may issue (R231, R257). -/
def thrOnly (op : Nat) (f : Form) (bad : Bool) (i : Issuer) (w : Word) (s : State)
    (eff : Nat → Nat → State → YSlot → List Nat → BitVec 20 → YOut) : Out :=
  if !opIs 8 op w then .refused .illFormed else
  match i with
  | .seq n => seqIllegal s n w f
  | .thr n y => thrDo s n y w f bad (eff n y)

/-- The special function a code names (R234, R268). -/
def sfu (k : Nat) (x : BitVec 32) (d : Nat) : BitVec 32 :=
  if k = 0 then sfuExp2 x d else if k = 1 then sfuLog2 x d else if k = 2 then sfuRcp x d
  else if k = 3 then sfuRsqrt x d else if k = 4 then sfuSqrt x d else sfuTanh x d

/-- One free draw for each thread of a subset. -/
def drawEach (s : State) (sub : List Nat) : State × List (Nat × Word) :=
  sub.foldl (fun a i => let (s, d) := takeFree a.1; (s, a.2 ++ [(i, d)])) (s, [])

/-- FSFU (R234, R268): within 2 units in the last place; a draw chooses among the codes that are. -/
def execFsfu (i : Issuer) (w : Word) (s : State) : Out :=
  thrOnly 0x07 (mkForm [45, 39] (maskOf 0 3) false true) (decide (5 < fld w 0 3)) i w s fun _ _ s x sub pc =>
    let (s, ds) := drawEach s sub
    let vs := ds.map fun d => (d.1, up64 (sfu (fld w 0 3) (lo32 (treg (thr x d.1) (iRa w))) d.2.toNat))
    .go s (subPast (subWrite x (iRd w) vs) sub (pc + 8)) []

/-- YRAND (R237, R268): an independent draw for each thread. -/
def execYrand (i : Issuer) (w : Word) (s : State) : Out :=
  thrOnly 0x1A (mkForm [45] 0 false true) false i w s fun _ _ s x sub pc =>
    let (s, ds) := drawEach s sub
    .go s (subPast (subWrite x (iRd w) (ds.map fun d => (d.1, up64 (lo32 d.2)))) sub (pc + 8)) []

/-- YSHFL (R236, R268): the present value of a register of another thread. -/
def execYshfl (i : Issuer) (w : Word) (s : State) : Out :=
  thrOnly 0x18 (mkForm [45, 39, 33] 0 false true) false i w s fun _ _ s x sub pc =>
    let vs := sub.map fun k => (k, treg (thr x (fld (treg (thr x k) (iRa w)) 0 5)) (iRb w))
    .go s (subPast (subWrite x (iRd w) vs) sub (pc + 8)) []

/-- Adjacent pairs added. -/
def pairSums : List (BitVec 32) → List (BitVec 32)
  | a :: b :: l => add32 a b :: pairSums l
  | l => l

/-- The fixed tree of YRED FADD over 32 threads (R235). -/
def redTree (vs : List (BitVec 32)) : BitVec 32 :=
  nth (pairSums (pairSums (pairSums (pairSums (pairSums vs))))) 0 0

/-- The reduction a code names (R235, R268), over the (thread, value) pairs of a subset. -/
def reduce (k : Nat) (vs : List (Nat × Word)) : Word :=
  let l := vs.map Prod.snd
  let at_ := fun (i : Nat) => ((vs.find? fun v => v.1 = i).map Prod.snd).getD 0
  if k = 0 then up64 (redTree ((List.range 32).map fun i => lo32 (at_ i)))
  else if k = 1 ∨ k = 2 then
    match l with
    | [] => 0
    | v :: r => up64 (r.foldl (fun a b => minMax32 (decide (k = 1)) a (lo32 b)) (minMax32 (decide (k = 1)) (lo32 v) (lo32 v)))
  else if k = 3 then l.foldl (· + ·) 0
  else if k = 4 then l.foldl (· &&& ·) (BitVec.allOnes 64)
  else if k = 5 then l.foldl (· ||| ·) 0
  else l.foldl (· ^^^ ·) 0

/-- YRED (R235, R268). -/
def execYred (i : Issuer) (w : Word) (s : State) : Out :=
  thrOnly 0x19 (mkForm [45, 39] (maskOf 0 3) false true) (decide (fld w 0 3 = 7)) i w s fun _ _ s x sub pc =>
    let v := reduce (fld w 0 3) (sub.map fun k => (k, treg (thr x k) (iRa w)))
    .go s (subPast (subWrite x (iRd w) (sub.map fun k => (k, v))) sub (pc + 8)) []

/-- YFENCE (R232, R240): the subset waits until every earlier memory instruction of the yealm is acknowledged. -/
def execYfence (i : Issuer) (w : Word) (s : State) : Out :=
  thrOnly 0x17 (mkForm [] 0 false true) false i w s fun n y s x sub pc =>
    if (raf s n).beats.any fun b => b.yslot = some y then .hold s else .go s (subPast x sub (pc + 8)) []

/-- YBAR (R230): the threads of the subset are held at it. -/
def execYbar (i : Issuer) (w : Word) (s : State) : Out :=
  thrOnly 0x1B (mkForm [] 0 false true) false i w s fun _ _ s x sub _ =>
    .go s (sub.foldl (fun x k => setThr x k { thr x k with held := true }) x) []

/-- YEXIT (R268): the threads of the subset end. -/
def execYexit (i : Issuer) (w : Word) (s : State) : Out :=
  thrOnly 0x1C (mkForm [] 0 false true) false i w s fun _ _ s x sub pc =>
    .go s ((subPast x sub (pc + 8)) |> fun x => sub.foldl (fun x k => setThr x k { thr x k with exited := true }) x) []

/-! ## Memory (R238-R241) -/

/-- The first cause in the order of R248 that threads meet, with those threads and the address of the lowest. -/
def firstCause (cs : List (Nat × Word × Option Nat)) : Option (Nat × List Nat × Word) :=
  ([0x10, 0x11, 0x05, 0x0C, 0x04].find? fun c => cs.any fun t => t.2.2 = some c).map fun c =>
    let ts := cs.filter fun t => t.2.2 = some c
    (c, ts.map Prod.fst, ((ts.head?).map fun t => t.2.1).getD 0)

/-- The 32-byte sectors that accesses of `k` bytes touch, ascending (R239). -/
def sectorsOf (as : List (Nat × Word)) : List Nat :=
  (as.foldl (fun t a => tput false t (a.2.toNat / 32) true) []).map Prod.fst

/-- One read of each sector (R239): the bytes of the sectors, and those with an uncorrectable word (R241). Of
register space only the words that threads name are read. -/
def readSectors (s : State) (n : Nat) (as : List (Nat × Word)) : State × Tbl Byte × List Nat :=
  (sectorsOf as).foldl (fun x q =>
    let (s, m, bad) := x
    let s := readBeats s n 32
    if isRegs (32 * q) then
      let regs := (List.range 4).map (32 * q + 8 * ·) |>.filter fun a => as.any fun t => t.2.toNat / 8 * 8 = a
      let (s, m) := regs.foldl (fun x a => let (s, bs) := regWords x.1 n a 1; (s, writeBytes x.2 a bs)) (s, m)
      (s, m, bad)
    else
      let (s, bs, b) := devRead s (32 * q) 32 (ylmAcc s n)
      (s, writeBytes m (32 * q) bs, if b.isSome then bad ++ [q] else bad))
    (s, [], [])

/-- The device reads of a yealm's sectors (R145, R239). -/
def sectorReads (y : Nat) (as : List (Nat × Word)) : List RdReq :=
  (sectorsOf as).map fun q => { src := .ylm y, addr := 32 * q, len := 32 }

/-- YLD (R238-R241, R268). -/
def execYld (i : Issuer) (w : Word) (s : State) : Out :=
  thrOnly 0x10 (formMem false true true) (decide (fld w 37 2 = 3) && bitOf w 35) i w s fun n y s x sub pc =>
    let k := iWidth w
    let as := sub.map fun t => (t, treg (thr x t) (iRa w) + iOff w)
    let dev := bitOf w 36
    let cs := as.map fun a => (a.1, a.2, if dev then deviceFault s n a.2 k false else storeFault a.2 k false)
    match firstCause cs with
    | some (c, ts, a) => .trap s c ts a
    | none =>
      match (if dev then readWaits s n (ylmAcc s n).cls (sectorReads y as) else none) with
      | some t => .hold t
      | none =>
        let (s, m, bad) := if dev then readSectors (endRead s n (.ylm y)) n as else (s, (raf s n).store, [])
        let s := countR s n 0x008 (sectorsOf as).length
        let hit := as.filter fun a => bad.contains (a.2.toNat / 32)
        match hit with
        | a :: _ => .trap s 0x07 (hit.map Prod.fst) a.2
        | [] =>
          let vs := as.map fun a => (a.1, loadExt w (readBytes m a.2.toNat k))
          .go s (subPast (subWrite x (iRd w) vs) sub (pc + 8)) []

/-- Bytes by ascending address cut into runs of consecutive ones. -/
def runsOf : List (Nat × Byte) → List (Nat × List Byte)
  | [] => []
  | (a, b) :: l =>
    match runsOf l with
    | (c, bs) :: r => if c = a + 1 then (a, b :: bs) :: r else (a, [b]) :: (c, bs) :: r
    | [] => [(a, [b])]

/-- The bytes that the threads of a subset store, the highest thread winning (R239). -/
def storeBytes (vs : List (Nat × Word × List Byte)) : List (Nat × Byte) :=
  let put := fun (m : Tbl (Option Byte)) (v : Nat × Word × List Byte) =>
    (v.2.2.zip (List.range v.2.2.length)).foldl (fun m b => tput none m (v.2.1.toNat + b.2) (some b.1)) m
  (vs.foldl put []).map fun e => (e.1, e.2.getD 0)

/-- YST (R238-R240, R268). -/
def execYst (i : Issuer) (w : Word) (s : State) : Out :=
  thrOnly 0x11 (formMem false true false) false i w s fun n y s x sub pc =>
    let k := iWidth w
    let vs := sub.map fun t =>
      (t, treg (thr x t) (iRa w) + iOff w, (wordBytes (treg (thr x t) (iRd w))).take k)
    let as := vs.map fun v => (v.1, v.2.1)
    let dev := bitOf w 36
    let cs := as.map fun a => (a.1, a.2, if dev then deviceFault s n a.2 k true else storeFault a.2 k true)
    let qs := sectorsOf as
    match firstCause cs with
    | some (c, ts, a) => .trap s c ts a
    | none =>
      let bs := storeBytes vs
      if dev && decide (64 < (raf s n).beats.length + qs.length) then .hold s
      else
        let s := countR s n 0x008 qs.length
        let s := if dev then
            qs.foldl (fun s q => issueBeat s n {
              runs := runsOf (bs.filter fun b => b.1 / 32 = q), done := true, yslot := some y }) s
          else modRaf s n fun r => { r with store := bs.foldl (fun m b => writeByte m b.1 b.2) r.store }
        .go s (subPast x sub (pc + 8)) []

/-! ## Atomics (R242-R244, R269) -/

/-- The combining operation AOP on words of one width, but for FADD. -/
def aopBits {k : Nat} (op : Nat) (a b : BitVec k) : BitVec k :=
  if op = 0 then a + b else if op = 2 then (if b.slt a then b else a) else if op = 3 then (if a.slt b then b else a)
  else if op = 4 then (if b.ult a then b else a) else if op = 5 then (if a.ult b then b else a)
  else if op = 6 then a &&& b else if op = 7 then a ||| b else a ^^^ b

/-- AOP on a 4-byte or 8-byte word (R269). -/
def aop (op : Nat) (wide : Bool) (a b : Word) : Word :=
  if wide then aopBits op a b
  else if op = 1 then up64 (add32 (lo32 a) (lo32 b)) else up64 (aopBits op (lo32 a) (lo32 b))

/-- The address of a thread atomic: ra + OFF. -/
def atomAddr (w : Word) (t : Thread) : Word := treg t (iRa w) + BitVec.ofNat 64 (fld w 7 20)

/-- The cause that a thread atomic of `k` bytes at `a` meets (R242, R248). -/
def atomFault (s : State) (n : Nat) (dev : Bool) (a : Word) (k : Nat) : Option Nat :=
  if !dev then storeFault a k true
  else if fld a 40 24 ≠ 0 then some 0x10
  else if protectedRange s a.toNat k then some 0x11
  else if isHbm a.toNat || isRegs a.toNat then some 0x0C
  else deviceFault s n a k true

/-- The part of a stored word that an atomic of `k` bytes at `a` sees. -/
def atomPart (a k : Nat) (v : Word) : Word := BitVec.ofNat 64 (fld v (8 * (a % 8)) (8 * k))

/-- One atomic of `k` bytes at `a` that replaces the old value `v` by `f v`. -/
def atomOne (s : State) (n : Nat) (dev : Bool) (a k : Nat) (f : Word → Word) : State × Option Word :=
  if dev then
    let (s, old) := atomicMap s (a / 8 * 8)
      (fun v => setFld v (8 * (a % 8)) (8 * k) (f (atomPart a k v)).toNat) (ylmAcc s n)
    (s, old.map (atomPart a k))
  else
    let old := bytesWord (readBytes (raf s n).store a k)
    (modRaf s n fun r => { r with store := writeBytes r.store a ((wordBytes (f old)).take k) }, some old)

/-- The memory atomics of a subset, each with its threads in ascending order: where they are combined, one for each address
that threads name, by ascending address; else one for each thread (R243). -/
def atomGroups (comb : Bool) (as : List (Nat × Word)) : List (Nat × List Nat) :=
  if comb then
    (as.foldl (fun t a => tput false t a.2.toNat true) []).map fun q =>
      (q.1, (as.filter fun a => a.2.toNat = q.1).map Prod.fst)
  else as.map fun a => (a.2.toNat, [a.1])

/-- The atomics of a subset: `groups` lists, for each memory atomic, its threads in ascending order; `upd` is
what thread `t` makes of the value it finds. A thread receives the value just before its own (R243). Operands and old values of
device atomics cross the spar channel (R20). -/
def execAtoms (s : State) (n : Nat) (dev : Bool) (k : Nat) (groups : List (Nat × List Nat)) (upd : Nat → Word → Word) :
    State × List (Nat × Word) :=
  groups.foldl (fun x g =>
    let f := fun (v : Word) => g.2.foldl (fun v t => upd t v) v
    let (s, old) := atomOne (if dev then writeBeats x.1 n (k * g.2.length) else x.1) n dev g.1 k f
    let s := if dev then readBeats s n (k * g.2.length) else s
    let seen := (g.2.foldl (fun (p : Word × List (Nat × Word)) t => (upd t p.1, p.2 ++ [(t, p.1)]))
      (old.getD 0, [])).2
    (s, x.2 ++ seen)) (s, [])

/-- What the three atomics share: addresses, causes, the steps of the memory pipe (R239, R515), uncorrectable words (R241), and
the registers written.
`comb` says whether threads that name one address are combined. -/
def atomDo (op : Nat) (f : Form) (bad comb : Bool) (i : Issuer) (w : Word) (s : State)
    (upd : Thread → Word → Word) : Out :=
  thrOnly op f bad i w s fun n y s x sub pc =>
    let k := if bitOf w 5 then 8 else 4
    let dev := bitOf w 6
    let as := sub.map fun t => (t, atomAddr w (thr x t))
    match firstCause (as.map fun a => (a.1, a.2, atomFault s n dev a.2 k)) with
    | some (c, ts, a) => .trap s c ts a
    | none =>
      match (if dev then readWaits s n (ylmAcc s n).cls
          (as.map fun a => { src := .ylm y, addr := a.2.toNat, len := k }) else none) with
      | some t => .hold t
      | none =>
        let s := countR (if dev then endRead s n (.ylm y) else s) n 0x008 (sectorsOf as).length
        let ue := as.filter fun a => dev && badAt s (a.2.toNat / 8 * 8)
        match ue with
        | a :: _ => .trap (atomicMap s (a.2.toNat / 8 * 8) id (ylmAcc s n)).1 0x07 (ue.map Prod.fst) a.2
        | [] =>
          let (s, vs) := execAtoms s n dev k (atomGroups comb as) fun t v => upd (thr x t) v
          .go s (subPast (subWrite x (iRd w) vs) sub (pc + 8)) []

/-- YATOM (R243, R268, R269). -/
def execYatom (i : Issuer) (w : Word) (s : State) : Out :=
  atomDo 0x14 (mkForm [45, 39, 33] (maskOf 5 22 ||| maskOf 0 4) false true)
    (decide (8 < fld w 0 4) || (decide (fld w 0 4 = 1) && bitOf w 5)) true i w s
    fun t v => aop (fld w 0 4) (bitOf w 5) v (treg t (iRb w))

/-- The low part of a register that an atomic of the width of `w` uses (R269). -/
def atomVal (w v : Word) : Word := if bitOf w 5 then v else up64 (lo32 v)

/-- YCAS (R243, R268, R269): never combined. -/
def execYcas (i : Issuer) (w : Word) (s : State) : Out :=
  atomDo 0x15 (mkForm [45, 39, 33, 27] (maskOf 5 22) false true) false false i w s
    fun t v => if v = atomVal w (treg t (iRb w)) then atomVal w (treg t (iRc w)) else v

/-- YSWAP (R243, R268, R269): never combined. -/
def execYswap (i : Issuer) (w : Word) (s : State) : Out :=
  atomDo 0x16 (mkForm [45, 39, 33] (maskOf 5 22) false true) false false i w s
    fun t _ => atomVal w (treg t (iRb w))

end Sys2Proof.Machine
end

