-- ==== Sys2Proof/Machine/Flags.lean ====
section
/-! DEFINITION. The arithmetic exception flags of the slates (R173, R179): SLTn_EXC. The instruction set has no
other flags. -/

namespace Sys2Proof.Machine

/-- An exception of SLTn_EXC. -/
inductive Exc
  | nan | inf | sat
  deriving DecidableEq, Repr

/-- The lowest bit of an exception's field. -/
def excLo : Exc → Nat
  | .nan => 56 | .inf => 48 | .sat => 40

/-- SLTn_EXC with the bit of logical slate `i` set. -/
def setExc (s : State) (n : Nat) (e : Exc) (i : Nat) : State :=
  rgSet s .sltnExc n 0 (setBit (rg s .sltnExc n) (excLo e + i) true)

/-- Whether an FP32 number is infinite. -/
def isInf32 (x : BitVec 32) : Bool := decide (x.toNat % 2 ^ 31 = 0x7F800000)

/-- The bits that updates of accumulators from `old` to `new_` set: one became NaN; one became infinite, as `inf` says. -/
def accExc (s : State) (n i : Nat) (inf : Bool) (old new_ : List (BitVec 32)) : State :=
  let s := if (old.zip new_).any fun p => isNan32 p.2 && !isNan32 p.1 then setExc s n .nan i else s
  if inf then setExc s n .inf i else s

end Sys2Proof.Machine
end

