-- ==== Sys2Proof/Machine/Slates.lean ====
section
/-! DEFINITION. Slate commands (R148-R179, R180-R194, R264, R270, R271). -/

namespace Sys2Proof.Machine

/-! ## Formats (R148, R154-R156, R163) -/

/-- Bits of an element. -/
def elemBits (f : Nat) : Nat :=
  if f = 4 ∨ f = 5 then 6 else if f = 6 ∨ f = 9 ∨ f = 12 then 4 else if f = 10 ∨ f = 11 then 16 else 8

/-- The rate class: 0 double, 1 single, 2 quarter (R148, R154). -/
def fmtClass (f : Nat) : Nat :=
  if f = 4 ∨ f = 5 ∨ f = 6 ∨ f = 9 ∨ f = 12 then 0 else if f = 10 ∨ f = 11 then 2 else 1

/-- The format has a scale byte per block. -/
def hasBlockScale (f : Nat) : Bool := decide ((2 ≤ f ∧ f ≤ 7) ∨ f = 12)

/-- The format uses SCALE. -/
def usesScale (f : Nat) : Bool := decide (f = 0 ∨ f = 1 ∨ f = 8 ∨ f = 9)

/-- INT8 and INT4 (R157). -/
def isIntFmt (f : Nat) : Bool := decide (f = 8 ∨ f = 9)

/-- The value of an element (R154, R155). -/
def elemVal (f v : Nat) : Fv :=
  if f = 7 then fInt (sext 8 v) (-6) else if f = 8 then fInt (sext 8 v) 0 else if f = 9 then fInt (sext 4 v) 0
  else if f = 0 ∨ f = 2 then fDecode e4m3 v else if f = 1 ∨ f = 3 then fDecode e5m2 v
  else if f = 4 then fDecode e2m3 v else if f = 5 then fDecode e3m2 v
  else if f = 10 then fDecode bf16 v else if f = 11 then fDecode fp16 v else fDecode e2m1 v

/-- An element that counts as zero (R192). -/
def elemZero (f v : Nat) : Bool :=
  if f = 7 ∨ f = 8 ∨ f = 9 then decide (v = 0) else decide (v % 2 ^ (elemBits f - 1) = 0)

/-- UE5M3 (R156): no sign, bias 15, 0xFF a NaN. -/
def ue5m3 : FFmt := ⟨3, 5, 15, .e4m3⟩

/-- The value of a block scale byte (R156); 1 where the format has none. -/
def scaleVal (f v : Nat) : Fv :=
  if f = 12 then fDecode ue5m3 v
  else if hasBlockScale f then (if v = 255 then .nan else .fin false 1 ((v : Int) - 127))
  else .fin false 1 0

/-- Element `i` of elements packed from byte `base` (R163). -/
def packedAt (rd : Nat → Byte) (base bits i : Nat) : Nat :=
  let b := i * bits
  let a := base + b / 8
  ((rd a).toNat + 256 * (rd (a + 1)).toNat + 65536 * (rd (a + 2)).toNat) / 2 ^ (b % 8) % 2 ^ bits

/-! ## Shares (R164, R184, R185, R187) -/

/-- Positions of a group of structured sparsity; 0 for dense (R180). -/
def groupLen (sp : Nat) : Nat := if sp = 1 then 4 else if sp = 2 then 8 else 0

/-- Bytes of block scales in a share. -/
def shareScales (f : Nat) : Nat := if hasBlockScale f then 64 else 0

/-- Bytes of metadata in a share. -/
def shareMeta (sp : Nat) : Nat := if sp = 1 then 256 else if sp = 2 then 384 else 0

/-- Bytes of one slate's share of one block. -/
def shareSize (f sp : Nat) : Nat :=
  shareScales f + shareMeta sp + (if sp = 0 then 256 else 128) * elemBits f

/-! ## The descriptor (R158, R270) -/

/-- The fields of a descriptor from its words. -/
def slateDesc (ws : List Word) : SlateDesc :=
  let w := fun k => nth ws k 0
  { mode := BitVec.ofNat 2 (fld (w 0) 62 2), bank := bitOf (w 0) 61, slates := BitVec.ofNat 8 (fld (w 0) 53 8),
    split := bitOf (w 0) 52, fmtA := BitVec.ofNat 4 (fld (w 0) 48 4), fmtW := BitVec.ofNat 4 (fld (w 0) 44 4),
    sparse := BitVec.ofNat 2 (fld (w 0) 42 2), k := fld (w 0) 25 17, rows := fld (w 0) 20 5,
    notice := fld (w 0) 11 9, wsrc := bitOf (w 0) 10, wch := fld (w 0) 6 4,
    woff := fld (w 1) 44 20, aoff := fld (w 1) 24 20, astride := fld (w 1) 8 16,
    asoff := fld (w 2) 44 20, arsoff := fld (w 2) 24 20, wrsoff := fld (w 2) 4 20,
    scaleA := BitVec.ofNat 32 (fld (w 3) 32 32), scaleW := BitVec.ofNat 32 (fld (w 3) 0 32),
    outfmt := BitVec.ofNat 4 (fld (w 4) 60 4), rnd := bitOf (w 4) 59, sat := bitOf (w 4) 58,
    ooff := fld (w 4) 38 20, ostride := fld (w 4) 22 16, osoff := fld (w 4) 2 20 }

/-- The command accumulates: its MODE is not DRAIN. -/
def accumulates (d : SlateDesc) : Bool := decide (d.mode ≠ 2)

/-- The command drains. -/
def drains (d : SlateDesc) : Bool := decide (d.mode = 2 ∨ d.mode = 3)

/-- The logical slates that a descriptor names, lowest first. -/
def namedSlates (d : SlateDesc) : List Nat := idxs 8 fun i => d.slates.getLsbD i

/-- Output columns (R174). -/
def outCols (d : SlateDesc) : Nat := if d.split then 64 else 64 * (namedSlates d).length

/-- Bits of an output element (R172). -/
def outBits (o : Nat) : Nat := if o = 0 then 32 else if o = 1 ∨ o = 2 then 16 else if o = 7 then 4 else 8

/-- MX output. -/
def outMx (o : Nat) : Bool := decide (5 ≤ o)

/-- The shares of weights that a command consumes (R150, R164). -/
def shareCount (d : SlateDesc) : Nat := if d.split then d.k / 32 else d.k / 32 * (namedSlates d).length

/-- The store ranges (offset, length) that a command reads. -/
def readRanges (d : SlateDesc) : List (Nat × Nat) :=
  let fa := d.fmtA.toNat
  let fw := d.fmtW.toNat
  let acc := accumulates d
  let cols := outCols d
  (if acc then (List.range d.rows).map fun r => (d.aoff + r * d.astride, d.k * elemBits fa / 8) else []) ++
  (if acc && hasBlockScale fa then [(d.asoff, d.rows * (d.k / 32))] else []) ++
  (if acc && d.wsrc then [(d.woff, shareCount d * shareSize fw d.sparse.toNat)] else []) ++
  (if drains d && decide (fa = 12) then [(d.arsoff, 4 * d.rows)] else []) ++
  (if drains d && decide (fw = 12) then [(d.wrsoff, 4 * cols)] else [])

/-- The store ranges that a command writes. -/
def writeRanges (d : SlateDesc) : List (Nat × Nat) :=
  let o := d.outfmt.toNat
  if !drains d then [] else
  (List.range d.rows).map (fun r => (d.ooff + r * d.ostride, outCols d * outBits o / 8)) ++
  (if outMx o then [(d.osoff, d.rows * (outCols d / 32))] else [])

/-- A misaligned offset or stride among those that the command uses (R158, R159 item 9). -/
def misplaced (d : SlateDesc) : Bool :=
  let fa := d.fmtA.toNat
  let acc := accumulates d
  (acc && (decide (d.aoff % 64 ≠ 0 ∨ d.astride % 8 ≠ 0) || (d.wsrc && decide (d.woff % 64 ≠ 0)) ||
    (hasBlockScale fa && decide (d.asoff % 8 ≠ 0)))) ||
  (drains d && (decide (d.ooff % 64 ≠ 0 ∨ d.ostride % 8 ≠ 0) ||
    (decide (fa = 12) && decide (d.arsoff % 4 ≠ 0)) || (decide (d.fmtW.toNat = 12) && decide (d.wrsoff % 4 ≠ 0)) ||
    (outMx d.outfmt.toNat && decide (d.osoff % 8 ≠ 0))))

/-- A malformed descriptor (R159 items 2-11): fields that the MODE does not use are not judged (R271). A mask that
names no slate, a K outside 32-65,536 and a stride that is no multiple of 8 are values that R158 does not
admit, and count as malformed (assumption log 21). -/
def slateBad (d : SlateDesc) : Bool :=
  let fa := d.fmtA.toNat
  let fw := d.fmtW.toNat
  let n := (namedSlates d).length
  let acc := accumulates d
  decide (12 < fa ∨ 12 < fw) || (isIntFmt fa != isIntFmt fw) ||
  (acc && decide (d.sparse = 3)) || (drains d && decide (7 < d.outfmt.toNat)) ||
  (acc && (decide (d.k % 32 ≠ 0 ∨ d.k < 32 ∨ 65536 < d.k) || (d.split && decide (n ≠ 0 ∧ d.k / 32 % n ≠ 0)))) ||
  (d.split && decide (n ≠ 2 ∧ n ≠ 4 ∧ n ≠ 8)) || decide (n = 0) ||
  (acc && decide (d.sparse ≠ 0) && decide (fmtClass fa = 2 ∨ fmtClass fw = 2)) ||
  decide (d.rows = 0 ∨ 16 < d.rows) || decide (d.notice = 1) ||
  (acc && decide (d.astride < d.k * elemBits fa / 8)) ||
  (drains d && decide (d.ostride < outCols d * outBits d.outfmt.toNat / 8)) ||
  misplaced d ||
  ((readRanges d ++ writeRanges d).any fun x => !inData x.1 x.2) ||
  ((writeRanges d).any fun x => (readRanges d).any fun y => overlaps x.1 x.2 y.1 y.2)

/-! ## Issue (R123, R159, R160, R264) -/

/-- Commands queued on a physical slate, of at most 4 (R123). -/
def onSlate (r : Rafter) (p : Nat) : List SCmd := r.scmds.filter fun m => m.phys.contains p

/-- SLATE (R158-R160, R264). -/
def execSlate (i : Issuer) (w : Word) (s : State) : Out :=
  if !opIs 4 0x00 w then .refused .illFormed else
  let f := mkForm [39] (maskOf 0 20) true false
  match i with
  | .thr n y => thrIllegal s n y w f
  | .seq n =>
    seqDo s n w 0 f false fun s =>
      let r := raf s n
      let o := sreg r (iRa w) + BitVec.ofNat 64 (fld w 0 20)
      if o.toNat % 64 ≠ 0 ∨ inData o.toNat 64 = false then .trap s 0x12 0 0
      else
        let d := slateDesc (bytesWords (readBytes r.store o.toNat 64) 8)
        if slateBad d then .trap s 0x12 0 0
        else
          let en := enPhys s n
          match (namedSlates d).find? fun i => decide (en.length ≤ i) with
          | some i => .trap s 0x08 i 0
          | none =>
            let phys := (namedSlates d).map fun i => nth en i 0
            if phys.any fun p => decide (4 ≤ (onSlate r p).length) then .hold s
            else .go (modRaf s n fun r => pcNext { r with scmds := r.scmds ++ [{ desc := d, phys := phys }] } false)

/-! ## Starting (R149, R160) -/

/-- The k positions that each named slate takes (R150). -/
def slateNeed (m : SCmd) : Nat :=
  if !accumulates m.desc then 0 else if m.desc.split then m.desc.k / m.phys.length else m.desc.k

/-- Slate `p` has taken all its k positions of a command. -/
def doneOn (m : SCmd) (p : Nat) : Bool := m.started && decide (slateNeed m ≤ tget 0 m.prog p)

/-- Every named slate has. -/
def allDone (m : SCmd) : Bool := m.phys.all (doneOn m)

/-- Splits a list of commands at the first that `p` picks: those before it, it, and those after. -/
def pickCmd (p : SCmd → Bool) : List SCmd → Option (List SCmd × SCmd × List SCmd)
  | [] => none
  | m :: l => if p m then some ([], m, l) else (pickCmd p l).map fun x => (m :: x.1, x.2.1, x.2.2)

/-- The accumulators of a bank. -/
def bankOf_ (x : Slate) (bank : Bool) : Tbl (BitVec 32) := if bank then x.acc1 else x.acc0

/-- A slate with a bank replaced. -/
def setBank (x : Slate) (bank : Bool) (t : Tbl (BitVec 32)) : Slate :=
  if bank then { x with acc1 := t } else { x with acc0 := t }

/-- A draining command that has finished on a slate has read its bank before a later command begins there
(R171). -/
def snapFor (r : Rafter) (m e : SCmd) : SCmd :=
  if drains e.desc && decide (e.desc.bank = m.desc.bank) then
    let new_ := m.phys.filter fun p => e.phys.contains p && !(e.snap.any fun x => x.1 = p)
    { e with snap := e.snap ++ new_.map fun p => (p, bankOf_ (slate r p) e.desc.bank) }
  else e

/-- The named slates of a draining command in the order in which they finished (R151). -/
def finishOrder (r : Rafter) : List Nat → List Nat
  | [] => []
  | p :: l =>
    let rest := finishOrder r l
    (rest.filter fun q => (slate r q).fin < (slate r p).fin) ++ p ::
      (rest.filter fun q => ¬ (slate r q).fin < (slate r p).fin)

/-- The physical slate of a logical one. -/
def physSlate (s : State) (n i : Nat) : Option Nat := (enPhys s n)[i]?

/-- Whether slates of a rafter work on commands: those in progress complete though it is frozen (R135). -/
def slatesRun (r : Rafter) : Bool := decide (r.st = .run ∨ r.st = .handler ∨ r.st = .frozen)

/-- SLATE_COMMAND_START (R149, R160): the first command not started of the slate's queue starts where every
earlier command of each of its slates is done there. DESIGN CHOICE (assumption log 39): INIT sets the whole bank to +0, rows
ROWS-15 with it where ROWS is below 16; R149 names the bank, R158 says that those rows are not updated. -/
def execSlateCommandStart (n : Fin 256) (sl : Fin 8) (s : State) : Out :=
  if stopped s then .fault .notPossible else
  let r := raf s n
  match physSlate s n sl with
  | none => .fault .notPossible
  | some p =>
    match pickCmd (fun m => m.phys.contains p && !m.started) r.scmds with
    | none => .fault .notPossible
    | some (before, m, after) =>
      let clear := before.all fun e => e.phys.all fun q => !m.phys.contains q || doneOn e q
      if !slatesRun r || !clear then .fault .notPossible
      else
        let m := { m with started := true, order := if accumulates m.desc then [] else finishOrder r m.phys }
        let r := { r with scmds := before.map (snapFor r m) ++ m :: after }
        let init := decide (m.desc.mode = 1 ∨ m.desc.mode = 3)
        .next (setRaf s n (if init then
          m.phys.foldl (fun r q => setSlate r q (setBank (slate r q) m.desc.bank [])) r else r))

/-! ## K-slices (R148, R164-R170, R180-R183, R192-R194) -/

/-- The k position, within a block of 32, and the width of the present k-slice of a slate: D positions, one
for the quarter class, or a whole group under structured sparsity (R148, R192). -/
def sliceLen (d : SlateDesc) : Nat :=
  if d.sparse ≠ 0 then groupLen d.sparse.toNat
  else if max (fmtClass d.fmtA.toNat) (fmtClass d.fmtW.toNat) = 0 then 2 else 1

/-- The block of K that the `j`-th named slate works on at block number `b` of its own (R150). -/
def blockOf (m : SCmd) (j b : Nat) : Nat := if m.desc.split then j + m.phys.length * b else b

/-- The products of one cell column, step by step: for each step the (position in the block, weight element
index in the share) pairs (R148, R182). -/
def sliceSteps (d : SlateDesc) (rd : Nat → Byte) (kb c : Nat) : List (List (Nat × Nat)) :=
  if d.sparse = 0 then [(List.range (sliceLen d)).map fun i => (kb + i, (kb + i) * 64 + c)]
  else
    let g := groupLen d.sparse.toNat
    let slots := g / 2
    let grp := kb / g
    let ixBits := if g = 4 then 2 else 3
    let ix := fun (j : Nat) => packedAt rd (shareScales d.fmtW.toNat + (8 * g * ixBits / 2) * grp) ixBits (c * slots + j)
    let pos := fun (j : Nat) => (grp * g + ix j, (grp * slots + j) * 64 + c)
    let per := if max (fmtClass d.fmtA.toNat) (fmtClass d.fmtW.toNat) = 0 then 2 else 1
    (List.range (slots / per)).map fun t => (List.range per).map fun i => pos (t * per + i)

/-- The exact sum of products. -/
def sumF : List Fv → Fv
  | [] => .fin false 0 0
  | x :: l => l.foldl fAdd x

/-- A cell's accumulator after one step, rounded once (R167). -/
def cellStep (a : BitVec 32) (l : List Fv) : BitVec 32 := toF32 (fAdd (ofF32 a) (sumF l))

/-- A cell's accumulator after the steps of a k-slice: rounded once per step (R167). -/
def cellSteps (a : BitVec 32) (steps : List (List Fv)) : BitVec 32 := steps.foldl cellStep a

/-- Whether a cell's accumulator becomes infinite at some step of a k-slice (R179). -/
def cellInf (a : BitVec 32) (steps : List (List Fv)) : Bool :=
  (steps.foldl (fun (x : BitVec 32 × Bool) l =>
    let b := cellStep x.1 l
    (b, x.2 || (isInf32 b && !isInf32 x.1))) (a, false)).2

/-- The share's bytes that a k-slice ending at position `kb + len` needs. -/
def sliceBytes (d : SlateDesc) (kb : Nat) : Nat :=
  let f := d.fmtW.toNat
  let len := sliceLen d
  shareScales f + shareMeta d.sparse.toNat +
    (if d.sparse = 0 then (kb + len) * 64 * elemBits f / 8 else (kb + len) / 2 * 64 * elemBits f / 8)

/-- A k-slice on the slate at place `j` of a command: the accumulators after it, and whether one became infinite at some step;
or none where it is skipped. -/
def sliceAcc (r : Rafter) (m : SCmd) (j prog : Nat) (rd : Nat → Byte) (gate : Bool × Bool) (acc : Tbl (BitVec 32)) :
    Option (Tbl (BitVec 32) × Bool) :=
  let d := m.desc
  let fa := d.fmtA.toNat
  let fw := d.fmtW.toNat
  let blk := blockOf m j (prog / 32)
  let kb := prog % 32
  let st := fun (a : Nat) => readByte r.store a
  let aAt := fun (row k : Nat) => packedAt st (d.aoff + row * d.astride) (elemBits fa) (32 * blk + k)
  let rows := List.range d.rows
  if rows.all fun row => (List.range (sliceLen d)).all fun i => elemZero fa (aAt row (kb + i)) then none
  else
    let sa := fun (row : Nat) => scaleVal fa (st (d.asoff + row * (d.k / 32) + blk)).toNat
    let base := shareScales fw + shareMeta d.sparse.toNat
    let cols := (List.range 64).filter fun c => if c < 32 then gate.1 else gate.2
    some (rows.foldl (fun t row =>
      cols.foldl (fun t c =>
        let sc := fMul (sa row) (scaleVal fw (rd c).toNat)
        let steps := (sliceSteps d rd kb c).map fun l => l.map fun q =>
          fMul (fMul (elemVal fa (aAt row q.1)) (elemVal fw (packedAt rd base (elemBits fw) q.2))) sc
        let a := tget 0 t.1 (row * 64 + c)
        (tput 0 t.1 (row * 64 + c) (cellSteps a steps), t.2 || cellInf a steps)) t) (acc, false))

/-- Slate `p` of a command moves on by `len` k positions; at the end of a block its share leaves the buffer. -/
def slateAdvance (m : SCmd) (p len : Nat) : SCmd :=
  let g := tget 0 m.prog p + len
  let m := { m with prog := tput 0 m.prog p g }
  let m := if slateNeed m ≤ g then { m with order := m.order ++ [p] } else m
  if g % 32 = 0 then
    let size := shareSize m.desc.fmtW.toNat m.desc.sparse.toNat
    let gate := ((tget [] m.gates p).head?).getD (true, true)
    let absent := !gate.1 && !gate.2
    { m with
      bufs := if absent then m.bufs else tput [] m.bufs p ((tget [] m.bufs p).drop size),
      gates := tput [] m.gates p ((tget [] m.gates p).drop 1) }
  else m

/-- The next number for the order in which slates finish. -/
def nextFin (r : Rafter) : Nat := (r.slates.map fun e => e.2.fin).foldl max 0 + 1

/-- The state after slate `p` has moved on in a command. -/
def putSlice (s : State) (n p len : Nat) (before : List SCmd) (m : SCmd) (after : List SCmd) (x : Slate) : State :=
  modRaf s n fun r =>
    let m := slateAdvance m p len
    let x := if slateNeed m ≤ tget 0 m.prog p then { x with fin := nextFin r } else x
    { setSlate r p x with scmds := before ++ m :: after }

/-- K_SLICE: the slate takes one k-slice of the command it runs; it waits while a dwell holds it or its weights have
not come. A block whose share is wholly absent is passed over (R190). A dwell on the course then holds the
slate (R177, R359). -/
def execKSlice (n : Fin 256) (sl : Fin 8) (s : State) : Out :=
  if stopped s then .fault .notPossible else
  let r := raf s n
  match physSlate s n sl with
  | none => .fault .notPossible
  | some p =>
    match pickCmd (fun m => m.started && m.phys.contains p && !doneOn m p) r.scmds with
    | none => .fault .notPossible
    | some (before, m, after) =>
      let d := m.desc
      let x := slate r p
      let prog := tget 0 m.prog p
      let j := m.phys.idxOf p
      let buf := tget [] m.bufs p
      let gate := if d.wsrc then some (true, true) else (tget [] m.gates p).head?
      if !slatesRun r then .fault .notPossible
      else if x.dwell then .next s
      else
        match gate with
        | none => .next s
        | some (h0, h1) =>
          if !h0 && !h1 then .next (putSlice s n p 32 before m after x)
          else if !d.wsrc && decide (buf.length < sliceBytes d (prog % 32)) then .next s
          else
            let size := shareSize d.fmtW.toNat d.sparse.toNat
            let blk := blockOf m j (prog / 32)
            let share := if d.split then blk else blk * m.phys.length + j
            let rd := fun (a : Nat) =>
              if d.wsrc then readByte r.store (d.woff + share * size + a) else nth buf a 0
            let old := bankOf_ x d.bank
            let dw := rf s .thmqStat (courseOf s n) 22 10
            let x := { x with dwell := decide (dw ≠ 0) }
            match sliceAcc r m j prog rd (h0, h1) old with
            | none =>
              .next (countR (countR (putSlice s n p (sliceLen d) before m after x) n 0x004 1) n (0x028 + sl) 1)
            | some (t, inf) =>
              let s := putSlice s n p (sliceLen d) before m after (setBank x d.bank t)
              let ks := List.range 1024
              let s := accExc s n sl inf (ks.map (tget 0 old ·)) (ks.map (tget 0 t ·))
              .next (countR (countR s n 0x003 1) n (0x020 + sl) 1)

/-! ## Draining (R151, R171-R175) -/

/-- The accumulators that a drain reads of a slate. -/
def drainBank (r : Rafter) (m : SCmd) (p : Nat) : Tbl (BitVec 32) :=
  ((m.snap.find? fun x => x.1 = p).map Prod.snd).getD (bankOf_ (slate r p) m.desc.bank)

/-- The accumulator value of row `row` and output column `c`: through the reduction tree for K-split. -/
def drainAcc (r : Rafter) (m : SCmd) (row c : Nat) : BitVec 32 :=
  if m.desc.split then
    nth (pairSums (pairSums (pairSums (m.order.map fun p => tget 0 (drainBank r m p) (row * 64 + c))))) 0 0
  else tget 0 (drainBank r m (nth m.phys (c / 64) 0)) (row * 64 + c % 64)

/-- The scaling of R171. -/
def drainScale (r : Rafter) (d : SlateDesc) (row c : Nat) (v : BitVec 32) : BitVec 32 :=
  let fa := d.fmtA.toNat
  let fw := d.fmtW.toNat
  let one : BitVec 32 := 0x3F800000
  let at_ := fun (o : Nat) => BitVec.ofNat 32 (bytesNat (readBytes r.store o 4))
  let v := if usesScale fa || usesScale fw then
    mul32 v (mul32 (if usesScale fa then d.scaleA else one) (if usesScale fw then d.scaleW else one)) else v
  let v := if fa = 12 then mul32 v (at_ (d.arsoff + 4 * row)) else v
  if fw = 12 then mul32 v (at_ (d.wrsoff + 4 * c)) else v

/-- The element format of an output code (R172, R174). -/
def outElem (o : Nat) : FFmt :=
  if o = 0 then f32 else if o = 1 then bf16 else if o = 2 then fp16 else if o = 3 ∨ o = 5 then e4m3
  else if o = 4 ∨ o = 6 then e5m2 else e2m1

/-- The draw of a stochastic conversion (R175). -/
def outDraw (s : State) (rnd : Bool) : State × Option Nat :=
  if rnd then let (s, d) := takeFree s; (s, some (fld d 0 16)) else (s, none)

/-- A block of MX output (R174): the scale byte, the element codes, and which conversions saturated. -/
def mxBlock (s : State) (d : SlateDesc) (vs : List (BitVec 32)) : State × Nat × List (Nat × Bool) :=
  let f := outElem d.outfmt.toNat
  if vs.any fun v => isNan32 v || isInf32 v then (s, 0xFF, vs.map fun _ => (0, false))
  else
    let amax := (vs.map fun v => v.toNat % 2 ^ 31).foldl max 0
    match ofF32 (BitVec.ofNat 32 amax) with
    | .fin _ m e =>
      if m = 0 then (s, 0, vs.map fun _ => (0, false))
      else
        let emax : Int := if d.outfmt = 5 then 8 else if d.outfmt = 6 then 15 else 2
        let x := (max 0 (min 254 ((Nat.log2 m : Int) + e - emax + 127))).toNat
        let (s, es) := vs.foldl (fun y v =>
          let (s, rnd) := outDraw y.1 d.rnd
          let u := match ofF32 v with | .fin g m e => Fv.fin g m (e - ((x : Int) - 127)) | u => u
          let c := fConvert f u rnd true
          (s, y.2 ++ [(c.code, c.sat)])) (s, [])
        (s, x, es)
    | _ => (s, 0, vs.map fun _ => (0, false))

/-- One output row: element codes with their saturation, and scale bytes. -/
def drainRow (s : State) (d : SlateDesc) (vs : List (BitVec 32)) : State × List (Nat × Bool) × List Nat :=
  let o := d.outfmt.toNat
  if o = 0 then (s, vs.map fun v => (v.toNat, false), [])
  else if outMx o then
    (List.range (vs.length / 32)).foldl (fun y b =>
      let (s, x, es) := mxBlock y.1 d ((vs.drop (32 * b)).take 32)
      (s, y.2.1 ++ es, y.2.2 ++ [x])) (s, [], [])
  else
    let (s, es) := vs.foldl (fun y v =>
      let (s, rnd) := outDraw y.1 d.rnd
      let c := fConvert (outElem o) (ofF32 v) rnd d.sat
      (s, y.2 ++ [(c.code, c.sat)])) (s, [])
    (s, es, [])

/-- Codes packed into bytes (R163). -/
def packCodes (bits : Nat) (cs : List Nat) : List Byte :=
  natBytes (cs.foldr (fun c a => a * 2 ^ bits + c) 0) (cs.length * bits / 8)

/-- The whole drain of a command: the store written, SLTn_EXC.SAT, and the bytes written. The slate whose bit a
K-split conversion sets is not stated: a free choice among those named. -/
def drainAll (s : State) (n : Nat) (m : SCmd) : State × Nat :=
  let d := m.desc
  let r0 := raf s n
  let o := d.outfmt.toNat
  let cols := outCols d
  let names := namedSlates d
  let (s, pickD) := takeFree s
  (List.range d.rows).foldl (fun y row =>
    let vs := (List.range cols).map fun c => drainScale r0 d row c (drainAcc r0 m row c)
    let (s, es, xs) := drainRow y.1 d vs
    let sat := (List.range cols).filter fun c => (nth es c (0, false)).2
    let who := fun (c : Nat) =>
      nth names (if d.split then pickD.toNat % names.length else c / 64) 0
    let s := sat.foldl (fun s c => setExc s n .sat (who c)) s
    let bs := packCodes (outBits o) (es.map Prod.fst)
    let s := modRaf s n fun r => { r with
      store := writeBytes (writeBytes r.store (d.ooff + row * d.ostride) bs)
        (d.osoff + row * (cols / 32)) (xs.map (BitVec.ofNat 8)) }
    (s, y.2 + bs.length + xs.length)) (s, 0)

/-- SLATE_COMMAND_COMPLETE (R161): the oldest command of the slate completes once every slate it names is done; a
draining one has then written its output. DESIGN CHOICE (assumption log 39): VALUE of an ACC or INIT_ACC split along K is the
whole command's K, not a slate's share; and no command completes on a slate before an older one there, though an ACC that runs
beside the drain of the other bank may have ended first (R149, R161). -/
def execSlateCommandComplete (n : Fin 256) (sl : Fin 8) (s : State) : Out :=
  if stopped s then .fault .notPossible else
  let r := raf s n
  match physSlate s n sl with
  | none => .fault .notPossible
  | some p =>
    match pickCmd (fun m => m.phys.contains p) r.scmds with
    | none => .fault .notPossible
    | some (before, m, after) =>
      if !slatesRun r || !m.started || !allDone m then .fault .notPossible
      else
        let (s, v) := if drains m.desc then drainAll s n m else (s, m.desc.k)
        let t := nowT s
        .next (modRaf s n fun r =>
          let r := m.phys.foldl (fun r q => setSlate r q { slate r q with last := t }) r
          let r := { r with scmds := before ++ after }
          if m.desc.notice = 0 then r else notify r m.desc.notice 0 v)

/-- DWELL_END: a dwell on Thatch course `q` ends, and its slates continue (R177, R359). -/
def execDwellEnd (q : Fin 64) (s : State) : Out :=
  if stopped s then .fault .notPossible else
  let held := fun (n : Nat) => (idxs 8 fun p => (slate (raf s n) p).dwell).length
  let rs := (raftersOf s q).filter fun n => decide (held n ≠ 0)
  let dw := rf s .thmqStat q 22 10
  if rs.isEmpty then .fault .notPossible
  else .next (rs.foldl (fun t n =>
    countR (modRaf t n fun r => { r with slates := tmap {} (fun x => { x with dwell := false }) r.slates })
      n 0x006 (dw * held n)) s)

end Sys2Proof.Machine
end

