-- ==== Sys2Proof/Machine/Streams.lean ====
section
/-! DEFINITION. The stream instructions (R264, R265) and stream channels at work (R140-R143, R187-R191, R273, R274,
R417). -/

namespace Sys2Proof.Machine

/-! ## STR, STRSM, STCLR -/

/-- STR (R265): the descriptor is copied; what follows depends on the channel's state. DESIGN CHOICE (assumption log 40): bytes
past the store are read at the offset modulo 2^20, so that a malformed descriptor's kinds and notice word come from there; and
the descriptor in progress or halted is one of the 8 that make the sequencer wait or discard. -/
def execStr (i : Issuer) (w : Word) (s : State) : Out :=
  if !opIs 5 0x00 w then .refused .illFormed else
  let f := mkForm [39] (maskOf 35 4 ||| maskOf 0 20) true false
  match i with
  | .thr n y => thrIllegal s n y w f
  | .seq n =>
    seqDo s n w 0 f false fun s =>
      let r := raf s n
      let c := fld w 35 4
      let x := chan r c
      let o := sreg r (iRa w) + BitVec.ofNat 64 (fld w 0 20)
      let ok := decide (o.toNat % 64 = 0) && inData o.toNat 64
      let bs := (List.range 64).map fun k => readByte r.store ((o.toNat + k) % 2 ^ 20)
      let d : SDesc := { ws := bytesWords bs 8, offOk := ok }
      let skip := fun (st : Nat) => SOut.go (modRaf s n fun r => pcNext (descNotice r d st 0) false)
      match x.st with
      | .frozen => skip 0x04
      | .halted =>
        if 8 ≤ x.queue.length then skip 0x03
        else .go (modRaf s n fun r => pcNext (setChan r c { x with queue := x.queue ++ [d] }) false)
      | _ =>
        if 8 ≤ x.queue.length then .hold s
        else .go (modRaf s n fun r => pcNext (setChan r c { x with queue := x.queue ++ [d] }) false)

/-- STRSM (R143, R265): a halted channel goes on at the failing line. -/
def execStrsm (i : Issuer) (w : Word) (s : State) : Out :=
  if !opIs 5 0x01 w then .refused .illFormed else
  let f := mkForm [] (maskOf 35 4) true false
  match i with
  | .thr n y => thrIllegal s n y w f
  | .seq n =>
    seqDo s n w 0 f false fun s =>
      .go (modRaf s n fun r =>
        let x := chan r (fld w 35 4)
        pcNext (if x.st = .halted then setChan r (fld w 35 4) { x with st := .busy, addr := 0 } else r) false)

/-- STCLR (R143, R265). -/
def execStclr (i : Issuer) (w : Word) (s : State) : Out :=
  if !opIs 5 0x02 w then .refused .illFormed else
  let f := mkForm [] (maskOf 35 4) true false
  match i with
  | .thr n y => thrIllegal s n y w f
  | .seq n =>
    seqDo s n w 0 f false fun s =>
      .go (modRaf s n fun r =>
        pcNext (if (chan r (fld w 35 4)).st = .halted then stclrIn r (fld w 35 4) else r) false)

/-! ## Endpoints (R273) -/

/-- The offset or address that an endpoint's address word gives: STORE, DEVICE, BAY. -/
def epBase (kind : Nat) (w : Word) : Nat :=
  if kind = 0 then fld w 0 20 else if kind = 2 then fld w 0 25 else fld w 0 40

/-- The device address at offset `k` of a DEVICE or BAY endpoint. -/
def epAddr (kind : Nat) (w : Word) (k : Nat) : Nat :=
  if kind = 2 then bayAddr (fld w 32 8) (epBase 2 w + k) else epBase kind w + k

/-- WFMT. -/
def sdWfmt (d : SDesc) : Nat := fld (sdW d 0) 51 4

/-- WSPARSE. -/
def sdWsparse (d : SDesc) : Nat := fld (sdW d 0) 55 2

/-- NSHARE. -/
def sdNshare (d : SDesc) : Nat := fld (sdW d 4) 48 16

/-- BMOFF. -/
def sdBmoff (d : SDesc) : Nat := fld (sdW d 4) 0 20

/-- The halves of share `t` that the tile mask names (R188). DESIGN CHOICE (assumption log 40): the mask is read share by share
while the descriptor runs, not as a whole at its start. -/
def maskHalves (r : Rafter) (d : SDesc) (t : Nat) : Bool × Bool :=
  let b := readByte r.store (sdBmoff d + t / 4)
  (b.getLsbD (t % 4 * 2), b.getLsbD (t % 4 * 2 + 1))

/-- The bytes of the present halves of a share. -/
def halvesLen (d : SDesc) (h : Bool × Bool) : Nat :=
  (b2n h.1 + b2n h.2) * (shareSize (sdWfmt d) (sdWsparse d) / 2)

/-- The bytes that a descriptor moves: LEN, or with BSP the present half-shares (R188). -/
def sdBytes (r : Rafter) (d : SDesc) : Nat :=
  if sdBsp d then ((List.range (sdNshare d)).map fun t => halvesLen d (maskHalves r d t)).sum else sdLen d

/-! ## The check of a descriptor (R141, R189, R274) -/

/-- The device ranges of an endpoint of `len` bytes. -/
def epRanges (kind : Nat) (w : Word) (len : Nat) : List (Nat × Nat) :=
  if kind = 1 then [(epBase 1 w, len)]
  else if kind = 2 then bayRuns (fld w 32 8) (epBase 2 w) len (len / 4096 + 2) else []

/-- The violation of an endpoint's device ranges and the range that meets it (R126, R273). -/
def epViol (s : State) (n kind : Nat) (w : Word) (len : Nat) (write : Bool) : Option (Viol × Nat) :=
  ((epRanges kind w len).map fun p => (checkAccess s n p.1 p.2 write, p.1)).find? fun v => decide (v.1 ≠ .ok)

/-- An endpoint's own faults: its alignment, a STORE range outside the data area, a BAY range past its bay or in a
retired one. -/
def epBad (s : State) (kind : Nat) (w : Word) (len : Nat) : Bool :=
  decide (kind < 3 ∧ epBase kind w % 8 ≠ 0) || (decide (kind = 0) && !inData (epBase 0 w) len) ||
  (decide (kind = 2) && (decide (0x1800000 < epBase 2 w + len) || retired s (fld w 32 8)))

/-- A malformed stream descriptor (R189, R274). NSHARE 0 and a GET whose length a window word cannot hold are
values that R188 and R416 do not admit, and count as malformed (assumption log 21). -/
def streamBad (s : State) (n : Nat) (d : SDesc) : Bool :=
  let sk := sdSkind d
  let dk := sdDkind d
  let len := sdBytes (raf s n) d
  !d.offOk || decide (5 ≤ sk ∨ 5 ≤ dk ∨ sk = 3 ∨ (sk = 4 ∧ dk = 4)) ||
  decide (sdVop d = 3) || (decide (sdVop d = 2) && (sdValley d).isNone) || decide (sdNotice d = 1) ||
  (!sdBsp d && decide (sdLen d % 8 ≠ 0)) ||
  (sdBsp d && (decide (dk ≠ 3 ∨ 12 < sdWfmt d ∨ fmtClass (sdWfmt d) = 2 ∨ sdWsparse d = 3 ∨ sdBmoff d % 8 ≠ 0 ∨
    sdNshare d = 0) || !inData (sdBmoff d) ((sdNshare d + 3) / 4))) ||
  decide (sk = 4 ∧ sdVop d = 1 ∧ 65536 < len) ||
  (decide (sk < 3) && epBad s sk (sdW d 1) len) || (decide (dk < 3) && epBad s dk (sdW d 2) len)

/-- What a failing descriptor's freeze names: the address and the cause; for a fault of its fields R434 and R519
name no code, and the cause is `c`. -/
def streamFault (s : State) (n : Nat) (d : SDesc) (c : Nat) : Option (Nat × Nat) :=
  let len := sdBytes (raf s n) d
  match epViol s n (sdSkind d) (sdW d 1) len false, epViol s n (sdDkind d) (sdW d 2) len true with
  | some v, _ => some (v.2, violCause v.1)
  | none, some v => some (v.2, violCause v.1)
  | none, none => if streamBad s n d then some (0, c) else none

/-- Channels of a rafter work while it is not retired: a freeze of the rafter leaves them running (R135). -/
def chansRun (r : Rafter) : Bool := decide (r.st = .run ∨ r.st = .handler ∨ r.st = .frozen)

/-- STREAM_DESCRIPTOR_START: an idle channel takes the descriptor at its head and checks it (R140, R141, R273). A frozen
rafter's channels start none (R135). -/
def execStreamDescriptorStart (n : Fin 256) (c : Fin 16) (s : State) : Out :=
  if stopped s then .fault .notPossible else
  let r := raf s n
  let x := chan r c
  match x.queue with
  | [] => .fault .notPossible
  | d :: _ =>
    let (s1, fr) := takeFree s
    if x.st ≠ .idle ∨ chansRun r = false ∨ r.st = .frozen then .fault .notPossible
    else
      match streamFault s n d (fld fr 0 8) with
      | some (a, k) => .next (freezeChan s1 n c a k)
      | none =>
        let v := (sdValley d).bind fun h => (endOfHandle s h).filter fun i => decide ((vend s i).st ≠ .closed)
        if (sdValley d).isSome ∧ v.isNone then .next (endDesc s n c 0x02 0)
        else if !sdBsp d && decide (sdLen d = 0) then .next (endDesc s n c 0 0)
        else
          let s := modRaf s n fun r => setChan r c { st := .busy, queue := x.queue, status := x.status }
          if sdSkind d = 4 ∧ sdVop d = 1 then
            let i := v.getD 0
            let len := sdBytes r d
            let s := modVend s i fun e => { e with gets := e.gets ++ [(n.val, c.val, sdRoff d, len)] }
            .next (pushSend s i (.bytes []) 1 false (mkWord [(62, 2, 1), (40, 17, len), (0, 40, sdRoff d)]))
          else .next s

/-! ## Reading the source -/

/-- The packet that a descriptor of SKIND VALLEY takes from its end's ring (R417). The packets of an end whose consumer is not
PROGRAM are not for descriptors (R410), and one on such an end waits (assumption log 67). -/
def takePacket (s : State) (n c : Nat) (d : SDesc) : State :=
  match (sdValley d).bind (endOfHandle s) with
  | none => s
  | some i =>
    match (if (vend s i).cons = 0 then (vend s i).ring.find? fun p => !p.taken else none) with
    | none => s
    | some p =>
      let s := modVend s i fun e => { e with
        ring := mapIf (fun q => decide (q.pseq = p.pseq)) (fun q => { q with taken := true }) e.ring }
      modRaf s n fun r => setChan r c { chan r c with psize := some p.size, pseq := p.pseq }

/-- The bytes that a descriptor in progress takes from its source in all; none while a valley packet is awaited. -/
def streamTotal (r : Rafter) (x : Chan) (d : SDesc) : Option Nat :=
  if sdSkind d = 4 ∧ sdVop d ≠ 1 then x.psize.map fun k => min k (sdBytes r d) else some (sdBytes r d)

/-- The device address of byte `k` of the packet `q` in end `i`'s ring, past its header (R411). -/
def ringAddr (e : VEnd) (q : BitVec 32) (k : Nat) : Nat :=
  match e.ring.find? fun p => p.pseq = q with
  | some p => e.rxbase + (p.off + 64 + k) % 2 ^ e.rxlog2
  | none => e.rxbase

/-- The next source byte's device address, or its store offset for STORE. -/
def srcAt (s : State) (x : Chan) (d : SDesc) : Nat :=
  if sdSkind d = 4 then
    match (sdValley d).bind (endOfHandle s) with
    | some i => ringAddr (vend s i) x.pseq x.moved
    | none => 0
  else if sdSkind d = 0 then epBase 0 (sdW d 1) + x.moved else epAddr (sdSkind d) (sdW d 1) x.moved

/-- Reads the source up to the end of its 256-byte line, `most` bytes at most: the bytes, and the uncorrectable
word met (R142). -/
def srcLine (s : State) (n c : Nat) (x : Chan) (d : SDesc) (most : Nat) : State × List Byte × Option Nat :=
  let a := srcAt s x d
  let k := min most (256 - a % 256)
  if sdSkind d = 0 then (s, readBytes (raf s n).store a k, none)
  else spaceRead (readBeats (endRead s n (.chan c)) n k) n a k (chanAcc s n c)

/-- The read of the next source line must wait (R145, R302): the state with it asked for. -/
def srcWaits (s : State) (n c : Nat) (x : Chan) (d : SDesc) (most : Nat) : Option State :=
  if sdSkind d = 0 then none
  else
    let a := srcAt s x d
    readWaits s n (chanAcc s n c).cls [{ src := .chan c, addr := a, len := min most (256 - a % 256) }]

/-- Bytes taken from the source are counted, by 64 (R515). -/
def tookBytes (s : State) (n c k : Nat) : State :=
  let m := (chan (raf s n) c).moved
  countR (modRaf s n fun r => setChan r c { chan r c with moved := m + k }) n 0x00F ((m + k) / 64 - m / 64)

/-! ## Valley as the destination (R417) -/

/-- The most data of one packet of an end: 64 KiB, 16 KiB for REDUCE, 4 KiB below U3 (R396, R417, R419, R423). -/
def packetMax (e : VEnd) (vop : Nat) : Nat := if effLevel e < 3 then 4096 else if vop = 2 then 16384 else 65536

/-- One packet of a sending descriptor is queued on its end, its source to be read when it is sent. Source data
that is uncorrectable now halts the channel at its line; source bytes that cannot be read now are asked for (R145, R302). RFMT
is a field of VOP REDUCE alone (R271, R272). -/
def streamSend (s : State) (n c i : Nat) (x : Chan) (d : SDesc) (total : Nat) : State :=
  let vop := sdVop d
  let k := min (packetMax (vend s i) vop) (total - x.moved)
  let a := srcAt s x d
  let probe := if sdSkind d = 0 ∨ isRegs a then none
    else if sdSkind d = 2 then (bayRead s (fld (sdW d 1) 32 8) (epBase 2 (sdW d 1) + x.moved) k {}).2.2
    else (devRead s a k {}).2.2
  match (if sdSkind d = 0 then none else packetWaits s n c
      (if sdSkind d = 2 then bayRuns (fld (sdW d 1) 32 8) (epBase 2 (sdW d 1) + x.moved) k (k / 4096 + 2) else [(a, k)])) with
  | some t => t
  | none =>
  let s := endRead s n (.chan c)
  let good := match probe with
    | some b => if sdSkind d = 2 then offOf (lineOf b) - (epBase 2 (sdW d 1) + x.moved) else lineOf b - a
    | none => k
  if good = 0 then
    let (s, _, bad) := srcLine s n c x d k
    haltChan s n c (bad.getD (probe.getD a))
  else
    let win := if vop = 1 then mkWord [(40, 17, good), (0, 40, sdRoff d + x.moved)] else 0
    let src := VSrc.chan n c (sdSkind d)
      (if sdSkind d = 2 then fld (sdW d 1) 32 8 * 2 ^ 32 + epBase 2 (sdW d 1) + x.moved else a) good
    tookBytes (pushSend s i src vop (decide (vop = 2) && sdRfmt d) win) n c good

/-! ## A slate operand feed as the destination (R164, R165, R190) -/

/-- The weight bytes of a command in all. -/
def feedTotal (m : SCmd) : Nat := shareCount m.desc * shareSize m.desc.fmtW.toNat m.desc.sparse.toNat

/-- The place of the next byte that a command takes from its channel: the share's slate and the offset within the
share. -/
def feedPlace (m : SCmd) : Nat × Nat :=
  let size := shareSize m.desc.fmtW.toNat m.desc.sparse.toNat
  (nth m.phys (m.fed / size % m.phys.length) 0, m.fed % size)

/-- The free bytes of a slate's weight buffer (R165). -/
def bufRoom (r : Rafter) (p : Nat) : Nat := 8192 - ((r.scmds.map fun m => (tget [] m.bufs p).length).sum)

/-- The command that channel `c` feeds next, where the buffer it comes to holds all of the earlier commands' bytes. -/
def feedCmd (r : Rafter) (c : Nat) : Option (List SCmd × SCmd × List SCmd) :=
  (pickCmd (fun m => fedBy m c && decide (m.fed < feedTotal m)) r.scmds).filter fun x =>
    x.1.all fun e => !accumulates e.desc || e.desc.wsrc || !e.phys.contains (feedPlace x.2.1).1 || decide (feedTotal e ≤ e.fed)

/-- A command with `bs` in its next buffer, `k` bytes of its stream taken, and at the start of a share the halves
that are present. -/
def feedPut (m : SCmd) (bs : List Byte) (k : Nat) (h : Bool × Bool) : SCmd :=
  let (p, o) := feedPlace m
  { m with
    fed := m.fed + k, bufs := tput [] m.bufs p (tget [] m.bufs p ++ bs),
    gates := if o = 0 then tput [] m.gates p (tget [] m.gates p ++ [h]) else m.gates }

/-- The lengths of a full share's rows: the scales, the metadata of each group, the elements of each position kept
(R164, R184). -/
def shareRows (f sp : Nat) : List Nat :=
  (if hasBlockScale f then [64] else []) ++
  (if sp = 1 then List.replicate 8 32 else if sp = 2 then List.replicate 4 96 else []) ++
  List.replicate (if sp = 0 then 32 else 16) (8 * elemBits f)

/-- The full share that two half-shares make (R187). -/
def joinHalves : List Nat → List Byte → List Byte → List Byte
  | [], _, _ => []
  | n :: l, a, b => a.take (n / 2) ++ b.take (n / 2) ++ joinHalves l (a.drop (n / 2)) (b.drop (n / 2))

/-- Delivers a run of plain bytes from the stage; none where the channel must wait. -/
def feedPlain (s : State) (n c : Nat) (x : Chan) : Option State :=
  let r := raf s n
  (feedCmd r c).bind fun y =>
    let m := y.2.1
    let (p, o) := feedPlace m
    let k := min x.stage.length (min (shareSize m.desc.fmtW.toNat m.desc.sparse.toNat - o) (bufRoom r p))
    if k = 0 then none else
    some (setRaf s n (setChan { r with scmds := y.1 ++ feedPut m (x.stage.take k) k (true, true) :: y.2.2 } c
      { x with stage := x.stage.drop k }))

/-- Delivers one share of a block-sparse stream whose present halves are in the stage (R190). Where the command's
format is another, or it stands within a share, what it takes is open (R191). -/
def feedShare (s : State) (n c : Nat) (x : Chan) (d : SDesc) : Option State :=
  let r := raf s n
  let h := maskHalves r d x.share
  let need := halvesLen d h
  (feedCmd r c).bind fun y =>
    let m := y.2.1
    let f := sdWfmt d
    let sp := sdWsparse d
    let (p, o) := feedPlace m
    let same := decide (m.desc.fmtW.toNat = f ∧ m.desc.sparse.toNat = sp ∧ o = 0)
    let size := shareSize m.desc.fmtW.toNat m.desc.sparse.toNat - o
    let put := if same && !h.1 && !h.2 then 0 else size
    if x.stage.length < need ∨ bufRoom r p < put then none else
    let half := shareSize f sp / 2
    let a := if h.1 then x.stage.take half else List.replicate half 0
    let b := if h.2 then (x.stage.drop (if h.1 then half else 0)).take half else List.replicate half 0
    let (s, bs) := if put = 0 then (s, []) else if same then (s, joinHalves (shareRows f sp) a b)
      else let (s, bs) := freeBytes s ((size + 7) / 8); (s, bs.take size)
    some (modRaf s n fun r => setChan { r with
        scmds := y.1 ++ feedPut m bs size (if same then h else (true, true)) :: y.2.2 } c
      { x with share := x.share + 1, stage := x.stage.drop need })

/-- One event of a channel that feeds slates: a delivery from the stage; else more of the source into it. -/
def streamFeed (s : State) (n c : Nat) (x : Chan) (d : SDesc) (total : Nat) : State :=
  let bsp := sdBsp d
  let go := if bsp then (if x.share < sdNshare d then feedShare s n c x d else none) else feedPlain s n c x
  match go with
  | some t => t
  | none =>
    let want := if bsp then halvesLen d (maskHalves (raf s n) d x.share) else 1
    let got := decide (sdSkind d = 4 ∧ sdVop d = 1)
    if want ≤ x.stage.length ∨ total ≤ x.moved ∨ got then s
    else
      match srcWaits s n c x d (total - x.moved) with
      | some t => t
      | none =>
      let (t, bs, bad) := srcLine s n c x d (total - x.moved)
      match bad with
      | some a => haltChan t n c a
      | none => tookBytes (modRaf t n fun r => setChan r c { x with stage := x.stage ++ bs }) n c bs.length

/-! ## Moving data -/

/-- The write beats of `bs` to a DEVICE or BAY destination at offset `o` of the descriptor (R145). -/
def dstBeats (d : SDesc) (o : Nat) (bs : List Byte) : List (Nat × List Byte) :=
  let k := sdDkind d
  let w := sdW d 2
  let runs := if k = 2 then bayRuns (fld w 32 8) (epBase 2 w + o) bs.length (bs.length / 4096 + 2)
    else [(epBase 1 w + o, bs.length)]
  (runs.foldl (fun y p => (y.1 ++ beatRuns p.1 (y.2.take p.2) (p.2 / 128 + 2), y.2.drop p.2)) ([], bs)).1

/-- Writes to a STORE, DEVICE or BAY destination at offset `o` of the descriptor; what goes to the device crosses as write
beats, kept until they are acknowledged (R145). -/
def dstWrite (s : State) (n c : Nat) (d : SDesc) (o : Nat) (bs : List Byte) : State :=
  if sdDkind d = 0 then modRaf s n fun r => { r with store := writeBytes r.store (epBase 0 (sdW d 2) + o) bs }
  else (dstBeats d o bs).foldl (fun s p => issueBeat s n { runs := [p], done := true, chan := some c }) s

/-- The replay buffer has no room for the write beats of the next `k` bytes (R145). -/
def dstFull (r : Rafter) (x : Chan) (d : SDesc) (k : Nat) : Bool :=
  decide (sdDkind d = 1 ∨ sdDkind d = 2) &&
    decide (64 < r.beats.length + (dstBeats d x.moved (List.replicate k 0)).length)

/-- STREAM_DATA_RETURN (R140, R142, R190, R417): one line of source data returns and is delivered, or the channel
halts; a channel that must wait leaves the state as it is. -/
def execStreamDataReturn (n : Fin 256) (c : Fin 16) (s : State) : Out :=
  if stopped s then .fault .notPossible else
  let r := raf s n
  match (chan r c).queue with
  | [] => .fault .notPossible
  | d :: _ =>
    if (chan r c).st ≠ .busy ∨ chansRun r = false then .fault .notPossible
    else
      let s := if sdSkind d = 4 ∧ sdVop d ≠ 1 ∧ (chan r c).psize.isNone then takePacket s n c d else s
      let x := chan (raf s n) c
      match streamTotal r x d with
      | none => .next s
      | some total =>
        if sdDkind d = 3 then .next (streamFeed s n c x d total)
        else if (sdSkind d = 4 ∧ sdVop d = 1) ∨ total ≤ x.moved then .fault .notPossible
        else if sdDkind d = 4 then
          match (sdValley d).bind (endOfHandle s) with
          | some i => .next (streamSend s n c i x d total)
          | none => .fault .notPossible
        else
          let k := min (total - x.moved) (256 - srcAt s x d % 256)
          if dstFull (raf s n) x d k then .next s
          else
            match srcWaits s n c x d (total - x.moved) with
            | some t => .next t
            | none =>
            let (t, bs, bad) := srcLine s n c x d (total - x.moved)
            match bad with
            | some a => .next (haltChan t n c a)
            | none => .next (tookBytes (dstWrite t n c d x.moved bs) n c bs.length)

/-- Whether nothing of a descriptor is left to do: all its source taken and delivered, every write beat and every packet it
sent acknowledged (R145, R417). -/
def streamDone (s : State) (n c : Nat) (x : Chan) (d : SDesc) : Bool :=
  let r := raf s n
  let sent := match (sdValley d).bind (endOfHandle s) with
    | some i => (vend s i).sends.any fun k => match k.src with
      | .chan m b _ _ _ => decide (m = n ∧ b = c)
      | _ => false
    | none => false
  (match streamTotal r x d with | some t => decide (t ≤ x.moved) | none => false) && x.stage.isEmpty &&
  (!sdBsp d || decide (sdNshare d ≤ x.share)) && !(decide (sdDkind d = 4) && sent) &&
  !(r.beats.any fun b => b.chan = some c)

/-- STREAM_DESCRIPTOR_END (R140, R411, R417): the notice word's VALUE is the bytes moved, or the size of the packet
taken, whose ring space is freed. -/
def execStreamDescriptorEnd (n : Fin 256) (c : Fin 16) (s : State) : Out :=
  if stopped s then .fault .notPossible else
  let r := raf s n
  let x := chan r c
  match x.queue with
  | [] => .fault .notPossible
  | d :: _ =>
    if x.st ≠ .busy ∨ chansRun r = false ∨ streamDone s n c x d = false then .fault .notPossible
    else
      let packet := decide (sdSkind d = 4 ∧ sdVop d ≠ 1)
      let s := match (if packet then (sdValley d).bind (endOfHandle s) else none) with
        | some i => ringFree s i x.pseq
        | none => s
      .next (endDesc s n c 0 (if packet then x.psize.getD 0 else x.moved))

end Sys2Proof.Machine
end

