-- ==== Sys2Proof/Machine/Batcher.lean ====
section
/-! DEFINITION. The batcher (R81, R92-R98, R204, R211, R212): what is eligible, what a pass costs, the selection rule,
the dispatch of a pass into batch slots (R118, R119) and its taking by a rafter (R118, R121); publications,
reports and the placement loop (R95, R366, R371). -/

namespace Sys2Proof.Machine

/-! ## Small helpers -/

/-- The rafters of a layer group's mask. -/
def maskRafters (d : LGroup) : List Nat := idxs 256 fun n => d.rafters.getLsbD n

/-! ## Rows (R98, R211, R212) -/

/-- The HBM address of the draft record that a session's present step reads (R212). -/
def draftAddr (s : State) (i : Nat) : Nat :=
  rf s .sesDrbase 0 7 33 * 128 + 128 * i + 64 * ((ses s i).cseq.toNat % 2)

/-- The drafts that a session takes at START where `left` rows are free (R212). -/
def draftCount (s : State) (i left : Nat) : Nat :=
  let x := ses s i
  let dmax := rf s .batcSpec x.cls.val 0 4
  if dmax = 0 then 0
  else
    let n := fld (bytesWord ((devRead s (draftAddr s i) 8 (sesAcc s)).2.1)) 0 4
    min (min n dmax) (min (x.budget.toNat - 1) (left - 1))

/-- The session is at its START group, before the first group of a step. -/
def atStart (x : Session) : Bool := decide (x.lgrp = x.start)

/-- The rows that a session would take of a pass with `left` rows free (R98). -/
def rowsOf (s : State) (i left : Nat) : Nat :=
  let x := ses s i
  if !atStart x then x.nrows
  else if x.pend ≠ 0 then min x.pend.toNat (min (rf s .batCtl 0 0 5) left)
  else if left = 0 then 0 else 1 + draftCount s i left

/-- The most tokens that the present step can generate (R97). -/
def mostTokens (s : State) (i : Nat) : Nat :=
  let x := ses s i
  let n := rowsOf s i 16
  if x.pend ≠ 0 then (if n < x.pend.toNat then 0 else 1) else n

/-- A session owes a completion (R97). -/
def owes (s : State) (i : Nat) : Bool :=
  let x := ses s i
  let g := mostTokens s i
  x.closeReq || x.parkReq ||
  (decide (0 < g) && (decide (x.stoptok ≠ 0xFFFFFFFF) || decide (x.budget.toNat ≤ g))) ||
  decide (x.every ≠ 0 ∧ x.every.toNat ≤ x.since.toNat + g) ||
  (atStart x && !kvCheck s i (rowsOf s i 16))

/-- A ring can take a completion now (R105). -/
def ringFree_ (s : State) (r : Nat) : Bool := !ringFull s r && !(s.host.comps.any fun c => decide (c.ring.val = r))

/-- What the session engine would read of a session cannot be read now: its entry, its page list, its draft record (R302, R315,
R321). -/
def sesHeld (s : State) (i : Nat) : Bool :=
  let held := fun (a n : Nat) => rangeHeld s a n (sesAcc s).cls
  held (0x17C000000 + 64 * i) 64 || held (plistAddr s i) (4 * (ses s i).pages.length) || held (draftAddr s i) 64

/-- A session that the batcher may place in a pass of group `g` (R97). -/
def eligible (s : State) (g i : Nat) : Bool :=
  let x := ses s i
  decide (x.st = .ready) && !x.parking && !sesHeld s i && decide (x.lgrp.toNat = g) && decide (activeCount s < 65536) &&
  (ringFree_ s x.ring.val || !owes s i)

/-- The eligible sessions of a group, by READY_T, then by slot (R98). -/
def readySessions (s : State) (g : Nat) : List Nat :=
  (sortBy (fun i => (ses s i).readyT.toNat * 2 ^ 20 + i) ((usedSlots s).filter (eligible s g))).take
    (65536 - activeCount s)

/-- rows_for of sessions: the slots taken, each with its rows (R98). -/
def takeRows (s : State) : List Nat → Nat → List (Nat × Nat)
  | [], _ => []
  | i :: l, left =>
    let n := rowsOf s i left
    if n = 0 ∨ left < n then takeRows s l left else (i, n) :: takeRows s l (left - n)

/-- A queued row of an expert group: its arrival, its order among equals, its class, and where it is: the tag of a
gate slot or an inbox slot (R204). -/
structure QRow where
  arrive : Nat
  ord    : Nat
  cls    : Nat
  tag    : Option (BitVec 32) := none
  inbox  : Option Nat := none
  deriving DecidableEq, Repr

/-- The queued rows of an expert group, by arrival, and among equals by dispatch (R204). -/
def queuedRows (s : State) (g : Nat) : List QRow :=
  let mine := (s.gate.slots.filter fun x => decide (x.st = .queued ∧ x.group.toNat = g)).map fun x =>
    ({ arrive := x.arrive.toNat, ord := x.ord, cls := x.cls.val, tag := some x.tag } : QRow)
  let far := (s.gate.inbox.filter fun e => decide (e.2.egrp.toNat = g) && !e.2.inPass).map fun e =>
    ({ arrive := e.2.arrive.toNat, ord := e.2.ord, cls := e.2.cls.val, inbox := some e.1 } : QRow)
  sortBy QRow.arrive (sortBy QRow.ord (mine ++ far))

/-! ## What the batcher may choose (R97, R204) -/

/-- A choice of the batcher: a group's sessions with their rows, or an expert group's queued rows. -/
structure Choice where
  group : Nat
  ss    : List (Nat × Nat) := []
  qs    : List QRow := []
  fill  : Nat
  old   : Nat
  cls   : Nat
  deriving DecidableEq, Repr

/-- A rafter that can take a pass: a batch slot is free, it is neither frozen nor retired, and none of its channels is
FROZEN (R92, R97, R118). -/
def slotFree (s : State) (n : Nat) : Bool :=
  let r := raf s n
  (r.slot0.isNone || r.slot1.isNone) && decide (r.st ≠ .frozen ∧ r.st ≠ .retired) && decide (chfrz r = 0) &&
  !retired s n

/-- slots_free(g). -/
def slotsFree (s : State) (g : Nat) : Bool :=
  let d := lgrp s g
  d.valid && !groupBlocked s g && (maskRafters d).all (slotFree s)

/-- The choice of a group's eligible sessions. -/
def sessionChoice (s : State) (g : Nat) : Option Choice :=
  match readySessions s g with
  | [] => none
  | i :: l =>
    let rows := takeRows s (i :: l) 16
    if rows.isEmpty then none else
    some { group := g, ss := rows, fill := (rows.map Prod.snd).sum, old := (ses s i).readyT.toNat,
           cls := (ses s i).cls.val }

/-- The choice of a group's queued rows. -/
def expertChoice (s : State) (g : Nat) : Option Choice :=
  match queuedRows s g with
  | [] => none
  | q :: l =>
    let rows := (q :: l).take 16
    some { group := g, qs := rows, fill := rows.length, old := q.arrive, cls := q.cls }

/-- The groups with eligible rows, ascending. -/
def liveGroups (s : State) : List Nat :=
  let a := (usedSlots s).filterMap fun i =>
    if (ses s i).st = .ready then some (ses s i).lgrp.toNat else none
  let b := (s.gate.slots.filter fun x => decide (x.st = .queued)).map fun x => x.group.toNat
  let c := (s.gate.inbox.filter fun e => !e.2.inPass).map fun e => e.2.egrp.toNat
  sortBy id (a ++ b ++ c).dedup

/-- Every choice with free batch slots, by group, a group's queued rows before its sessions (R204). -/
def choices (s : State) : List Choice :=
  ((liveGroups s).filter (slotsFree s)).flatMap fun g =>
    (expertChoice s g).toList ++ (sessionChoice s g).toList

/-! ## Cost and cover (R97) -/

/-- cost(g, fill): quanta for each course 0-79. -/
def costOf (s : State) (g fill : Nat) : List Nat :=
  let d := lgrp s g
  let e := (tget 0 s.bat.etab (d.kind.toNat * 256 + d.fmt.toNat * 16 + (fill - 1))).toNat
  let ns := maskRafters d
  let cs := ns.map (courseOf s)
  let rs := ns.map (rowOf s)
  (List.range 80).map fun q =>
    let n := if q < 64 then cs.count q else rs.count (q - 64)
    let per := if q < 64 then e / 65536 else e % 65536
    (n * per * d.units.toNat + 4095) / 4096

/-- The balance of a course (R97). -/
def balOf (s : State) (q : Nat) : Int := tget 0 s.bat.bal q

/-- The capacity and refill of a course, as last published (R366). -/
def acctOf (s : State) (q : Nat) : Acct := tget {} s.bat.acct q

/-- A course's balance lies below what a cost asks of it. -/
def shortOn (s : State) (q c : Nat) : Bool :=
  decide (0 < c) && decide (balOf s q < ((min c (acctOf s q).cap.toNat : Nat) : Int))

/-- The courses that do not cover a cost. -/
def uncovered (s : State) (c : List Nat) : List Nat :=
  idxs 80 fun q => let k := nth c q 0
    decide (0 < k) && (decide ((acctOf s q).refill = 0) || shortOn s q k)

/-- A selection refused for want of cover: the courses are counted, and SHORT is noted (R366, R515). -/
def noteShort (s : State) (c : List Nat) : State :=
  let s := (uncovered s c).foldl (fun s q => countT s 0x114 q 1) s
  { s with bat := { s.bat with
      short := (idxs 80 fun q => shortOn s q (nth c q 0)).foldl (fun t q => tput false t q true) s.bat.short } }

/-- A course's balance debited by `k`, and DEBIT counted (R97, R366). -/
def debit (s : State) (c : List Nat) : State :=
  (List.range 80).foldl (fun s q =>
    let k := nth c q 0
    if k = 0 then s else
    { s with bat := { s.bat with
        bal := tput 0 s.bat.bal q (balOf s q - (k : Int)), debit := tput 0 s.bat.debit q (tget 0 s.bat.debit q + k) } }) s

/-- What was debited and is not spent is added back (R97). -/
def refund (s : State) (was now : List Nat) : State :=
  (List.range 80).foldl (fun s q =>
    let a := nth was q 0
    let b := nth now q 0
    if a = b then s else
    { s with bat := { s.bat with
        bal := tput 0 s.bat.bal q (balOf s q + ((a : Int) - (b : Int))),
        debit := tput 0 s.bat.debit q (tget 0 s.bat.debit q + b - a) } }) s

/-- The present hold time of a class in ns (R93). -/
def holdNs (s : State) (c : Nat) : Nat := rf s .batcClass c 0 12 * 64

/-- The target of a class in ns. -/
def targetNs (s : State) (c : Nat) : Nat := rf s .batcClass c 40 24 * 1000

/-- A choice's due time, at which its hold ends (R97). -/
def dueOf (s : State) (x : Choice) : Nat := x.old + holdNs s x.cls

/-- The first part of the selection rule: the most urgent choice that is due and covered. The state notes what was
refused. -/
def selectDue (s : State) : State × Option (Choice × List Nat) :=
  let (s, b) := (choices s).foldl (fun (y : State × Option (Choice × List Nat × Nat)) x =>
    let s := y.1
    if x.fill < 16 ∧ (nowT s).toNat < dueOf s x then y
    else
      let c := costOf s x.group x.fill
      if !(uncovered s c).isEmpty then (noteShort s c, y.2)
      else
        let u := x.old + targetNs s x.cls
        match y.2 with
        | some b => if u < b.2.2 then (s, some (x, c, u)) else y
        | none => (s, some (x, c, u))) (s, none)
  (s, b.map fun b => (b.1, b.2.1))

/-- The second part: the cheapest covered work of kind ATTN or YEALM. -/
def selectCheap (s : State) : State × Option (Choice × List Nat) :=
  ((choices s).filter fun x => decide ((lgrp s x.group).kind = 2 ∨ (lgrp s x.group).kind = 3)).foldl
    (fun (y : State × Option (Choice × List Nat)) x =>
      let s := y.1
      let c := costOf s x.group x.fill
      if !(uncovered s c).isEmpty then (noteShort s c, y.2)
      else
        match y.2 with
        | some b => if c.sum < b.2.sum then (s, some (x, c)) else y
        | none => (s, some (x, c))) (s, none)

/-! ## Dispatch (R97, R118, R119, R204) -/

/-- The rows' tokens of a session: its prompt tokens, or its last token and the drafts. A token identifier that this
device was never given (a session migrated here with tokens pending, R102) is open. -/
def rowTokens (s : State) (i : Nat) : State × List Nat :=
  let x := ses s i
  if x.pend ≠ 0 then
    (List.range x.nrows).foldl (fun y j =>
      match x.prompt[j]? with
      | some t => (y.1, y.2 ++ [t.toNat])
      | none => let (s, d) := takeFree y.1; (s, y.2 ++ [fld d 0 32])) (s, [])
  else if x.nrows ≤ 1 then (s, [x.last.toNat])
  else
    let (s, bs, _) := devRead s (draftAddr s i) 64 (sesAcc s)
    (s, x.last.toNat :: (List.range (x.nrows - 1)).map fun q => bytesNat ((bs.drop (4 + 4 * q)).take 4))

/-- The row records of a session (R119). -/
def rowRecords (s : State) (i : Nat) : State × List (List Word) :=
  let (s, ts) := rowTokens s i
  let x := ses s i
  (s, (ts.zip (List.range x.nrows)).map fun p =>
    [mkWord [(32, 32, (sesHandle s i).toNat), (27, 5, p.2), (22, 5, x.nrows), (21, 1, b2n (x.pend ≠ 0)),
        (20, 1, b2n x.redo)],
      mkWord [(32, 32, x.pos.toNat + p.2), (0, 32, p.1)], mkWord [(32, 32, x.pages.length)],
      BitVec.ofNat 64 (plistAddr s i), hotWord s x, sampWord x, mkWord [(32, 32, x.budget.toNat)], 0])

/-- The row record of an expert row (R204). -/
def expertRecord (handle : Nat) (j expert rblk : Nat) : List Word :=
  [mkWord [(32, 32, handle)], 0, 0, 0, 0, 0, 0, mkWord [(61, 3, j), (52, 9, expert), (0, 40, rblk)]]

/-- The next pass number (R119). -/
def nextPass (p : BitVec 32) : BitVec 32 := if p = 0xFFFFFFFF then 1 else p + 1

/-- Writes a pass into a free batch slot of rafter `n`, slot 0 where both are free, and its notice word (R118, R119): the
session engine's stop for the rafter's die sends them (R22), and they go up its spar channel.
Answers the slot and the pass number. -/
def writeSlot (s : State) (n g fill : Nat) (rows : List (List Word)) : State × Nat × BitVec 32 :=
  let r := raf s n
  let b := if r.slot0.isNone then 0 else 1
  let num := nextPass r.passCtr
  let head := [mkWord [(50, 14, g), (45, 5, fill), (0, 32, num.toNat)], nowT s, 0, 0, 0, 0, 0, 0]
  let ws := head ++ rows.flatten
  let bs := wordsBytes (ws ++ List.replicate (136 - ws.length) 0)
  let r := { r with
    passCtr := num, store := writeBytes r.store (0xEC000 + 0x1000 * b) bs,
    slot0 := if b = 0 then some num else r.slot0, slot1 := if b = 0 then r.slot1 else some num,
    first1 := decide (b = 0) && r.slot1.isSome }
  (writeBeats (setRaf s n (notify r b 0 num.toNat)) n (1088 + 8), b, num)

/-- Sends a pass to every rafter of its group, and notes it as dispatched. -/
def sendPass (s : State) (g fill : Nat) (rows : List PRow) (recs : List (List Word)) (expert : Bool) : State :=
  let ns := maskRafters (lgrp s g)
  let (s, ts) := ns.foldl (fun (y : State × List (Nat × Nat × BitVec 32)) n =>
    let (s, b, num) := writeSlot y.1 n g fill recs
    (s, y.2 ++ [(n, b, num)])) (s, [])
  let first := (ts.head?).getD (0, 0, 0)
  let p : Pass := {
    id := s.ses.nextId, group := BitVec.ofNat 14 g, fill := fill, rows := rows, targets := ts, rep := first.1,
    repSlot := first.2.1, repNum := first.2.2, expert := expert }
  let s := { s with ses := { s.ses with passes := s.ses.passes ++ [p], nextId := s.ses.nextId + 1 } }
  countT (countT s 0x111 0 1) 0x112 0 fill

/-- Whether the session engine finds a word of a session's entry or of its page list uncorrectable (R445). -/
def entryBad (s : State) (i : Nat) : Bool := (List.range 8).any fun k => badAt s (0x17C000000 + 64 * i + 8 * k)

/-- As `entryBad`, of the page list. -/
def plistBad (s : State) (i : Nat) : Bool :=
  decide ((ses s i).pages ≠ []) && (devRead s (plistAddr s i) (4 * (ses s i).pages.length) (sesAcc s)).2.2.isSome

/-- A session's entry is lost (R84, R445): the slot leaves service, and a notice names the slot. -/
def loseUnreadable (s : State) (i : Nat) : State := lostSession (loseEntry s i) i i

/-- What the session engine reads of a session at START: its entry, its page list, and its draft record where its class
takes drafts (R97, R98, R212, R445). -/
def readSession (s : State) (i : Nat) : State :=
  let x := ses s i
  let s := arrayRead s (lineOf (0x17C000000 + 64 * i)) 0 (sesAcc s) true
  let s := if x.pages = [] then s else (devRead s (plistAddr s i) (4 * x.pages.length) (sesAcc s)).1
  if x.pend ≠ 0 ∨ rf s .batcSpec x.cls.val 0 4 = 0 then s else (devRead s (draftAddr s i) 64 (sesAcc s)).1

/-- A session taken by a pass: at START its entry and page list are read, the KV page check is made, and its pages
and rows are fixed (R84, R88, R97, R98, R445). The flag says whether it stays in the pass. -/
def enterPass (s : State) (i n : Nat) : State × Bool :=
  if !atStart (ses s i) then (modSes s i fun x => { x with st := .running }, true)
  else
  let s := readSession s i
  if entryBad s i then (loseUnreadable s i, false)
  else if plistBad s i then (endSession s i, false)
  else if !kvCheck s i n then (modSes (doneComp s i 0x07) i fun x => { x with st := .open }, false)
  else
    let s := takePages s i (pagesNeeded s i n - (ses s i).pages.length)
    (takeHot (modSes s i fun x => { x with st := .running, nrows := n }) i, true)

/-- Dispatches sessions: those that fail at START leave the pass, and the cost is taken again (R97). -/
def dispatchSessions (s : State) (x : Choice) (c : List Nat) : State :=
  let (s, kept) := x.ss.foldl (fun (y : State × List (Nat × Nat)) p =>
    let (s, ok) := enterPass y.1 p.1 p.2
    (s, if ok then y.2 ++ [p] else y.2)) (s, [])
  let fill := (kept.map Prod.snd).sum
  if kept.isEmpty then refund s c []
  else
    let s := if fill = x.fill then s else refund s c (costOf s x.group fill)
    let (s, rows, recs, _) := kept.foldl
      (fun (y : State × List PRow × List (List Word) × Nat) p =>
        let (s, rs) := rowRecords y.1 p.1
        (s, y.2.1 ++ [{ slot := p.1, handle := sesHandle s p.1, nrows := p.2, rowIx := y.2.2.2 }],
          y.2.2.1 ++ rs, y.2.2.2 + p.2)) (s, [], [], 0)
    sendPass s x.group fill rows recs false

/-- Dispatches the queued rows of an expert group (R204). -/
def dispatchRows (s : State) (x : Choice) : State :=
  let (s, rows, recs) := x.qs.foldl (fun (y : State × List PRow × List (List Word)) q =>
    let s := y.1
    match q.inbox with
    | some b =>
      let e := tget { tag := 0, rvh := 0, egrp := 0, expert := 0, cls := 0, xspan := 0, yspan := 0, arrive := 0 }
        s.gate.inbox b
      let inbox := s.gate.inbox.map fun z => if z.1 = b then (b, { z.2 with inPass := true }) else z
      let s := { s with gate := { s.gate with inbox := inbox } }
      (s, y.2.1 ++ [{ slot := 0, handle := 0, nrows := 1, rowIx := y.2.1.length, inbox := some b }],
        y.2.2 ++ [expertRecord 0 0 e.expert.toNat (inboxAddr s b)])
    | none =>
      match s.gate.slots.find? fun g => some g.tag = q.tag with
      | none => y
      | some g =>
        (putSlot s { g with st := .inPass },
          y.2.1 ++ [{ slot := g.sess, handle := g.handle, nrows := 1, rowIx := y.2.1.length, tag := some g.tag }],
          y.2.2 ++ [expertRecord g.handle.toNat g.j g.expert g.rblk])) (s, [], [])
  sendPass s x.group x.fill rows recs true

/-- Dispatches a choice after its debit. -/
def dispatch (s : State) (x : Choice) (c : List Nat) : State :=
  let s := debit s c
  if x.qs.isEmpty then dispatchSessions s x c else dispatchRows s x

/-- Whether the session engine works: from SEAL until a fail stop or shutdown begins. -/
def engineRuns (s : State) : Bool := sealed s && !stopped s

/-- The fill of the pass that a dispatch from `s` to `t` sent; none where no session stayed in it. -/
def sentFill (s t : State) : Option Nat :=
  if t.ses.nextId = s.ses.nextId then none else (t.ses.passes.getLast?).map (·.fill)

/-- A dispatch as a hold's expiry chose it: a pass below 16 rows is counted (R515). -/
def dispatchDue (s : State) (x : Choice) (c : List Nat) : State :=
  let t := dispatch s x c
  if (sentFill s t).any (· < 16) then countT t 0x113 0 1 else t

/-- A dispatch as the cheapest ready work: its pass is counted (R515). -/
def dispatchCheap (s : State) (x : Choice) (c : List Nat) : State :=
  let t := dispatch s x c
  if (sentFill s t).isSome then countT t 0x115 0 1 else t

/-- select() and dispatch (R97). With nothing to choose the batcher waits. -/
def select (s : State) : State :=
  match selectDue s with
  | (s, some (x, c)) => dispatchDue s x c
  | (s, none) =>
    match selectCheap s with
    | (s, some (x, c)) => dispatchCheap s x c
    | (s, none) => s

/-- BATCHER_SELECT (R97). -/
def execBatcherSelect (s : State) : Out := if engineRuns s then .next (select s) else .fault .notPossible

/-- HOLD_DUE: the earliest due time still ahead comes, and the batcher selects again (R97). -/
def execHoldDue (s : State) : Out :=
  let ahead := ((choices s).filter fun x => decide (x.fill < 16)).filterMap fun x =>
    if (nowT s).toNat < dueOf s x then some (dueOf s x) else none
  match leastBy id ahead with
  | some t => if engineRuns s then .next (select (dueT s t)) else .fault .notPossible
  | none => .fault .notPossible

/-! ## Taking a pass (R118) -/

/-- A batch slot holds a pass that its rafter has yet to run. -/
def takeable (s : State) (n b : Nat) (num : Option (BitVec 32)) : Bool :=
  match num with
  | some k => s.ses.passes.any fun p => p.targets.any fun t => decide (t = (n, b, k))
  | none => false

/-- A freeze found at dispatch (R118, R133). -/
def dispatchFreeze (s : State) (n cause pc : Nat) (addr : Nat) : State :=
  let s := writeFrame s n { cause := cause, pc := BitVec.ofNat 20 pc, addr := BitVec.ofNat 64 addr }
  freezeRafter (countR s n 0x00C 1) n cause

/-- PASS_TAKE: an idle rafter with no frozen channel takes the pass that was written first (R118, R121). Its instruction
buffer starts afresh (R116), and the header and entry words are fetched; while the bay is in reset or the spar channel is
paused, the fetch waits in the request table and no pass is taken (R145). -/
def execPassTake (n : Fin 256) (s : State) : Out :=
  if stopped s then .fault .notPossible else
  let r := raf s n
  let t0 := takeable s n 0 r.slot0
  let t1 := takeable s n 1 r.slot1
  if r.st ≠ .idle ∨ chfrz r ≠ 0 ∨ (t0 || t1) = false then .fault .notPossible
  else
    let b := if t1 && (!t0 || r.first1) then 1 else 0
    let num := ((if b = 0 then r.slot0 else r.slot1)).getD 0
    let off := 0xEC000 + 0x1000 * b
    let w := storeWord r off
    let g := fld w 50 14
    let ent := (lgrp s g).entry.toNat
    let was := s
    let s := modRaf s n fun r => { r with cur := b, pass := num }
    let s := modRaf s n fun r => { r with ibuf := [] }
    let head := imgWord s n 0
    let at_ := 0x40 + 4 * ent
    let wait := fun (o : Nat) => (.next (askRead was n [codeReq was n none o]) : Out)
    match fetch s n none 0 with
    | .hold _ => wait 0
    | .bad t => .next (dispatchFreeze t n 0x03 0 (imgAddr s n 0))
    | .ok t =>
    match fetch t n none (at_ / 8 * 8) with
    | .hold _ => wait at_
    | .bad u => .next (dispatchFreeze u n 0x03 at_ (imgAddr s n at_))
    | .ok u =>
    if fld head 20 12 < ent then .next (dispatchFreeze u n 0x13 at_ 0)
    else
      let e := fld (imgWord s n (at_ / 8 * 8)) (8 * (at_ % 8)) 20
      .next (modRaf u n fun r =>
        let r := setSreg (setSreg (setSreg r 1 (BitVec.ofNat 64 off)) 2 (BitVec.ofNat 64 (fld w 45 5))) 3
          (BitVec.ofNat 64 g)
        { r with
          st := .run, pc := BitVec.ofNat 20 e, wait := .none, sweep := none,
          size := BitVec.ofNat 32 (fld head 32 32), trap := BitVec.ofNat 20 (fld head 0 20) })

/-! ## Publications and reports (R95, R97, R98, R366) -/

/-- The commit intervals of a list of commit times. -/
def gaps : List Word → List Nat
  | [] => []
  | [_] => []
  | a :: b :: l => (b.toNat - a.toNat) :: gaps (b :: l)

/-- The HOLD of a class after a lap (R95). -/
def newHold (hold hmin hmax target num sum : Nat) : Nat :=
  if num = 0 then hold
  else if 9 * target * 1000 * num < 10 * sum then max hmin (hold / 2)
  else if 2 * sum < target * 1000 * num then min hmax (hold + max 1 (hold / 8))
  else hold

/-- adapt_hold over the commit intervals that begin and end in the lap just ended, those of sessions freed meanwhile
among them (R95). -/
def adaptHold (s : State) (lap : Nat) : State :=
  let lapOf := fun (t : Word) => t.toNat / 2048000
  let later := fun (ts : List Word) => ts.filter fun t => decide (lap < lapOf t)
  let s := (List.range 8).foldl (fun s c =>
    let live := (s.ses.sess.filter fun e => decide (e.2.cls.val = c)).map fun e => e.2.times
    let gone := (s.bat.gone.filter fun e => decide (e.1 = c)).map Prod.snd
    let gs := (live ++ gone).flatMap fun ts => gaps (ts.filter fun t => lapOf t = lap)
    rfSet s .batcClass c 0 12 (newHold (rf s .batcClass c 0 12) (rf s .batcClass c 16 12) (rf s .batcClass c 28 12)
      (rf s .batcClass c 40 24) gs.length gs.sum)) s
  { s with
    ses := { s.ses with sess := tmap (sesDef s) (fun x => { x with times := later x.times }) s.ses.sess },
    bat := { s.bat with gone := (s.bat.gone.map fun e => (e.1, later e.2)).filter fun e => decide (2 ≤ e.2.length) } }

/-- ENERGY_PUBLICATION: the batcher takes the message on its way and returns its report (R97, R366); both wait while their
flow is taken over by another eaves link (R34, R446). -/
def execEnergyPublication (s : State) : Out :=
  match s.heat.pub with
  | none => .fault .notPossible
  | some p =>
    if !engineRuns s then .fault .notPossible
    else if flowWaits s .housekeeping then .next s
    else
    let at_ := fun (q : Nat) => nth p.acct q {}
    let b := s.bat
    let short := fun (q : Nat) => tget false b.short q
    let rep := (List.range 80).map fun q => (tget 0 b.debit q, short q)
    let bat := { b with
      acct := (List.range 80).foldl (fun t q => tput {} t q (at_ q)) [],
      bal := (List.range 80).foldl (fun t q =>
        tput 0 t q (min ((at_ q).cap.toNat : Int) (tget 0 b.bal q + ((at_ q).refill.toNat : Int)))) b.bal,
      dry := (idxs 80 short).foldl (fun t q => tmod 0 t q (· + 1)) b.dry,
      debit := [], short := [], pubs := b.pubs + 1, lastPub := nowT s, gapSaid := false }
    .next (adaptHold { s with bat := bat, heat := { s.heat with pub := none, report := some rep } } p.lap)

/-- PUBLICATION_GAP: 4.096 ms without a publication; one budget notice for the gap (R98, R519). -/
def execPublicationGap (s : State) : Out :=
  if !engineRuns s || s.bat.gapSaid then .fault .notPossible
  else
    let s := dueT s (s.bat.lastPub.toNat + 4096000 + 64)
    .next (raiseT { s with bat := { s.bat with gapSaid := true } } 0x0023 (srcOf 14 0) 2)

/-- BUDGET_REPORT: the batcher's report reaches the heat and budget block (R366). -/
def execBudgetReport (s : State) : Out :=
  match s.heat.report with
  | none => .fault .notPossible
  | some rep =>
    if flowWaits s .housekeeping then .next s else
    let at_ := fun (q : Nat) => nth rep q (0, false)
    let h := s.heat
    .next { s with heat := { h with
      report := none,
      debit := (List.range 80).foldl (fun t q => tput 0 t q (at_ q).1) [],
      short := (List.range 80).foldl (fun t q => tput false t q (at_ q).2) [],
      debitH := (List.range 80).foldl (fun t q =>
        tput [] t q (((at_ q).1 :: tget [] h.debitH q).take 16)) h.debitH,
      energyH := (List.range 80).foldl (fun t q =>
        tput [] t q ((tget 0 h.lapE q :: tget [] h.energyH q).take 16)) h.energyH } }

/-! ## The placement loop (R371) -/

/-- The dryness of a group. -/
def dryness (s : State) (g : Nat) : Nat :=
  (maskRafters (lgrp s g)).foldl (fun m n =>
    max m (max (tget 0 s.bat.dry (courseOf s n)) (tget 0 s.bat.dry (64 + rowOf s n)))) 0

/-- What one pair of the placement table does, with the sessions moved and the entries rewritten before it: where it is
enabled, dry enough and apart enough, it moves from the drier group to the other (R371). -/
def placePair (x : State × Nat × Nat) (k : Nat) : State × Nat × Nat :=
  let t := x.1
  let v := plPair t k
  let da := dryness t (fld v 48 14)
  let db := dryness t (fld v 34 14)
  if !bitOf v 63 || decide (max da db < rf t .batPlctl 0 32 8) ||
      decide (max da db - min da db < rf t .batPlctl 0 24 8) then x
  else
    let (src, dst) := if db < da then (fld v 48 14, fld v 34 14) else (fld v 34 14, fld v 48 14)
    let (t, a, b) := movePair t (bitOf v 62) src dst (rf t .batPlctl 0 0 16)
    (t, x.2.1 + a, x.2.2 + b)

/-- PLACEMENT_ROUND: LAPS publications have come, and the loop runs (R371). -/
def execPlacementRound (s : State) : Out :=
  if !rbit s .batPlctl 0 63 || decide (s.bat.pubs < rf s .batPlctl 0 40 8) || !engineRuns s then .fault .notPossible
  else
    let (t, m, w) := (List.range 256).foldl placePair (s, 0, 0)
    .next { placeNotice t m w with bat := { (placeNotice t m w).bat with dry := [], pubs := 0 } }

end Sys2Proof.Machine
end

