-- ==== Sys2Proof/Machine/Commit.lean ====
section
/-! DEFINITION. The commit point and what follows it (R99, R100), the release of pages (R84, R89), migration at the
target and its end at the source (R84, R102), and the gate unit's events (R201, R205-R208). -/

namespace Sys2Proof.Machine

/-! ## The commit point (R99, R100) -/

/-- SINCE after `k` more tokens. With EVERY 0 it may outgrow its 8 bits, and what it then holds is open. -/
def sinceAdd (s : State) (x : Session) (k : Nat) : State × Byte :=
  if x.since.toNat + k < 256 then (s, BitVec.ofNat 8 (x.since.toNat + k))
  else let (s, d) := takeFree s; (s, BitVec.ofNat 8 (fld d 0 8))

/-- A session's entry is written whole in one bay write (R99); it is the entry as at the last commit point (R102). -/
def writeEntry (s : State) (i : Nat) : State :=
  let ws := entryWords s (ses s i)
  modSes (devWrite s (0x17C000000 + 64 * i) (wordsBytes ws) (sesAcc s)) i fun x => { x with ent := ws }

/-- The session after its step has committed `gen` tokens (R99). -/
def committed (x : Session) (gen : List (BitVec 32)) (since : Byte) (now : Word) : Session :=
  { x with
    cseq := x.cseq + 1, pos := x.pos + BitVec.ofNat 32 (x.took + gen.length),
    pend := x.pend - BitVec.ofNat 32 x.took, prompt := x.prompt.drop x.took,
    budget := x.budget - BitVec.ofNat 32 gen.length, since := since,
    dest := x.dest + BitVec.ofNat 64 (4 * gen.length), lgrp := x.start, nrows := 0, redo := false,
    base := x.pages.length, last := (gen.getLast?).getD x.last, ended := false, gened := [], took := 0,
    times := x.times ++ [now], skip := 0 }

/-- A session's tail page has filled: its hot copy is of another page than the next append goes to (R89). -/
def tailFilled (s : State) (i : Nat) : Bool :=
  let x := ses s i
  x.hot.isSome && decide (x.hotIx ≠ x.pos.toNat / tpp s x)

/-- The hot copy of a tail page that has filled is written back (R89); one that cannot be read ends the session
(R445). -/
def fillBack (s : State) (i : Nat) : State := if tailFilled s i then backOrEnd s i else s

/-- A session that stays runnable after its commit: READY, its tail page in the hot pool (R89); the copy of a tail page that
has filled is written back. -/
def runOn (s : State) (i : Nat) : State :=
  let s := fillBack (modSes s i fun x => { x with st := .ready, readyT := nowT s }) i
  if (ses s i).st = .ready then takeHot s i else s

/-- The next state of R100 items 3 and 4. -/
def nextState (s : State) (i : Nat) (stop : Bool) : State :=
  let x := ses s i
  if x.closeReq then enterClosing (doneComp s i 0x0B) i
  else if x.parkReq then parkNow (modSes s i fun x => { x with st := .ready }) i
  else if x.budget = 0 ∨ stop = true then
    fillBack (modSes (doneComp s i (if x.budget = 0 then 0x08 else 0x09)) i fun x => { x with st := .open }) i
  else runOn s i

/-- The tokens that a session's step commits: those generated within its budget (R99). -/
def stepTokens (x : Session) : List (BitVec 32) := x.gened.take x.budget.toNat

/-- Items 1 and 2 of the commit point (R99, R100): the entry is written; then the tokens go to DEST, and the TOKENS completion
follows where it is due. -/
def commitStep (s : State) (i : Nat) : State :=
  let x := ses s i
  let gen := stepTokens x
  let (s, since) := sinceAdd s x gen.length
  let s := countT (writeEntry (setSes s i (committed x gen since (nowT s))) i) 0x110 0 1
  let s := if gen.isEmpty then s else
    modSes (hostSend s (.mwr x.dest (gen.flatMap fun t => natBytes t.toNat 4))) i fun x =>
      { x with counted := x.counted + gen.length }
  if x.every ≠ 0 ∧ x.every.toNat ≤ x.since.toNat + gen.length then
    modSes (sesComp s i 0x02 0) i fun x => { x with since := 0, counted := 0 }
  else s

/-- COMMIT_POINT (R99, R100): the entry is written; then the tokens, the TOKENS completion, the next state. A session
whose entry lies in a bay being retired then moves (R442). -/
def execCommitPoint (slot : Fin 1048576) (s : State) : Out :=
  if stopped s then .fault .notPossible else
  let i := slot.val
  let x := ses s i
  if x.st ≠ .running ∨ x.ended = false ∨ engineRuns s = false then .fault .notPossible
  else
    let t := nextState (commitStep s i) i (decide (x.stoptok ≠ 0xFFFFFFFF) && (stepTokens x).contains x.stoptok)
    .next (placeBlocked (if x.move && decide ((ses t i).st ≠ .closing) then moveSession t i else t))

/-! ## Pages released (R84, R89) -/

/-- A session's oldest write-back has ended, and its hot page is freed (R89). -/
def writtenBack (x : Session) : Session :=
  match x.olds with
  | [] => { x with hot := none, wb := false }
  | _ :: l => { x with olds := l }

/-- A session has a write-back in flight (R89). -/
def backing (x : Session) : Bool := x.wb || !x.olds.isEmpty

/-- A line of a session's write-back waits on its way to HBM (R302, R315, R321). -/
def backHeld (s : State) (x : Session) : Bool :=
  s.bays.any fun e => e.2.away.any fun w => w.runs.any fun r =>
    x.pages.any fun p => decide (pageAddr s p = r.1 / 65536 * 65536)

/-- HOT_PAGE_WRITEBACK_DONE: the hot page is freed; a parking session is PARKED once its last write-back has ended; the
sessions that lack one take a hot page for their tail pages (R84, R89). -/
def execHotPageWritebackDone (slot : Fin 1048576) (s : State) : Out :=
  if stopped s then .fault .notPossible else
  let i := slot.val
  let x := ses s i
  if backing x = false then .fault .notPossible
  else if backHeld s x then .next s
  else
    let s := modSes s i writtenBack
    .next (giveHot (if x.parking && !backing (ses s i) then placeBlocked (toParked s i) else s))

/-- SESSION_PAGES_RELEASED: a CLOSING session whose hot page is released becomes FREE, its pages in the pool
(R78, R84). -/
def execSessionPagesReleased (slot : Fin 1048576) (s : State) : Out :=
  if stopped s then .fault .notPossible else
  let x := ses s slot.val
  if x.st ≠ .closing ∨ backing x = true then .fault .notPossible
  else .next (giveHot (freeSession s slot.val))

/-! ## Migration (R84, R102) -/

/-- MIGRATION_PACKET: a header or a page chunk reaches the session engine of the target (R102, R410). -/
def execMigrationPacket (v : Fin 65536) (s : State) : Out :=
  if stopped s then .fault .notPossible else
  let e := vend s v
  match nextPacket s v with
  | none => .fault .notPossible
  | some p =>
    if e.st ≠ .live ∨ e.cons ≠ 2 ∨ p.size = 32 ∨ engineRuns s = false then .fault .notPossible
    else if packetHeld s v p (sesAcc s) then .next s
    else
      let (s, bs, bad) := packetData s v p (sesAcc s)
      let s := ringFree s v p.pseq
      .next (match arrivingOn s v with
        | some i => migChunk s i bs bad.isSome
        | none => if p.size = 64 then migHeader s v bs else s)

/-- FINAL_COMMIT_RECORD: the target checks what it has received and takes the session, or refuses it and frees what
it took (R102). -/
def execFinalCommitRecord (v : Fin 65536) (s : State) : Out :=
  if stopped s then .fault .notPossible else
  let e := vend s v
  match nextPacket s v with
  | none => .fault .notPossible
  | some p =>
    if e.st ≠ .live ∨ e.cons ≠ 2 ∨ p.size ≠ 32 ∨ engineRuns s = false then .fault .notPossible
    else if packetHeld s v p (sesAcc s) then .next s
    else
      let (s, bs, bad) := packetData s v p (sesAcc s)
      let s := ringFree s v p.pseq
      match arrivingOn s v with
      | none => .next s
      | some i => .next (finalRecord s v i bs bad.isSome)

/-- The end over which a session leaves, with the reply that has come over it. -/
def replyFor (s : State) (i : Nat) : Option (Nat × VRing) :=
  let x := ses s i
  if x.st ≠ .migrating ∨ x.back = .free ∨ engineRuns s = false then none
  else (endOfHandle s x.aux).bind fun v => if (vend s v).st = .live then (nextPacket s v).map fun p => (v, p) else none

/-- MIGRATION_ACCEPTANCE: MIG_OUT with MIGRATED, and the session closes (R84). -/
def execMigrationAcceptance (slot : Fin 1048576) (s : State) : Out :=
  if stopped s then .fault .notPossible else
  let i := slot.val
  match replyFor s i with
  | none => .fault .notPossible
  | some (v, p) =>
    let s := sesComp (ringFree s v p.pseq) i 0x05 0x0C
    .next (enterClosing (modSes s i fun x => { x with aux := 0 }) i)

/-- A migration fails at the source: MIG_OUT with MIG_FAIL, and the state before it (R84, R442). -/
def migFail (s : State) (i : Nat) : State :=
  let s := modSes (sesComp s i 0x05 0x0D) i fun x => { x with st := x.back, aux := 0 }
  if (ses s i).move then moveSession s i else s

/-- MIGRATION_REFUSAL (R84). -/
def execMigrationRefusal (slot : Fin 1048576) (s : State) : Out :=
  if stopped s then .fault .notPossible else
  match replyFor s slot.val with
  | none => .fault .notPossible
  | some (v, p) => .next (migFail (ringFree s v p.pseq) slot.val)

/-! ## The gate unit (R201, R205-R208) -/

/-- A row block of `len` bytes meets a report area of its own pass (R195, R208). -/
def meetsArea (s : State) (p : Pass) (a len : Nat) : Bool :=
  (List.range (len / 4096 + 2)).any fun k =>
    let b := if k = 0 then a else a / 4096 * 4096 + 4096 * k
    let m := min (a + len) (b / 4096 * 4096 + 4096) - b
    decide (0 < m) && decide (bayOf b = p.rep) && overlaps (offOf b) m (areaOff s p.repSlot) 0x9000

/-- A row block's length under a table (R197, R198); the words alone where the pass carries no request. DESIGN CHOICE
(assumption log 37): it extends over KM1 + 1 slots of Y, not over 8. -/
def blockLen (s : State) (greq : Bool) (t : Nat) : Nat :=
  if greq then 0x80 + 64 * xspan s t + 64 * yspan s t * (rf s .gateThdrt t 51 3 + 1) else 0x80

/-- A row block of `len` bytes that is not aligned, not in live bay scratch, or meets the report area (R208). -/
def blockBad (s : State) (p : Pass) (len a : Nat) : Bool :=
  decide (a % 64 ≠ 0) || !isBay a || decide (0x180000000 < a + len) || protectedRange s a len || meetsArea s p a len

/-- A malformed gate request (R208). A pass without a request has none that could be malformed. -/
def requestBad (s : State) (p : Pass) (greq : Bool) (t : Nat) (rblks : List Nat) : Bool :=
  greq && (!rbit s .gateThdrt t 63 || rblks.any (blockBad s p (blockLen s true t)))

/-- A row that takes no experts (R201). Where the pass carries no request and the area names no row block for it, there
is nothing to write. -/
def skipRow (s : State) (p : Pass) (greq : Bool) (rblk : Nat) : State :=
  if !greq && blockBad s p 0x80 rblk then s
  else countT (putRowStatus (devWrite s rblk (List.replicate 64 0) (gateAcc s)) rblk true false) 0x118 0 1

/-- The read of a report area: the header, the row blocks and the logits of the rows below FILL; none where a word is
uncorrectable (R445). -/
def readArea (s : State) (p : Pass) : State × Option (Word × List Nat × List (List (BitVec 32))) :=
  let rd := fun (s : State) (o n : Nat) => devRead s (areaAddr s p.rep p.repSlot o) n (gateAcc s)
  let (s, hb, bad0) := rd s 0x8000 8
  let w := bytesWord hb
  let e := rf s .gateThdrt (fld w 49 7) 54 9 + 1
  let (s, rb, bad1) := rd s 0x8040 128
  let rblks := (List.range p.fill).map fun r => fld (nth (bytesWords rb 16) r 0) 0 40
  let (s, ls, bad2) := (List.range p.fill).foldl (fun (y : State × List (List (BitVec 32)) × Bool) r =>
    if !bitOf w 63 then (y.1, y.2.1 ++ [[]], y.2.2) else
    let (s, bs, bad) := rd y.1 (0x800 * r) (4 * e)
    (s, y.2.1 ++ [(List.range e).map fun k => BitVec.ofNat 32 (bytesNat ((bs.drop (4 * k)).take 4))],
      y.2.2 || bad.isSome)) (s, [], false)
  (s, if bad0.isSome || bad1.isSome || bad2 then none else some (w, rblks, ls))

/-- A GATE pass whose request the gate unit cannot serve: no row is dispatched, and the pass counts as failed
(R208, R445). -/
def rejectRequest (s : State) (p : Pass) (t : Nat) : State := discardPass (gateNotice s 3 t 0) p

/-- Settles every live row of a pass (R201). -/
def settleRows (s : State) (p : Pass) (w : Word) (rblks : List Nat) (ls : List (List (BitVec 32))) : State :=
  p.rows.foldl (fun s row =>
    if !row.live then s else
    (List.range row.nrows).foldl (fun s k =>
      let r := row.rowIx + k
      if !bitOf w 63 || bitOf w r then skipRow s p (bitOf w 63) (nth rblks r 0)
      else settleRow s p row (nth rblks r 0) (fld w 49 7) (nth ls r [])) s) s

/-- GATE_REPORT: the oldest gate report is served, and the batch slot it was read from is freed (R201). While the bay that holds
it is in reset it waits (R302). -/
def execGateReport (s : State) : Out :=
  if stopped s then .fault .notPossible else
  match s.gate.reports with
  | [] => .fault .notPossible
  | id :: rest =>
    match s.ses.passes.find? fun p => p.id = id with
    | none => .next { s with gate := { s.gate with reports := rest } }
    | some p =>
      if bayAway s (areaAddr s p.rep p.repSlot 0) then .next s else
      let (s, a) := readArea s p
      let s := match a with
        | none => rejectRequest s p 0
        | some (w, rblks, ls) =>
          if requestBad s p (bitOf w 63) (fld w 49 7) rblks then rejectRequest s p (fld w 49 7)
          else settleRows s p w rblks ls
      let s := dropPass { s with gate := { s.gate with reports := rest } } id
      let s := freeBatch s p.rep p.repSlot p.repNum
      .next (p.rows.foldl (fun s r => if sesHandle s r.slot = r.handle then gateReady s r.slot else s) s)

/-- A bay that is retired or being drained. -/
def bayLeaving (s : State) (b : Nat) : Bool := retired s b || decide (bayState s b = 2)

/-- The lowest free inbox slot that touches no bay leaving service (R207, R442). -/
def freeInbox (s : State) : Option Nat :=
  (List.range (rf s .gateIctl 0 16 14)).find? fun b =>
    !(s.gate.inbox.any fun e => e.1 = b) &&
    !((idxs 256 (bayLeaving s)).any fun k => touchesBay k (inboxAddr s b) (rf s .gateIctl 0 0 12 * 64))

/-- The packet that a GATE end's consumer takes next. -/
def gatePacket (s : State) (v : Nat) : Option VRing :=
  let e := vend s v
  if e.st = .live ∧ e.cons = 1 ∧ engineRuns s = true then nextPacket s v else none

/-- GATE_DISPATCH_RECEIVED: the dispatch goes into an inbox slot laid out as a row block with J = 0, or is refused;
with no slot free the packet stays in the ring (R206, R207). -/
def execGateDispatchReceived (v : Fin 65536) (s : State) : Out :=
  if stopped s then .fault .notPossible else
  match gatePacket s v with
  | none => .fault .notPossible
  | some p =>
    if packetHeld s v p (gateAcc s) then .next s else
    let (t, bs, _) := packetData s v p (gateAcc s)
    let w := fun k => nth (bytesWords bs 4) k 0
    let tag := BitVec.ofNat 32 (fld (w 0) 32 32)
    let rvh := BitVec.ofNat 32 (fld (w 2) 32 32)
    let xs := fld (w 3) 54 10
    let ys := fld (w 3) 44 10
    if !isExpertGroup t (fld (w 1) 50 14) || decide (rf t .gateIctl 0 0 12 < 2 + xs + ys) then
      .next (sendReturn (ringFree t v p.pseq) rvh tag 2 [])
    else
      match freeInbox s with
      | none => .next s
      | some b =>
        let a := inboxAddr t b
        let x : Inbox := {
          tag := tag, rvh := rvh, egrp := BitVec.ofNat 14 (fld (w 1) 50 14),
          expert := BitVec.ofNat 9 (fld (w 1) 38 9), cls := Fin.ofNat 8 (fld (w 1) 47 3), xspan := xs, yspan := ys,
          arrive := nowT t, ord := t.gate.nextOrd }
        let head := slotWord 0 x.expert.toNat :: List.replicate 15 0
        let t := devWrite t a (wordsBytes head ++ (bs.drop 64).take (64 * xs)) (gateAcc t)
        let inbox := (b, x) :: t.gate.inbox
        .next (ringFree { t with gate := { t.gate with
          inbox := sortBy Prod.fst inbox, nextOrd := t.gate.nextOrd + 1 } } v p.pseq)

/-- GATE_RETURN_RECEIVED: the result goes to the row block and slot recorded under the tag (R206, R208). -/
def execGateReturnReceived (v : Fin 65536) (s : State) : Out :=
  if stopped s then .fault .notPossible else
  match gatePacket s v with
  | none => .fault .notPossible
  | some p =>
    if packetHeld s v p (gateAcc s) then .next s else
    let (s, bs, _) := packetData s v p (gateAcc s)
    let s := ringFree s v p.pseq
    let w := bytesWord (bs.take 8)
    match s.gate.slots.find? fun g => decide (g.tag.toNat = fld w 32 32 ∧ g.st = .remote) && !g.aband with
    | none => .next (rfSat s .gateStat 0 16 16 1)
    | some g =>
      let st := fld w 24 8
      if st = 2 then .next (redirectSlot s g)
      else if st ≠ 0 then .next (afterDiscard (failSlot s g))
      else
        let s := devWrite s (yAddr s g.table g.rblk g.j) ((bs.drop 64).take (64 * yspan s g.table)) (gateAcc s)
        .next (wakeSlots (gateReady (dropSlot (markDone s g) g) g.sess))

/-- GATE_RETURN_TIMEOUT: no return within RTMO (R208). -/
def execGateReturnTimeout (tag : BitVec 32) (s : State) : Out :=
  if stopped s then .fault .notPossible else
  match s.gate.slots.find? fun g => decide (g.tag = tag ∧ g.st = .remote) && !g.aband with
  | none => .fault .notPossible
  | some g =>
    let s := dueT s (g.sent.toNat + 1000 * rf s .gateCtl 0 48 16 + 64)
    let s := gateNotice (rfSat s .gateStat 0 0 16 1) 2 g.expert g.valley
    .next (afterDiscard (failSlot s g))

end Sys2Proof.Machine
end

