-- ==== Sys2Proof/Machine/Bays.lean ====
section
/-! DEFINITION. The events of the bays (R275-R304), of retirement at run time (R442), and of the hops that check parity: the
spar channels, the Purlin mesh, the eaves links (R21, R35, R290-R295, R446). -/

namespace Sys2Proof.Machine

/-! ## Hops (R290) -/

/-- A test of a lane starts, unless one goes on: the channel pauses, and the requests of the spar port that wait at the bay are
answered "withdrawn" (R292). -/
def startTest (s : State) (n lane : Nat) : State :=
  let x := sparOf s n
  if x.testing.isSome then s else
  let mine := [0, 1].filterMap fun sub => tget none (bay s n).asked (2 * sub)
  let s := setSpar s n { x with testing := some lane, back := x.back ++ mine }
  setBay s n { bay s n with asked := tput none (tput none (bay s n).asked 0 none) 2 none }

/-- A parity error on a lane of a spar channel (R290, R292): the word is resent; a lane test starts once one beat has been
refused 3 times in a row, or LTHR errors fall within a millisecond. -/
def sparRefusal (s : State) (n lane : Nat) : State :=
  let s := countR (rfSat s .sprnStat n 0 32 1) n 0x00B 1
  let x := sparOf s n
  let now := nowT s
  let errs := now :: (tget [] x.errs lane).filter fun t => decide (now.toNat < t.toNat + 1000000)
  let row := tget 0 x.row lane + 1
  let test := decide (3 ≤ row) || decide (rf s .sprCtl 0 0 8 ≤ errs.length)
  let s := setSpar s n { x with
    errs := tput [] x.errs lane (errs.take 255), row := tput 0 x.row lane (if test then 0 else row) }
  if test then startTest s n lane else s

/-- A beat has been accepted on a lane: its refusals in a row end (R292). -/
def sparAccept (s : State) (n lane : Nat) : State :=
  let x := sparOf s n
  if tget 0 x.row lane = 0 then s else setSpar s n { x with row := tput 0 x.row lane 0 }

/-- The number of refusals in a row at a hop of the mesh or of a link. -/
def hopRow (s : State) (k : Nat) : Nat := tget 0 s.mesh.row k

/-- The state with a hop's refusals in a row set. -/
def setHopRow (s : State) (k v : Nat) : State := { s with mesh := { s.mesh with row := tput 0 s.mesh.row k v } }

/-- Whether a flit that a stop holds is the one that has come to the next: bound for the same place, from the same master,
at the same address. -/
def sameFlit (f g : PFlit) : Bool :=
  decide (f.dst = g.dst ∧ f.req.addr = g.req.addr ∧ f.req.org = g.req.org)

/-- The hop over which a flit comes to a stop: from the stop that holds it, or from an endpoint at the stop itself; for no
given flit, that of the next one bound for the stop (R290). -/
def hopInto (s : State) (stop : Nat) (f : Option PFlit) : Nat :=
  match s.mesh.moving.find? fun m => decide (m.2.1 = stop) && f.all (sameFlit m.2.2) with
  | some m => 272 * m.1 + stop
  | none => 272 * stop + stop

/-- The hop of an eaves link, and of a controller's input. -/
def eavesHop (e : Nat) : Nat := 73984 + e

/-- The hop of an HBM controller's input. -/
def inputHop (t : Nat) : Nat := 73988 + t

/-- Eaves link `e`. -/
def eavesOf (s : State) (e : Nat) : Eaves := tget {} s.eaves e

/-- The state with an eaves link replaced. -/
def setEaves (s : State) (e : Nat) (x : Eaves) : State := { s with eaves := tput {} s.eaves e x }

/-- An eaves link is down, and its queues are reset (R73). -/
def downEaves (s : State) (e : Nat) : State :=
  setEaves ([26, 30, 34, 38].foldl (fun s q => qReset s (q + e)) s) e { up := false, lost := true }

/-- An eaves link is lost (R35, R446, R449): its flows are re-homed (`flowLink`), each end keeps the flits that follow the last
one accepted, and a takeover begins; losing all four stops the device (R455). -/
def loseEaves (s : State) (e : Nat) : State :=
  let x := eavesOf s e
  let s := setEaves (qReset (qReset s (30 + e)) (38 + e)) e {
    up := false, lost := true, takeover := true, held0 := x.part0 ++ (queue s (30 + e)).words,
    held1 := x.part1 ++ (queue s (38 + e)).words }
  let s := raiseT s 0x0052 (srcOf 6 e) 1
  if (List.range 4).all fun k => !(eavesOf s k).up then failStop s 0x07
  else startRecovery (raiseT s 0x0052 (srcOf 6 e) 2)

/-- A flit bound for a stop of the mesh is refused there (R290). -/
def meshRefuse (s : State) (p : Nat) (f : Option PFlit) : State :=
  let h := hopInto s p f
  let k := hopRow s h + 1
  let s := countT (setHopRow s h k) 0x109 p 1
  if 16 ≤ k then failStop s 0x01 else s

/-- A word is refused at a hop's receiving end; the sender sends its copy again, and sixteen refusals of it in a row are a
failed hop (R290). A failed spar hop is under test already (R292). For the HBM controller's input no rule says what a failed
hop leads to; the word is resent (assumption log 43). -/
def hopRefuse (s : State) : Hop → State
  | .sparWrite n lane => sparRefusal s n (32 + lane)
  | .sparRead n lane => sparRefusal s n lane
  | .purlin p => meshRefuse s p none
  | .eaves e =>
    let k := hopRow s (eavesHop e) + 1
    let s := countT (setHopRow s (eavesHop e) k) 0x121 e 1
    if 16 ≤ k then loseEaves (setHopRow s (eavesHop e) 0) e else s
  | .hbmInput t => setHopRow s (inputHop t) (hopRow s (inputHop t) + 1)
  | .urgenTx p =>
    let x := port s p
    let s := setPort s p { x with txFails := x.txFails + 1 }
    if 16 ≤ x.txFails + 1 then failStop s 0x06 else s

/-- A word is accepted at a hop's receiving end: its refusals in a row end (R290). -/
def hopAccept (s : State) : Hop → State
  | .sparWrite n lane => sparAccept s n (32 + lane)
  | .sparRead n lane => sparAccept s n lane
  | .purlin p => setHopRow s (hopInto s p none) 0
  | .eaves e => setHopRow s (eavesHop e) 0
  | .hbmInput t => setHopRow s (inputHop t) 0
  | .urgenTx p => setPort s p { port s p with txFails := 0 }

/-- A lane of a half that the channel does not use, or of a retired channel (R293). -/
def laneOff (s : State) (n lane : Nat) : Bool :=
  let st := sparStage s n
  let second := decide (16 ≤ lane ∧ lane < 32 ∨ 40 ≤ lane)
  decide (st = 3) || (decide (st = 1) && second) || (decide (st = 2) && !second)

/-- PARITY_REFUSAL (R290): the next word that comes over the hop is refused. The sender's copy is what the state holds, and is
sent again. -/
def execParityRefusal (h : Hop) (s : State) : Out :=
  let off := match h with
    | .sparWrite n lane => laneOff s n (32 + lane) || (sparOf s n).testing.isSome
    | .sparRead n lane => laneOff s n lane || (sparOf s n).testing.isSome
    | .eaves e => !(eavesOf s e).up
    | _ => false
  if off then .fault .notPossible else .next (hopRefuse s h)

/-! ## Parity of the words that a request carries (R289) -/

/-- The words in which a request's data travels. -/
def opWords : BayOp → List Word
  | .writeWords ws => ws
  | .writeBytes bs => bytesWords bs ((bs.length + 7) / 8)
  | .atomicAdd v => [v]
  | .readLine => []

/-- The first word, by index, whose parity bit does not fit it; a word whose bit is not given travels well. -/
def parityBad (ws : List Word) (par : List Bool) : Option Nat :=
  (ws.zip par).findIdx? fun p => p.2 ≠ xorBits p.1

/-! ## Sub-array accesses (R276, R280, R285, R287) -/

/-- The bay that a request's address belongs to and the sub-array that serves it (R37, R275, R279). -/
def reqPlace (a : Nat) : Nat × Nat :=
  if isBay a then (bayOf a, subOf a) else (homeOf a, setOf a % 2)

/-- A request that sub-array `sub` of bay `b` can be asked. Only cached HBM lines come to a bay (R282). -/
def reqFits (s : State) (b sub : Nat) (r : BayReq) : Bool :=
  let a := r.addr.toNat
  decide (reqPlace a = (b, sub)) &&
  (isBay a || (isHbm a && !uncached s a && match r.op with | .atomicAdd _ => false | _ => true))

/-- A request to an HBM line that its home bay does not hold, other than a write of the whole line: the victim is
written back and the bay waits for the fill (R280). -/
def startFill (s : State) (b : Nat) (r : BayReq) (acc : Acc) : State :=
  let a := r.addr.toNat
  let (s, w) := allocate (countT s 0x103 b 1) a acc
  let s := setCline s b (setOf a) w {}
  setBay s b { bay s b with fills := (bay s b).fills ++ [{ line := lineOf a, way := w, req := r, at_ := nowT s }] }

/-- A request to a line whose fill is under way waits for it, behind those that the bay took before (R287). -/
def joinFill (s : State) (b : Nat) (f : Fill) (r : BayReq) : State :=
  setBay s b { bay s b with
    fills := mapIf (fun g => decide (g = f)) (fun g => { g with more := g.more ++ [r] }) (bay s b).fills }

/-- One access (R275, R287). While the bay drains, it allocates no line (R282). -/
def doReq (s : State) (b : Nat) (r : BayReq) : State :=
  let a := r.addr.toNat
  let whole := decide ((opBytes r.op).length = 256)
  match (if isHbm a then fillDue s a else none) with
  | some f => joinFill s b f r
  | none =>
    if isHbm a && (cacheHit s a).isNone && !whole && decide (bayState s b ≠ 2) then
      startFill (tagLook s b (setOf a)) b r (orgAcc s r.org)
    else reqDirect s r

/-- A request waits: a controller that it needs takes none of its class (R315, R321). -/
def reqHeld (s : State) (r : BayReq) : Bool :=
  isHbm r.addr.toNat && (fillDue s r.addr.toNat).isNone && hbmHeld s r.addr.toNat (orgAcc s r.org).cls

/-- Whose turn the round-robin is at: true for the Purlin stop. -/
def turnOf (s : State) (b sub : Nat) : Bool := if sub = 0 then (bay s b).turn0 else (bay s b).turn1

/-- The round-robin after `x` was served. -/
def setTurn (s : State) (b sub : Nat) (x : Bool) : State :=
  setBay s b (if sub = 0 then { bay s b with turn0 := x } else { bay s b with turn1 := x })

/-- The request of a source that waits at a sub-array; `purlin` for that of the Purlin stop. -/
def askedOf (s : State) (b sub : Nat) (purlin : Bool) : Option BayReq := tget none (bay s b).asked (2 * sub + b2n purlin)

/-- The state with the request of a source that waits at a sub-array set. -/
def setAsked (s : State) (b sub : Nat) (purlin : Bool) (r : Option BayReq) : State :=
  setBay s b { bay s b with asked := tput none (bay s b).asked (2 * sub + b2n purlin) r }

/-- The write lane on which word `i` of a beat crosses, at the channel's present width (R20, R293). -/
def writeLane (s : State) (n i : Nat) : Nat :=
  match sparStage s n with
  | 0 => i % 16
  | 2 => 8 + i % 8
  | _ => i % 8

/-- A request arrives from a source: it waits at the sub-array; one whose parity fails is refused, and its sender keeps its
copy (R290). A flit that the stop had delivered is taken from it. -/
def present (s : State) (b : Fin 256) (sub : Nat) (purlin : Bool) : Option BayReq → State
  | none => s
  | some r =>
    match parityBad (opWords r.op) r.par with
    | some i =>
      hopRefuse s (if purlin then .purlin (Fin.ofNat 272 (stopAt (bayStop s b)))
        else .sparWrite b (Fin.ofNat 16 (writeLane s b i)))
    | none =>
      let s := if purlin then
          { s with mesh := { s.mesh with arrived := dropFirst (fun x => decide (x.2.req = r)) s.mesh.arrived } }
        else (List.range (opWords r.op).length).foldl (fun s i => sparAccept s b (32 + writeLane s b i)) s
      setAsked s b sub purlin (some r)

/-- The request of a source that a sub-array can serve now. -/
def readyOf (s : State) (b sub : Nat) (purlin : Bool) : Option BayReq := (askedOf s b sub purlin).filter fun r => !reqHeld s r

/-- The first request that is issued again and that the sub-array can serve now (R302). -/
def redoOf (s : State) (b sub : Nat) : Option BayReq :=
  (bay s b).redo.find? fun r => decide ((reqPlace r.addr.toNat).2 = sub) && !reqHeld s r

/-- A sub-array's access (R276, R285): the write-back of a correction first; what is issued again; else the requests that wait,
in turn where both sources have one. -/
def arbitrate (s : State) (b sub : Nat) : State :=
  match fixesOf s b sub, redoOf s b sub with
  | w :: _, _ => writeFix s b w
  | [], some r => doReq (setBay s b { bay s b with redo := dropFirst (fun x => decide (x = r)) (bay s b).redo }) b r
  | [], none =>
    match readyOf s b sub false, readyOf s b sub true with
    | some x, some y =>
      if turnOf s b sub then doReq (setAsked (setTurn s b sub false) b sub true none) b y
      else doReq (setAsked (setTurn s b sub true) b sub false none) b x
    | some x, none => doReq (setAsked s b sub false none) b x
    | none, some y => doReq (setAsked s b sub true none) b y
    | none, none => s

/-- Requests wait at a sub-array, from either source or to be issued again. -/
def subWaits (s : State) (b sub : Nat) : Bool :=
  (askedOf s b sub false).isSome || (askedOf s b sub true).isSome ||
    (bay s b).redo.any fun r => decide ((reqPlace r.addr.toNat).2 = sub)

/-- SUBARRAY_ACCESS (R276): `spar` and `purlin` are requests that the two sources present now, where none of theirs waits
already; then the sub-array makes one access. A bay in reset takes no request (R302), and a paused spar channel brings none
(R292). -/
def execSubarrayAccess (b : Fin 256) (sub : Fin 2) (spar purlin : Option BayReq) (s : State) : Out :=
  let fits := fun (p : Bool) (r : Option BayReq) =>
    match r with | some r => reqFits s b sub r && (askedOf s b sub p).isNone | none => true
  if !reqOk spar || !reqOk purlin then .refused .illFormed
  else if retired s b || !fits false spar || !fits true purlin || (spar.isSome && (sparOf s b).testing.isSome) ||
      (spar.isNone && purlin.isNone && !subWaits s b sub) then
    .fault .notPossible
  else if bayState s b = 1 then .next s
  else .next (settle (arbitrate (present (present s b sub false spar) b sub true purlin) b sub))

/-- CORRECTION_WRITEBACK (R285). -/
def execCorrectionWriteback (b : Fin 256) (sub : Fin 2) (s : State) : Out :=
  match fixesOf s b sub with
  | w :: _ => if bayState s b = 1 then .fault .notPossible else .next (writeFix s b w)
  | [] => .fault .notPossible

/-- A request that waited for a fill of a line that a draining bay does not keep (R282): a read's data goes on to its master,
flagged where `ue` says; a write goes to the controller. -/
def passFilled (s : State) (f : Fill) (ue : List Nat) (r : BayReq) : State :=
  match opBytes r.op, ue with
  | [], [] => s
  | [], i :: _ => hbmUe s (f.line + 8 * i) (orgAcc s r.org)
  | bs, _ => lineRuns s [(r.addr.toNat, bs)] (orgAcc s r.org)

/-- CACHE_FILL_RETURN: the oldest fill's data returns and the requests that wait for it are served (R280, R286, R287); the words
flagged are those in `mask` and those that the controller is known to flag (R312, R313). Data of a fill that a bay reset
abandoned, or whose line has come already, is discarded (R303). A draining bay keeps no line (R282). -/
def execCacheFillReturn (b : Fin 256) (bytes : List Byte) (mask : BitVec 32) (s : State) : Out :=
  let x := bay s b
  if bytes.length ≠ 256 then .refused .illFormed
  else if x.stale ≠ 0 then .next (setBay s b { x with stale := x.stale - 1 })
  else
    match x.fills with
    | [] => .fault .notPossible
    | f :: fs =>
      let s := (takeGiven (setBay s b { x with fills := fs }) f.line (0xFFFF, 0)).1
      if f.done then .next s
      else
        let ue := idxs 32 fun i => mask.getLsbD i || badAt s (f.line + 8 * i)
        let s := takeFlags s f.line
        if bayState s b = 2 then .next (settle ((fillReqs f).foldl (fun s r => passFilled s f ue r) s))
        else
          let (s, w) := fillWay s b f
          .next (settle ((fillReqs f).foldl (fun s r => serveFilled s b w r) (storeFill s f.line b w bytes ue)))

/-! ## Scrubbing (R296-R298) -/

/-- A word that the scrubber corrects: sticky where its last lap found the same syndrome; each is recorded once in the
fault log, up to 64 for a bay (R297, R496). -/
def scrubWord (s : State) (b a : Nat) : State :=
  let x := bay s b
  let y := synAt s a
  let again := decide (tget 0 x.sticky (a / 8) = y ∧ y ≠ 0 ∧ x.stuck.length < 64) && !x.stuck.contains (a / 8)
  let s := setBay s b { x with
    sticky := tput 0 x.sticky (a / 8) y, stuck := if again then x.stuck ++ [a / 8] else x.stuck }
  let s := if again then
      logFault s {
        cause := 0x11, time := nowT s, src := b,
        w6 := mkWord [(12, 4, 1), (0, 9, 66 * (b / 64) + physOf s b)], w7 := mkWord [(3, 22, offOf a / 8)] }
    else s
  ceEvent s b a 1

/-- The scrub of one line at its storage address, and of its tag-store entry (R288, R296). A word found in order has no
syndrome to compare on the next lap (R297). The class of a refill that no request causes is open (R317). -/
def scrubAt (s : State) (b l : Nat) : State :=
  let s := countT (countT s 0x106 b 1) 0x100 b 1
  let way := wayOf l
  let set := offOf l / 256 % 4096
  let s := if isCacheWay s way then tagRead s b set way else s
  let ce := ceWords s l
  let keep := fun (e : Nat × Byte) => decide (e.1 < l / 8 ∨ l / 8 + 32 ≤ e.1) || ce.contains (e.1 - l / 8)
  let s := setBay s b { bay s b with sticky := (bay s b).sticky.filter keep }
  let s := ce.foldl (fun s i => scrubWord s b (l + 8 * i)) s
  match badWords s l with
  | [] => s
  | i :: _ =>
    let c := cline s b set way
    if isCacheWay s way && c.valid && !c.dirty then
      let (s, d) := takeFree (cleanEvent s b (l + 8 * i) 1 {})
      fillLine s (hbmOf b set c.tag) way { cls := fld d 0 4 }
    else ueEvent s b (l + 8 * i) 1 {} true

/-- A lap ends (R298); its time is counted in whole microseconds. -/
def endLap (s : State) (b : Nat) : State :=
  let us := min 0xFFFFFFFF (((nowT s).toNat - (bay s b).lapAt.toNat) / 1000)
  let s := rfSat (rfSet s .baybScrub b 32 32 us) .baybScrub b 16 16 1
  setBay s b { bay s b with scrub := 0, lapAt := nowT s, saidLate := false }

/-- SCRUB_LINE: the next line of the lap, if it is in this sub-array, on a step that neither source nor a correction's
write-back needs; the request that has come to the bay's Purlin stop is one (R276, R296). -/
def execScrubLine (b : Fin 256) (sub : Fin 2) (s : State) : Out :=
  let i := (bay s b).scrub
  let come := s.mesh.arrived.any fun x => decide (x.1 = stopAt (bayStop s b) ∧ reqPlace x.2.req.addr.toNat = (b.val, sub.val))
  let busy := subWaits s b sub || come || !(fixesOf s b sub).isEmpty
  if retired s b ∨ bayState s b = 1 ∨ i % 2 ≠ sub.val ∨ 98304 ≤ i ∨ busy = true then .fault .notPossible
  else
    let s := scrubAt s b (bayAddr b (256 * i))
    .next (settle (if i + 1 = 98304 then endLap s b else setBay s b { bay s b with scrub := i + 1 }))

/-- LATE_SCRUB: the lap in progress passes LAPMAX (R298). -/
def execLateScrub (b : Fin 256) (s : State) : Out :=
  let x := bay s b
  let ms := rf s .bayCtl 0 16 16
  if x.saidLate ∨ retired s b then .fault .notPossible
  else
    let s := dueT s (x.lapAt.toNat + 1000000 * ms + 64)
    let s := rfSet (setBay s b { bay s b with saidLate := true }) .baybScrub b 15 1 1
    .next (raiseT s 0x0034 (srcOf 2 b) (mkWord [(0, 32, ((nowT s).toNat - x.lapAt.toNat) / 1000000)]))

/-- BUCKET_LEAK: the counter reaches a multiple of LEAK ms (R299). -/
def execBucketLeak (s : State) : Out :=
  let p := 1000000 * rf s .eccLbctl 0 16 10
  let s := if p = 0 then s else dueR s (s.time.dcnt.toNat / p * p + p)
  .next ((idxs 256 fun b => !retired s b).foldl (fun s b =>
    let s := if (bay s b).ovfSaid then setBay s b { bay s b with ovfSaid := false } else s
    let lv := rf s .eccbStat b 8 8
    if lv = 0 then s else rfSet s .eccbStat b 8 8 (lv - 1)) s)

/-! ## Bay reset (R301-R303) -/

/-- A bay reset starts (R302 steps 1-4): the requests that it has taken are answered "withdrawn", fills are abandoned,
corrections wait for the next lap (R303), and the arbiters start afresh. -/
def startBayReset (s : State) (b trigger : Nat) : State :=
  let s := rfSat (rfSet s .baybStat b 62 2 1) .baybStat b 32 16 1
  let x := bay s b
  let s := setBay s b { x with
    redo := x.redo ++ (x.fills.filter (!·.done)).flatMap fillReqs ++ x.asked.filterMap Prod.snd, asked := [],
    turn0 := false, turn1 := false, stale := x.stale + x.fills.length, fills := [], fix := [], resetAt := some (nowT s) }
  raiseT s 0x0031 (srcOf 2 b) (mkWord [(32, 16, rf s .baybStat b 32 16), (0, 2, trigger)])

/-- Whether a bay's watchdog firing now falls within 1 ms of its reopening (R303). -/
def soonAgain (s : State) (b : Nat) (t : Nat) : Bool :=
  match (bay s b).reopened with
  | some r => decide (t < r.toNat + 1000000)
  | none => false

/-- When a bay's watchdog fires: WDOG after it took the oldest request that it has not answered (R54, R301). -/
def watchdogDue (s : State) (b : Nat) : Option Nat :=
  (leastBy (fun (f : Fill) => f.at_.toNat) (bay s b).fills).map fun f => f.at_.toNat + 64 * rf s .bayCtl 0 48 16 + 64

/-- BAY_WATCHDOG (R301): a firing within 1 ms of reopening is BAY_RESET_OVERRUN's (R303). -/
def execBayWatchdog (b : Fin 256) (s : State) : Out :=
  match watchdogDue s b with
  | none => .fault .notPossible
  | some t =>
    if bayState s b = 1 ∨ retired s b = true ∨ soonAgain s b t = true then .fault .notPossible
    else .next (startBayReset (dueT s t) b 1)

/-- BAY_INTERNAL_ERROR (R301). -/
def execBayInternalError (b : Fin 256) (s : State) : Out :=
  if bayState s b = 1 ∨ retired s b = true then .fault .notPossible else .next (startBayReset s b 2)

/-- What a bay has answered "withdrawn" is issued again, in its order; what must wait at its source for a controller waits on
(R302, R315, R321). -/
def reissue (s : State) (b : Nat) (l : List BayReq) : State :=
  l.foldl (fun s r => if reqHeld s r then setBay s b { bay s b with redo := (bay s b).redo ++ [r] } else doReq s b r) s

/-- The bay serves again: what it had answered "withdrawn" is issued again, in its order; then come the writes that the mesh
held, and what the rafters' spar ports hold (R146, R302). -/
def reopenBay (s : State) (b : Nat) : State :=
  let x := bay s b
  let s := setBay s b { x with redo := [], resetAt := none, reopened := some (nowT s) }
  redoPorts (releaseAway (reissue s b x.redo) b)

/-- BAY_SELF_CHECK_DONE: the bay reopens as it was, or has failed (R302, R303). -/
def execBaySelfCheckDone (b : Fin 256) (pass : Bool) (s : State) : Out :=
  if bayState s b ≠ 1 then .fault .notPossible
  else if !pass then .next (failBay (setBay s b { bay s b with resetAt := none }) b)
  else .next (settle (reopenBay (rfSet s .baybStat b 62 2 (if (raf s b).st = .retired then 2 else 0)) b))

/-- BAY_RESET_OVERRUN: a reset passes 12 µs, or the watchdog fires within 1 ms of reopening (R303). -/
def execBayResetOverrun (b : Fin 256) (s : State) : Out :=
  match (bay s b).resetAt, watchdogDue s b with
  | some t, _ => .next (failBay (setBay (dueT s (t.toNat + 12000 + 64)) b { bay s b with resetAt := none }) b)
  | none, some t =>
    if soonAgain s b t = true ∧ retired s b = false then .next (failBay (dueT s t) b) else .fault .notPossible
  | none, none => .fault .notPossible

/-! ## Draining and retirement (R282, R442) -/

/-- BAY_DRAIN_COMPLETE: every dirty line of a draining bay is written back (R282). No request causes these write-backs, and
their class is open (R317); they wait while a controller takes none of that class (R315, R321). -/
def execBayDrainComplete (b : Fin 256) (s : State) : Out :=
  let (t, d) := takeFree s
  if bayState s b ≠ 2 then .fault .notPossible
  else if drainHeld s b (fld d 0 4) then .next s
  else .next (settle (drainBay t b { cls := fld d 0 4 }))

/-- RETIREMENT_COMPLETE: no dirty line, no session's entry or hot page, no inbox slot in use is left in the bay
(R442 step 7). -/
def execRetirementComplete (n : Fin 256) (s : State) : Out :=
  if bayState s n ≠ 2 ∨ dirtyCount s n ≠ 0 ∨ bayUsers s n ≠ [] ∨ hotUsers s n ≠ [] ∨
      (s.gate.inbox.any fun e => touchesBay n (inboxAddr s e.1) (rf s .gateIctl 0 0 12 * 64)) = true then
    .fault .notPossible
  else .next (finishRetire s n)

/-! ## The Purlin mesh (R21, R290) -/

/-- The next stop of a flit at a stop, or none where it has arrived: along the row, then along the column (R21). A logical
bay that a spare serves is the spare's stop (R25). -/
def nextStop (s : State) (p : Nat) (d : PDest) : Option Nat :=
  let (row, col) := destStop s d
  let r := p / 17
  let c := p % 17
  if c < col then some (p + 1)
  else if col < c then some (p - 1)
  else if r < row then some (p + 17)
  else if row < r then some (p - 17) else none

/-- PURLIN_FLIT_ARRIVAL: a flit comes to a stop, from the stop that holds its copy or from an endpoint. One whose parity fails
is refused and stays where it was; else it goes on to the next stop, or is handed to the endpoint (R21, R290, R515). -/
def execPurlinFlitArrival (stop : Fin 272) (f : PFlit) (s : State) : Out :=
  if !reqOk (some f.req) then .refused .illFormed
  else if (parityBad (opWords f.req.op) f.req.par).isSome then .next (meshRefuse s stop (some f))
  else
    let s := setHopRow s (hopInto s stop (some f)) 0
    let moving := dropFirst (fun (x : Nat × Nat × PFlit) => decide (x.2.1 = stop.val) && sameFlit x.2.2 f) s.mesh.moving
    let mesh := match nextStop s stop f.dst with
      | some q => { s.mesh with moving := moving ++ [(stop.val, q, f)] }
      | none => { s.mesh with moving := moving, arrived := s.mesh.arrived ++ [(stop.val, f)] }
    .next (countT { s with mesh := mesh } 0x108 stop 1)

/-! ## Eaves links (R35, R446) -/

/-- EAVES_LOCK_LOSS (R432). -/
def execEavesLockLoss (e : Fin 4) (s : State) : Out :=
  if (eavesOf s e).up then .next (loseEaves s e) else .fault .notPossible

/-- The end of a takeover (R446): the flits held are sent again over the new home `h`, in their order, before any new flit of
their flows. -/
def takeOver (s : State) (e h : Nat) : State :=
  let x := eavesOf s e
  let put := fun (s : State) (q : Nat) (ws : List QWord) => setQueue s q (qPut (queue s q) (qNow s q) ws)
  put (put (setEaves s e { up := false, lost := true }) (30 + h) x.held0) (38 + h) x.held1

/-- EAVES_TAKEOVER_COMPLETE (R446, R449): once the new home link has room for the flits held. -/
def execEavesTakeoverComplete (e : Fin 4) (s : State) : Out :=
  let x := eavesOf s e
  match (eavesFrom s e).head? with
  | none => .fault .notPossible
  | some h =>
    if x.takeover = false ∨ qDepth s (30 + h) < (queue s (30 + h)).words.length + x.held0.length ∨
        qDepth s (38 + h) < (queue s (38 + h)).words.length + x.held1.length then .fault .notPossible
    else .next (endRecovery (releaseNotices (raiseT (takeOver s e h) 0x0052 (srcOf 6 e) 3)))

/-! ## Spar channels (R290-R295) -/

/-- CONTROL_HANDSHAKE_ERROR: a test of the control group starts (R292). -/
def execControlHandshakeError (n : Fin 256) (s : State) : Out :=
  if sparStage s n = 3 ∨ (sparOf s n).testing.isSome then .fault .notPossible
  else .next (startTest s n 48)

/-- A spar notice (R519). -/
def sparNotice (s : State) (n ev bond : Nat) : State :=
  raiseT s 0x0030 (srcOf 1 n) (mkWord [(16, 2, sparStage s n), (12, 4, ev), (0, 12, bond)])

/-- The bonds of a lane: 64 data bits and their parity bit; the 64 control wires (R291). -/
def laneBonds (lane : Nat) : Nat := if lane = 48 then 64 else 65

/-- A failing bond of a lane (R292, R293): replaced by the lowest free spare of its group; else the channel falls to the
other half, or is retired. -/
def failBond (s : State) (n lane bond : Nat) : State :=
  let (lo, w, most, half) := laneGroup lane
  let stage := sparStage s n
  let used := rf s .sprnStat n lo w
  if stage = 3 ∨ (half = 0 ∧ stage = 2) ∨ (half = 1 ∧ stage = 1) then s
  else if used < most then
    sparNotice (useSpare s n lane bond) n 1 bond
  else if half ≠ 2 ∧ stage = 0 then
    sparNotice (rfSet s .sprnStat n 62 2 (if half = 0 then 2 else 1)) n 2 bond
  else retireRafter (sparNotice (rfSet s .sprnStat n 62 2 3) n 2 bond) n 1

/-- The channel resumes after a lane test: the requests withdrawn are issued again, as is what the port holds, and the notice
words that waited cross (R146, R292, R294). -/
def resumeSpar (s : State) (n : Nat) : State :=
  let x := sparOf s n
  let s := setSpar s n { x with back := [], late := [] }
  x.late.foldl (fun s m => notifyOver s n m.1 m.2.1 m.2.2) (redoPort (reissue s n x.back) n)

/-- LANE_TEST_END: `bonds` are the failing bonds of the lane under test, served in ascending order; the lane counts
afresh, and the channel resumes with what was withdrawn from it (R292). That of a bay in reset resumes only once the bay
reopens (R294). -/
def execLaneTestEnd (n : Fin 256) (bonds : List Nat) (s : State) : Out :=
  match (sparOf s n).testing with
  | none => .fault .notPossible
  | some lane =>
    if bayState s n = 1 ∨ (bonds.any fun b => decide (laneBonds lane ≤ b)) = true ∨ bonds.dedup ≠ bonds then
      .fault .notPossible
    else
      let x := sparOf s n
      let s := setSpar s n { x with testing := none, errs := tput [] x.errs lane [], row := tput 0 x.row lane 0 }
      .next (settle (resumeSpar ((sortBy id bonds).foldl (fun s b => failBond s n lane b) s) n))

end Sys2Proof.Machine
end

