-- ==== Sys2Proof/Machine/Clock.lean ====
section
/-! DEFINITION. Device time and the delay monitors: beacons and the timeouts they fire (R52-R54), the loss
of the reference (R55), and the readings from which a course's margin is taken (R47-R50). -/

namespace Sys2Proof.Machine

/-! ## Beacons (R54) -/

/-- TIME_BEACON: the counter reaches the next multiple of 64, and every reader holds that value (R54). -/
def execTimeBeacon (s : State) : Out :=
  if s.boot.ridgeOn then .next (dueT s ((s.time.dcnt.toNat / 64 + 1) * 64)) else .fault .notPossible

/-- The state with the timeout of a reader marked as fired. -/
def markFired (s : State) (reader : Nat) : State :=
  { s with time := { s.time with
      timeouts := mapIf (fun t => decide (t.reader = reader)) (fun t => { t with fired := true }) s.time.timeouts } }

/-- BEACON_TIMEOUT: the reader receives the first beacon of at least the value its timeout waits for (R54). What the
timeout then does is the reader's own command, POLL_TIMEOUT. -/
def execBeaconTimeout (reader : Nat) (s : State) : Out :=
  match s.time.timeouts.find? fun t => t.reader = reader with
  | some t => if t.fired ∨ 2 ^ 64 ≤ t.due + 64 then .fault .notPossible else .next (markFired (dueT s t.due) reader)
  | none => .fault .notPossible

/-! ## The reference (R55, R56) -/

/-- The reference notice (R519). -/
def refNotice (s : State) (lost : Bool) : State :=
  raiseR s 0x0012 (srcOf 0 0) (mkWord [(32, 16, rf s .sysRefstat 0 32 16), (0, 1, b2n lost)])

/-- REFERENCE_LOSS (R55 steps 1-3). -/
def execReferenceLoss (s : State) : Out :=
  if rbit s .sysRefstat 0 0 then
    let s := rfSat (rfSet s .sysRefstat 0 0 3 6) .sysRefstat 0 32 16 1
    .next (refNotice { s with time := { s.time with lostAt := some (nowR s) } } true)
  else .fault .notPossible

/-- When the holdover ends (R55). -/
def holdoverEnd (s : State) : Option Nat := s.time.lostAt.map fun t => t.toNat + 10000000

/-- REFERENCE_RETURN: within 10 ms of the loss (R55 step 5). -/
def execReferenceReturn (s : State) : Out :=
  match holdoverEnd s with
  | none => .fault .notPossible
  | some t =>
    if t < s.time.dcnt.toNat then .fault .notPossible
    else
      let s := rfSet (rfSet s .sysRefstat 0 0 1 1) .sysRefstat 0 2 1 0
      .next (refNotice { s with time := { s.time with lostAt := none } } false)

/-- HOLDOVER_EXPIRY: the reference has not returned within 10 ms; every Urgen and eaves port is taken down, and the
device then fails stop (R55 step 6, R455, R456). -/
def execHoldoverExpiry (s : State) : Out :=
  match holdoverEnd s with
  | none => .fault .notPossible
  | some t =>
    let s := dueR s t
    let s := (List.range 13).foldl (fun s p => portDrop s p 0 2) { s with time := { s.time with lostAt := none } }
    let s := (List.range 4).foldl (fun s e => if (eavesOf s e).up then downEaves s e else s) s
    .next (failStop s 0x04)

/-! ## Delay monitors (R47-R50) -/

/-- The readings of the working monitors of course `q`. -/
def readings (s : State) (q : Nat) : List Nat :=
  (List.range 4).filterMap fun i =>
    let v := tget 0 s.power.mon (4 * q + i)
    if tget false s.power.monBad (4 * q + i) ∨ v = 0 then none else some (v - 1)

/-- Whether all four monitors of a course are marked failed (R49). -/
def monsFailed (s : State) (q : Nat) : Bool := (List.range 4).all fun i => tget false s.power.monBad (4 * q + i)

/-- A margin notice (R48, R519). -/
def marginNotice (s : State) (q : Nat) : State :=
  raiseR s 0x0010 (srcOf 3 q) (mkWord [(16, 10, rf s .pwrqVstat q 48 10), (0, 8, rf s .pwrqSlack q 8 8)])

/-- The state with what is noted of a course whose thermal clamp overrules a low margin (R344). -/
def noteOver (s : State) (q : Nat) (b : Bool) : State :=
  { s with power := { s.power with
      clamped := if b then s.power.clamped ||| BitVec.ofNat 81 (2 ^ q) else s.power.clamped &&& ~~~(BitVec.ofNat 81 (2 ^ q)) } }

/-- The course's margin is taken again from its working monitors, 0 where all have failed (R47, R49, R50), and 0 too while no
working one has reported yet (DESIGN CHOICE, assumption log 61). A margin that falls below LOW at the ceiling is noticed
(R48). -/
def setMargin (s : State) (q : Nat) : State :=
  let m := if monsFailed s q then 0 else (leastBy id (readings s q)).getD 0
  let low := rf s .pwrMctl 0 0 8
  let fell := decide (low ≤ rf s .pwrqSlack q 8 8 ∧ m < low)
  let s := rfSet (rfSet s .pwrqSlack q 8 8 m) .pwrqSlack q 16 8 (min m (rf s .pwrqSlack q 16 8))
  if fell && decide (rf s .pwrqVstat q 61 3 = 3 ∧ rf s .pwrqVstat q 48 10 = ceilOf s q) then
    noteOver (marginNotice s q) q (decide ((ceilTerm s q).1 = 5))
  else s

/-- MONITOR_READING: the margin of one monitor and the course's step time (R47, R50). A failed monitor stays failed
(R49). -/
def execMonitorReading (q : Fin 81) (i : Fin 4) (margin : Byte) (stepPs : BitVec 16) (s : State) : Out :=
  let k := 4 * q.val + i.val
  if !railUp s q || tget false s.power.monBad k then .fault .notPossible
  else
    let s := { s with power := { s.power with
      mon := tput 0 s.power.mon k (margin.toNat + 1), monAt := tput 0 s.power.monAt k (nowR s) } }
    .next (setMargin (rfSet (rfSet s .pwrqSlack q i 1 1) .pwrqSlack q 32 16 stepPs.toNat) q)

/-- MONITOR_FAIL: 64 µs without a reading (R49), counted from the closing of stage 7 where there was none before (R339). -/
def execMonitorFail (q : Fin 81) (i : Fin 4) (s : State) : Out :=
  let k := 4 * q.val + i.val
  if !railUp s q || decide (rf s .pwrqVstat q 58 3 ≠ 7) || tget false s.power.monBad k then .fault .notPossible
  else
    let s := dueR s ((tget 0 s.power.monAt k).toNat + 64000)
    let s := rfSet { s with power := { s.power with monBad := tput false s.power.monBad k true } } .pwrqSlack q i 1 0
    let s := setMargin s q
    .next (if monsFailed s q then raiseR s 0x0011 (srcOf 3 q) (BitVec.ofNat 64 (rf s .pwrqSlack q 0 4)) else s)

end Sys2Proof.Machine
end

