-- ==== Sys2Proof/Machine/Power.lean ====
section
/-! DEFINITION. Power delivery: feeds, the bus and the regulator cells (R328-R338), switching a course on
(R339-R342), and the voltage loops (R343-R347, R553). -/

namespace Sys2Proof.Machine

/-! ## Notices, failures of bring-up, switching off -/

/-- A power notice (R519). -/
def powerNotice (s : State) (cls idx ev cause : Nat) : State :=
  raiseR s 0x0020 (srcOf cls idx) (mkWord [(8, 8, ev), (0, 8, cause)])

/-- A course's rail is off: `st` is 0 OFF or 4 DARK (R333, R338, R352, R363). Its monitors deliver nothing: no step time, no
margin and no monitor shows (R50), and their old readings count no more. That the last power-on was stretched still shows. -/
def railOff (s : State) (q st : Nat) : State :=
  let v := mkWord [(61, 3, st), (27, 8, rf s .pwrqVstat q 27 8), (13, 1, rf s .pwrqVstat q 13 1)]
  let s := rfSet (rfSet (rfSet (rgSet s .pwrqVstat q 0 v) .pwrqSlack q 32 16 0) .pwrqSlack q 8 8 0) .pwrqSlack q 0 4 0
  { s with power := { s.power with mon := (List.range 4).foldl (fun t i => tput 0 t (4 * q + i) 0) s.power.mon } }

/-- Every Thatch and Truss course is switched off at once; what their rafters held is lost, and with the Truss courses what
the bays' arrays held, the notice log among it (R114, R333, R363, R523, assumption log 8). -/
def coresOff (s : State) (st : Nat) : State :=
  let s := (List.range 80).foldl (fun s q => railOff s q st) s
  { s with rafters := [], mem := s.mem.filter (fun e => isHbm e.1), syn := [], power := { s.power with queue := [], staging := none } }

/-- A Thatch course goes dark (R338): each rafter it powers is retired, its state lost (R114). Their bays drain, and
HUB_RETIREd is set once they have. -/
def goDark (s : State) (q : Nat) : State :=
  let ns := raftersOf s q
  let s := railOff s q 4
  let s := { s with power := { s.power with
    queue := s.power.queue.filter (· ≠ q),
    staging := s.power.staging.filter fun x => x.q ≠ q } }
  let s := ns.foldl (fun s n => retireRafter s n 2) s
  ns.foldl (fun s n => setRaf s n { st := .retired, passCtr := (raf s n).passCtr }) s

/-- A shutdown begins (R363): its record waits to be programmed, the core courses go dark and the ports go down with
their rails. SYS_STATE is HALTED once the record is programmed. A cause after the first is not recorded. -/
def shutDown (s : State) (f : FRec) : State :=
  if s.stop.shut.isSome then s
  else
    let s := logNext s f
    let s := coresOff { s with stop := { s.stop with shut := some f.cause } } 4
    let s := (List.range 13).foldl (fun s p => portDrop s p 0 2) s
    rfSet s .sesStat 0 63 1 0

/-! ## Feeds and phases (R328-R332) -/

/-- PWR_FEEDf.STATE. -/
def feedState (s : State) (f : Nat) : Nat := rf s .pwrFeedf f 62 2

/-- The bookkeeping of feed `f`. -/
def feedOf (s : State) (f : Nat) : Feed := if f = 0 then s.power.feed0 else s.power.feed1

/-- The state with a feed's bookkeeping replaced. -/
def setFeed (s : State) (f : Nat) (x : Feed) : State :=
  { s with power := if f = 0 then { s.power with feed0 := x } else { s.power with feed1 := x } }

/-- A feed's switch is closed. A device reset clears what PWR_FEEDf shows and leaves the switch as it is (R529, R543). -/
def feedClosed (s : State) (f : Nat) : Bool := (feedOf s f).on

/-- A feed's switch is closed, and shown ACTIVE (R348). -/
def closeFeed (s : State) (f : Nat) : State :=
  rfSet (setFeed s f { feedOf s f with on := true }) .pwrFeedf f 62 2 1

/-- Both feeds are open while RESET_N is low: the Ridge course may lose its power then, and whether it does is open
(R543, R544, assumption log 86). -/
def ridgeMayFall (s : State) : State :=
  if s.boot.resetLow && !feedClosed s 0 && !feedClosed s 1 then
    let (s, d) := takeFree s
    if bitOf d 0 then { s with time := {}, boot := { s.boot with ridgeOn := false, kept := false } } else s
  else s

/-- A feed's switch opens with a cause of R348. -/
def openFeed (s : State) (f cause v : Nat) : State :=
  let s := rfSet (rfSet (rfSet s .pwrFeedf f 62 2 2) .pwrFeedf f 56 6 cause) .pwrFeedf f 40 16 v
  let s := setFeed (rfSet s .pwrFeedf f 24 16 0) f { feedOf s f with on := false, openAt := nowR s, crack := 0 }
  ridgeMayFall (powerNotice s 11 f 1 cause)

/-- FEED_UNDERVOLTAGE: a closed feed below 40 V (R331). -/
def execFeedUndervoltage (f : Fin 2) (v : BitVec 16) (s : State) : Out :=
  if feedClosed s f && decide (v.toNat < 4000) then .next (openFeed s f 1 v.toNat) else .fault .notPossible

/-- FEED_OVERVOLTAGE: a closed feed above 60 V (R331). -/
def execFeedOvervoltage (f : Fin 2) (v : BitVec 16) (s : State) : Out :=
  if feedClosed s f && decide (6000 < v.toNat) then .next (openFeed s f 2 v.toNat) else .fault .notPossible

/-- FEED_RECLOSE: an opened feed has been in its range for 100 ms (R331); one opened for CRACK stays open. -/
def execFeedReclose (f : Fin 2) (v : BitVec 16) (s : State) : Out :=
  let c := rf s .pwrFeedf f 56 6
  let ok := if c = 1 then decide (4200 < v.toNat) else decide (c = 2 ∧ 4000 ≤ v.toNat ∧ v.toNat ≤ 5800)
  if feedState s f ≠ 2 ∨ ok = false then .fault .notPossible
  else
    let s := dueR s ((feedOf s f).openAt.toNat + 100000000)
    let s := rfSet (closeFeed s f) .pwrFeedf f 40 16 v.toNat
    .next (powerNotice s 11 f 2 c)

/-- PHASE_FAILURE (R330). -/
def execPhaseFailure (ph : Fin 8) (s : State) : Out :=
  if s.power.phases.getLsbD ph then .fault .notPossible
  else
    let s := { s with power := { s.power with phases := s.power.phases ||| BitVec.ofNat 8 (2 ^ ph.val) } }
    .next (powerNotice s 11 (2 + ph) 4 0)

/-- The Ridge course runs: it is powered and RESET_N is high (R543). -/
def ridgeRuns (s : State) : Bool := s.boot.ridgeOn && !s.boot.resetLow

/-- BUS_COLLAPSE: the bus stays below 5.4 V (R333). Where a shutdown came first, its record stands alone (R363). During a
device reset it waits for the reset's end (R544). -/
def execBusCollapse (vbus : BitVec 16) (s : State) : Out :=
  if 5400 ≤ vbus.toNat ∨ ridgeRuns s = false then .fault .notPossible
  else
    let s := rfSet s .pwrBus 0 48 16 vbus.toNat
    if s.stop.shut.isSome then .next s
    else
      let s := logNext s { cause := 0x04, time := nowR s }
      .next (coresOff { s with stop := { s.stop with shut := some 0x04 } } 0)

/-! ## Cells and the ladder (R334-R338) -/

/-- The course of a cell, and the cell's number within it (R334). -/
def cellCourse (c : Nat) : Nat × Nat :=
  if c < 384 then (c / 6, c % 6) else if c < 512 then (64 + (c - 384) / 8, (c - 384) % 8) else (80, c - 512)

/-- A Thatch course at its dark count (R335). -/
def darkCount (s : State) (q : Nat) : Bool := decide (q < 64 ∧ 3 ≤ failedCells s q)

/-- A course that is being powered on stops where it is: the request is withdrawn, the switches open (R342). -/
def stopStaging (s : State) (q : Nat) : State :=
  let s := if rf s .pwrqVstat q 61 3 = 1 ∨ rf s .pwrqVstat q 61 3 = 2 then railOff s q 4 else s
  { s with power := { s.power with
    queue := s.power.queue.filter (· ≠ q), staging := s.power.staging.filter fun x => x.q ≠ q } }

/-- The outcome of a course's failed cells (R335-R338, R342, R455, R473). -/
def ladderOutcome (s : State) (q : Nat) : State :=
  let k := failedCells s q
  if darkCount s q then
    (if rf s .pwrqVstat q 61 3 = 0 ∨ rf s .pwrqVstat q 61 3 = 4 then s else goDark s q)
  else if 64 ≤ q ∧ q < 80 ∧ 4 ≤ k then
    let s := stopStaging s q
    if bootStep s = 4 then bootFail s 0x21 q else failStop s 0x02
  else if q = 80 ∧ 3 ≤ k then failStop s 0x03 else s

/-- A cell is failed: it opens its output, is recorded and noticed, and the ladder applies (R334). -/
def failCell (s : State) (c cause : Nat) : State :=
  let (q, i) := cellCourse c
  let s := { s with power := { s.power with cells := s.power.cells ||| BitVec.ofNat 516 (2 ^ c) } }
  let s := rfSet s .pwrqVstat q (27 + i) 1 1
  let s := logFault s { cause := 0x12, time := nowR s, src := c, w6 := mkWord [(12, 4, cause), (0, 10, c)] }
  ladderOutcome (powerNotice s 10 c 5 cause) q

/-- CELL_FAILURE (R334). -/
def execCellFailure (c : Fin 516) (cause : Fin 5) (s : State) : Out :=
  if cause.val = 0 then .refused .illFormed
  else if s.power.cells.getLsbD c ∨ ridgeRuns s = false then .fault .notPossible
  else .next (failCell s c cause)

/-! ## Switching a course on (R339-R342) -/

/-- The neighbours of a course (R340). -/
def neighbours (q : Nat) : List Nat :=
  if q < 64 then
    let d := q / 16
    let k := q % 16
    ((List.range 16).filter fun j =>
      (decide (j / 4 = k / 4) && (decide (j % 4 + 1 = k % 4) || decide (k % 4 + 1 = j % 4))) ||
      (decide (j % 4 = k % 4) && (decide (j / 4 + 1 = k / 4) || decide (k / 4 + 1 = j / 4)))).map (16 * d + ·)
  else if q < 80 then (List.range 80).filter fun j => decide (64 ≤ j ∧ (j + 1 = q ∨ q + 1 = j)) else []

/-- A course at peak: its 10 µs current exceeds 0.8 x its working cells x 4.5 A (R340, R553). -/
def atPeak (s : State) (q : Nat) : Bool := decide (36 * workCells s q < rf s .pwrqVstat q 16 11)

/-- Whether some neighbour of a course is at peak. -/
def peakNear (s : State) (q : Nat) : Bool := (neighbours q).any (atPeak s)

/-- Staging begins: stage 0 closes, with the rail at the floor (R339, R341). A stretched staging is noted and noticed. -/
def beginStaging (s : State) (q : Nat) (stretch : Bool) : State :=
  let v := mkWord [(61, 3, 2), (48, 10, 550), (27, 8, rf s .pwrqVstat q 27 8), (13, 1, b2n stretch)]
  let s := rgSet s .pwrqVstat q 0 v
  let gap := if stretch then 8000 else 2000
  let st : Staging := {
    q := q, t0 := nowR s, stretch := stretch, began := true, next := nowR s + BitVec.ofNat 64 gap }
  let s := { s with power := { s.power with staging := some st } }
  if stretch then powerNotice s 3 q 6 0 else s

/-- POWER_ON_REQUEST: the request at the head of those made is taken, and deferred or staged (R339-R341). A course at
its dark count stays dark (R474), and so does one that went dark before, until device reset (R360). -/
def execPowerOnRequest (q : Fin 81) (s : State) : Out :=
  if s.power.staging.isSome then .fault .notPossible
  else
    match s.power.queue with
    | [] => .fault .notPossible
    | p :: ps =>
      if p ≠ q.val then .fault .notPossible
      else
        let s := { s with power := { s.power with queue := ps } }
        if darkCount s q || courseDark s q then .next (railOff s q 4)
        else if peakNear s q then
          let st : Staging := { q := q, t0 := nowR s }
          .next { rfSet s .pwrqVstat q 61 3 1 with power := { s.power with staging := some st } }
        else .next (beginStaging s q false)

/-- DEFER_TIMEOUT: a neighbour has stayed at peak for 200 µs, and the staging begins stretched (R341). -/
def execDeferTimeout (s : State) : Out :=
  match s.power.staging with
  | some x =>
    if x.began then .fault .notPossible
    else .next (beginStaging (dueR s (x.t0.toNat + 200000)) x.q true)
  | none => .fault .notPossible

/-- HEADER_STAGE_CLOSE: the next stage closes after its spacing; after stage 7 the next request may be taken, and the
course's monitors have 64 µs to report (R339, R341, R49). -/
def execHeaderStageClose (s : State) : Out :=
  match s.power.staging with
  | some x =>
    if !x.began then .fault .notPossible
    else
      let s := dueR s x.next.toNat
      let k := rf s .pwrqVstat x.q 58 3 + 1
      let s := rfSet s .pwrqVstat x.q 58 3 k
      let gap := if x.stretch then 8000 else 2000
      if k = 7 then
        .next { s with power := { s.power with
          staging := none,
          monAt := (List.range 4).foldl (fun t i => tput 0 t (4 * x.q + i) (nowR s)) s.power.monAt } }
      else
        let st : Staging := { x with next := x.next + BitVec.ofNat 64 gap }
        .next { s with power := { s.power with staging := some st } }
  | none => .fault .notPossible

/-- COURSE_LIVE: stage 7 has closed, the rail is at the floor, and a monitor reports or all four have failed (R339). The
rafters of a Thatch course power up with it (R121). -/
def execCourseLive (q : Fin 81) (s : State) : Out :=
  if rf s .pwrqVstat q 61 3 = 2 ∧ rf s .pwrqVstat q 58 3 = 7 ∧
      (rf s .pwrqSlack q 0 4 ≠ 0 ∨ monsFailed s q = true) then
    .next (rfSet s .pwrqVstat q 61 3 3)
  else .fault .notPossible

/-! ## Idleness (R347) -/

/-- COURSE_IDLE: the course has been quiet for PWR_CTL.IDLE µs (R54, R347). -/
def execCourseIdle (q : Fin 64) (s : State) : Out :=
  let us := rf s .pwrCtl 0 8 8
  match quietSince s q with
  | none => .fault .notPossible
  | some t =>
    if us = 0 ∨ rf s .pwrqVstat q 61 3 ≠ 3 ∨ bitOf (vstatView s q) 14 = true then .fault .notPossible
    else .next (rfSet (dueT s (t + 1000 * us + 64)) .pwrqVstat q 14 1 1)

/-! ## The voltage loops (R343-R346, R553) -/

/-- The current ceiling of a course after a tick with its averages over 10 and 100 µs, in 0.1 A (R346). A new current
ceiling never lies above the present one. Spans are counted in ticks, one a µs. -/
def currentCeil (s : State) (m : CourseMeas) : State :=
  let q := m.q.val
  let p := s.power
  let n := workCells s q
  let g := gvmax s
  let now := (nowR s).toNat / 1000
  let vset := rf s .pwrqVstat q 48 10
  let pres := if tget 0 p.iceil q = 0 then g else tget 0 p.iceil q
  let over100 := decide (45 * n < m.i100)
  let over10 := decide (60 * n < m.i10)
  let low := decide (m.i100 * 20 < 19 * 45 * n)
  let a100 := tget 0 p.at100 q
  let a10 := tget 0 p.at10 q
  let u := tget 0 p.up100 q
  let step100 := over100 && (decide (a100 = 0) || decide (a100 + 100 ≤ now + 1))
  let step10 := over10 && (decide (a10 = 0) || decide (a10 + 10 ≤ now + 1))
  let rise := low && decide (u ≠ 0) && decide (u + 1000 ≤ now + 1)
  let c := if step100 then (if a100 = 0 then min pres (vset - 5) else pres - 5) else pres
  let c := if step10 then min c vset - 25 else c
  let c := if rise then min g (c + 5) else c
  let c := max 1 c
  { s with power := { p with
      iceil := tput 0 p.iceil q (if g ≤ c then 0 else c),
      at100 := tput 0 p.at100 q (if !over100 then 0 else if step100 then now + 1 else a100),
      at10 := tput 0 p.at10 q (if !over10 then 0 else if step10 then now + 1 else a10),
      up100 := tput 0 p.up100 q (if !low then 0 else if decide (u = 0) || rise then now + 1 else u) } }

/-- tick(q) of R344: the new set point. -/
def tickVset (s : State) (q ceil : Nat) (idle : Bool) : Nat :=
  let vset := rf s .pwrqVstat q 48 10
  let margin := rf s .pwrqSlack q 8 8
  let low := rf s .pwrMctl 0 0 8
  let step := rf s .pwrqSlack q 32 16
  let target := rf s .pwrqVctl q 48 16
  if ceil < vset then max ceil (vset - 10)
  else
    let want :=
      if margin < low then vset + 5
      else if idle then (if low + 4 ≤ margin then vset - 5 else vset)
      else if target < step then vset + 5
      else if step < target - target / 32 ∧ low + 4 ≤ margin then vset - 5 else vset
    clampN want 550 ceil

/-- A thermal clamp overrules a low margin: the loop would raise the voltage, and stays at the clamp or goes down to it
(R344). -/
def clampWins (s : State) (q : Nat) : Bool :=
  decide ((ceilTerm s q).1 = 5 ∧ rf s .pwrqSlack q 8 8 < rf s .pwrMctl 0 0 8 ∧ ceilOf s q < rf s .pwrqVstat q 48 10 + 5)

/-- A course's loop acts (R344): its set point and TMISS; an idle course that has had work leaves idle (R347). A clamp that
comes to overrule a low margin is noticed. -/
def tickCourse (s : State) (q : Nat) : State :=
  let idle := rbit s .pwrqVstat q 14 && longQuiet s q
  let ceil := ceilOf s q
  let v := tickVset s q ceil idle
  let miss := if ceil < rf s .pwrqVstat q 48 10 then rbit s .pwrqVstat q 15
    else decide (rf s .pwrqVctl q 48 16 < rf s .pwrqSlack q 32 16 ∧ v = ceil)
  let wins := clampWins s q
  let was := s.power.clamped.getLsbD q
  let w := setFld (rg s .pwrqVstat q) 48 10 v
  let s := noteOver (rgSet s .pwrqVstat q 0 (setBit (setBit w 15 miss) 14 idle)) q wins
  if wins && !was then marginNotice s q else s

/-- Whether a course's loop acts: a LIVE Thatch or Truss course from SEAL on, the Ridge course always (R344, R463). -/
def loopActs (s : State) (q : Nat) : Bool := decide (rf s .pwrqVstat q 61 3 = 3) && (sealed s || decide (q = 80))

/-- The budget ceiling's fast step (R345): at most once per 64 µs. -/
def fastBudget (s : State) (pmod : Nat) : State :=
  let due := match s.power.step25 with
    | some t => decide (t.toNat + 64000 ≤ (nowR s).toNat)
    | none => true
  if sealed s && due && decide (11 * rf s .pwrCtl 0 48 16 < 10 * pmod) then
    rfSet { s with power := { s.power with step25 := some (nowR s) } } .pwrCtl 0 38 10
      (max 550 (rf s .pwrCtl 0 38 10 - 25))
  else s

/-- A deferred course whose neighbours have left their peak begins its staging (R341). -/
def wakeDeferred (s : State) : State :=
  match s.power.staging with
  | some x => if !x.began && !peakNear s x.q then beginStaging s x.q false else s
  | none => s

/-- VOLTAGE_LOOP_TICK: each µs by the beacon, the averages are judged and every loop acts (R344, R553). `pmod` is the
module power over 64 µs in W, `meas` the course currents of this tick. -/
def execVoltageLoopTick (pmod : Nat) (meas : List CourseMeas) (s : State) : Out :=
  if ridgeRuns s = false then .fault .notPossible
  else
    let s := dueT s ((s.time.dcnt.toNat / 1000 + 1) * 1000)
    let s := rfSet s .pwrBus 0 0 16 (min 65535 (max pmod (rf s .pwrBus 0 0 16)))
    let s := fastBudget s pmod
    let s := meas.foldl (fun s m => currentCeil (rfSet s .pwrqVstat m.q 16 11 (min 2047 m.i10)) m) s
    .next (wakeDeferred ((idxs 81 (loopActs s)).foldl tickCourse s))

end Sys2Proof.Machine
end

