-- ==== Sys2Proof/Machine/Hbm.lean ====
section
/-! DEFINITION. The HBM controllers (R305-R327): queueing, scheduling, returns and their errors, refresh and
power-down, windows and holds, and the stages of a stack's degradation. -/

namespace Sys2Proof.Machine

/-! ## Degradation (R314-R316, R444) -/

/-- The HBM rails are on: a shutdown switches them off (R363). -/
def hbmOn (s : State) : Bool := s.stop.shut.isNone

/-- The queues at the edge of controller `t` are emptied: the controller, their owning unit, starts afresh (R73, R74). -/
def resetEdge (s : State) (t : Nat) : State := qReset (qReset s (42 + t)) (50 + t)

/-- Every class is held at every source, each hold newly raised counted (R315, R321, R515). -/
def holdAll (s : State) (t : Nat) : State :=
  (List.range 16).foldl (fun s c =>
    if rbit s .hbmsQlvl t (48 + c) then s else countH (rfSet s .hbmsQlvl t (48 + c) 1 1) t 0x305 c 1) s

/-- A stack enters FAILED; its data is lost, and what waits for it is answered uncorrectable (R314, R444). -/
def failStack (s : State) (t : Nat) : State :=
  if rf s .hbmsStat t 62 2 = 2 then s
  else
    let s := ((stack s t).queue.filter fun e => !e.req.write).foldl (fun s e => reqUe s e.req (lineOf e.req.addr.toNat)) s
    let s := rfSet (resetEdge s t) .hbmsStat t 62 2 2
    let s := setStack s t { stack s t with queue := [], again := [], selfRef := false }
    stageQos (hbmDataLoss (hbmNotice (rfSet s .hbmsQlvl t 48 16 0) t 3 0) t)

/-- A retraining stack whose requests in flight have completed is placed in self-refresh: its rows are closed, no
pseudo-channel is in power-down, and the queues at its edge are emptied (R73, R305, R315). -/
def selfRefresh (s : State) (t : Nat) : State :=
  let x := stack s t
  if decide (rf s .hbmsStat t 62 2 = 1) && !x.selfRef && !(x.queue.any inFlight) then
    resetEdge (setStack s t { x with queue := x.queue.filter (!·.issued), rows := [], down := 0, selfRef := true }) t
  else s

/-- A stack steps down to the next rate and retrains, every class held meanwhile; below 4.8 Gb/s it fails (R314, R315). -/
def stepDown (s : State) (t : Nat) : State :=
  let r := rf s .hbmsStat t 60 2
  if 2 ≤ r then failStack s t
  else
    let s := rfSet (rfSet s .hbmsStat t 60 2 (r + 1)) .hbmsStat t 62 2 1
    stageQos (hbmNotice (selfRefresh (holdAll s t) t) t 1 (r + 1))

/-- Parity errors on a channel have exceeded RTHR within 1 ms (R314): a spare lane is used, else the stack steps down;
during a retraining this waits for its end (R315). -/
def laneTrigger (s : State) (t ch : Nat) : State :=
  let x := stack s t
  let x := { x with perr := tput [] x.perr ch [] }
  if rf s .hbmsStat t 62 2 = 1 then setStack s t { x with again := x.again ++ [ch] }
  else if tget 0 x.lanes ch < Config.hbmSpares t ch then
    rfSat (setStack s t { x with lanes := tput 0 x.lanes ch (tget 0 x.lanes ch + 1) }) .hbmsStat t 48 11 1
  else stepDown (setStack s t x) t

/-- A parity error on the channel of a pseudo-channel (R312, R314). -/
def parityError (s : State) (t pc : Nat) : State :=
  let ch := pc / 2
  let x := stack s t
  let now := nowT s
  let errs := now :: (tget [] x.perr ch).filter fun e => decide (now.toNat < e.toNat + 1000000)
  let s := setStack s t { x with perr := tput [] x.perr ch (errs.take 256) }
  if rf s .hbmCtl 0 38 8 < errs.length then laneTrigger s t ch else s

/-! ## Requests (R289, R314, R321) -/

/-- The words in which a request's data comes to its controller (R289). -/
def reqWords (r : HReq) : List Word := if r.write then bytesWords r.data ((r.data.length + 7) / 8) else []

/-- HBM_REQUEST_ACCEPT (R314, R315, R321): a request of a held class waits at its source unless it was in flight when the
hold was raised; one that finds 512 requests queued waits in the mesh. A word whose parity fails is refused at the controller's
input (R290). A failed stack answers uncorrectable and discards writes. -/
def execHbmRequestAccept (t : Fin 8) (r : HReq) (s : State) : Out :=
  let a := r.addr.toNat
  let cls := (orgAcc s r.org).cls
  if !hreqOk r then .refused .illFormed
  else if stackOf a ≠ t.val ∨ hbmOn s = false then .fault .notPossible
  else if (parityBad (reqWords r) r.par).isSome then .next (hopRefuse s (.hbmInput t))
  else
    let s := if r.write then hopAccept s (.hbmInput t) else s
    if rf s .hbmsStat t 62 2 = 2 then .next (if r.write then s else reqUe s r a)
    else if (rbit s .hbmsQlvl t (48 + cls) = true ∧ r.flight = false) ∨ 512 ≤ qLevel s t then .next s
    else
      let e : HEnt := { req := r, cls := cls, pc := pcOf a, bank := bankOf a, row := hrowOf a, at_ := nowT s }
      let x := stack s t
      let q := x.queue.filter (fun e => !e.issued) ++ [e] ++ x.queue.filter (·.issued)
      .next (settle (levelChanged (setStack s t { x with queue := q, active := tput 0 x.active e.pc (nowT s) }) t))

/-! ## Scheduling (R309, R310, R320) -/

/-- A queued request that no earlier request to the same bytes, of the other kind, holds back (R320), nor a partial write to
the same burst whose read has not returned (R311); issued reads that have not returned count as earlier. -/
def mayIssue (before issued : List HEnt) (e : HEnt) : Bool :=
  !((before ++ issued).any fun b =>
    (decide (b.req.write ≠ e.req.write) && meet (spanOf b) (spanOf e)) || (b.rmw && meet (burstsOf b) (burstsOf e)))

/-- The queued requests of a pseudo-channel that may issue, of one kind. -/
def issuable (issued : List HEnt) (pc : Nat) (write : Bool) : List HEnt → List HEnt → List HEnt
  | _, [] => []
  | before, e :: l =>
    let rest := issuable issued pc write (before ++ [e]) l
    if e.pc = pc && decide (e.req.write = write) && mayIssue before issued e then e :: rest else rest

/-- The requests of one kind on a pseudo-channel that a controller may issue now (R311, R320). -/
def readyReqs (s : State) (t pc : Nat) (write : Bool) : List HEnt :=
  let q := (stack s t).queue
  issuable (q.filter inFlight) pc write [] (q.filter (!·.issued))

/-- pick(pc) among candidates (R320): highest priority, then a row hit, then the oldest, then the lower class. -/
def pickReq (s : State) (t : Nat) (l : List HEnt) : Option HEnt :=
  let x := stack s t
  let top := l.foldl (fun a e => max a (qosPrio s t e.cls)) 0
  let l := l.filter fun e => decide (qosPrio s t e.cls = top)
  let hits := l.filter fun e => decide (openRow x e.pc e.bank = e.row + 1)
  let l := if hits.isEmpty then l else hits
  leastBy (fun e => e.at_.toNat * 16 + e.cls) l

/-- A request is issued: its column access (R305, R309, R515), and a write's data; a partial write reads its burst first (R311).
A write issued before on the pseudo-channel has been accepted by the stack, and its held copy is dropped (R312). -/
def issueReq (s : State) (t : Nat) (e : HEnt) : State :=
  let x := stack s t
  let waiting := dropFirst (fun b => decide (b = e)) (x.queue.filter fun b => !b.issued)
  let issued := x.queue.filter fun b => b.issued && (inFlight b || decide (b.pc ≠ e.pc))
  let s := setStack s t { x with queue := waiting ++ issued ++ [{ e with issued := true, rmw := partBurst e }] }
  let s := columnAccess s t e.pc e.bank e.row
  let s := if e.req.write && !partBurst e then
      hbmStore s e.req.addr.toNat e.req.data [] { orgAcc s e.req.org with cls := e.cls }
    else s
  settle (levelChanged s t)

/-- HBM_SCHEDULE: writes are issued where 32 wait for the pseudo-channel or no read is issuable (R320). -/
def execHbmSchedule (t : Fin 8) (pc : Fin 32) (s : State) : Out :=
  let waiting := (stack s t).queue.filter fun e => !e.issued
  let reads := readyReqs s t pc false
  let writes := readyReqs s t pc true
  let full := decide (32 ≤ (waiting.filter fun e => decide (e.pc = pc.val) && e.req.write).length)
  let l := if (full && !writes.isEmpty) || reads.isEmpty then writes else reads
  if rf s .hbmsStat t 62 2 ≠ 0 ∨ hbmOn s = false then .fault .notPossible
  else
    match pickReq s t l with
    | none => .fault .notPossible
    | some e => .next (issueReq s t e)

/-- HBM_WRITE_AGE: the oldest write of a pseudo-channel has waited 2 µs and is issued (R54, R320). -/
def execHbmWriteAge (t : Fin 8) (pc : Fin 32) (s : State) : Out :=
  match readyReqs s t pc true with
  | [] => .fault .notPossible
  | e :: _ =>
    if rf s .hbmsStat t 62 2 ≠ 0 ∨ hbmOn s = false then .fault .notPossible
    else .next (issueReq (dueT s (e.at_.toNat + 2000 + 64)) t e)

/-! ## Returns (R312, R313, R319) -/

/-- What a read brings back to its requester, or to the partial write it was made for; a stack that retrains goes into
self-refresh once nothing is in flight (R311, R312, R315). -/
def returned (s : State) (t : Nat) (e : HEnt) (ue : List Nat) (tctl : Nat) : State :=
  settle (selfRefresh (if e.rmw then mergeWrite s t e ue else deliver s t e ue tctl) t)

/-- HBM_READ_RETURN: the oldest read issued on a pseudo-channel returns. A parity error repeats it up to four times; a read
that still fails is delivered flagged uncorrectable (R312). `ue` and `ce` are what on-die ECC reports, `tctl` the
controller's time in 1.25 ns. -/
def execHbmReadReturn (t : Fin 8) (pc : Fin 32) (parityBad : Bool) (ue : BitVec 32) (ce tctl : Nat) (s : State) : Out :=
  match (stack s t).queue.find? fun e => inFlight e && decide (e.pc = pc.val) with
  | none => .fault .notPossible
  | some e =>
    if hbmOn s = false then .fault .notPossible
    else if parityBad then
      let s := parityError s t pc
      if rf s .hbmsStat t 62 2 = 2 then .next (settle s)
      else if e.tries < 4 then
        let x := stack s t
        .next (settle (countH (setStack s t { x with
          queue := mapIf (fun b => decide (b = e)) (fun b => { b with tries := b.tries + 1 }) x.queue }) t 0x306 pc 1))
      else .next (returned s t e (List.range 32) tctl)
    else
      let s := if ce = 0 then s else countH (rfSat s .hbmsStat t 32 16 ce) t 0x307 pc ce
      .next (returned s t e (idxs 32 fun i => ue.getLsbD i) tctl)

/-- HBM_WRITE_PARITY_FAILURE: the write is sent again from the copy held, and the error counts toward RTHR (R312, R314). -/
def execHbmWriteParityFailure (t : Fin 8) (pc : Fin 32) (s : State) : Out :=
  if hbmOn s && (stack s t).queue.any fun e => e.issued && e.req.write && !e.rmw && decide (e.pc = pc.val) then
    .next (settle (parityError s t pc))
  else .fault .notPossible

/-! ## Refresh, power-down, windows (R305, R310, R321) -/

/-- PER_BANK_REFRESH: the next bank of the pseudo-channel in turn is refreshed, its row closed; an access to it waits for the
remainder (R305, R310). -/
def execPerBankRefresh (t : Fin 8) (pc : Fin 32) (s : State) : Out :=
  if rf s .hbmsStat t 62 2 ≠ 0 ∨ hbmOn s = false then .fault .notPossible
  else
    let x := stack s t
    let b := tget 0 x.refresh pc
    .next (countH (setStack s t { x with
      refresh := tput 0 x.refresh pc ((b + 1) % 48), rows := tput 0 x.rows (64 * pc.val + b) 0,
      refAt := tput none x.refAt (64 * pc.val + b) (some (nowT s)) }) t 0x304 pc 1)

/-- HBM_POWER_DOWN: a pseudo-channel idle for 200 ns (R54, R305). -/
def execHbmPowerDown (t : Fin 8) (pc : Fin 32) (s : State) : Out :=
  let x := stack s t
  if rf s .hbmsStat t 62 2 ≠ 0 ∨ hbmOn s = false ∨ x.down.getLsbD pc = true ∨
      (x.queue.any fun e => decide (e.pc = pc.val) && (!e.issued || inFlight e)) = true then .fault .notPossible
  else .next (setStack (dueT s ((tget 0 x.active pc).toNat + 200 + 64)) t { x with down := x.down ||| (1#32 <<< pc.val) })

/-- HBM_WINDOW_BOUNDARY: a window of 1,024 ns ends; holds are judged again by what each class moved in it, but for those of a
retraining (R315), and the targets now in force are taken (R321, R325). -/
def execHbmWindowBoundary (t : Fin 8) (s : State) : Out :=
  if !sealed s || !hbmOn s then .fault .notPossible
  else
    let s := dueT s ((stack s t).window.toNat + 1024)
    let (s, d) := takeFree s
    let held := decide (rf s .hbmsQlvl t 48 16 ≠ 0 ∧ rf s .hbmsStat t 62 2 ≠ 1)
    let past := idxs 16 fun c => overShare s t c (fld d 0 32)
    let s := if held then
        (List.range 16).foldl (fun s c =>
          let now := past.contains c
          let was := rbit s .hbmsQlvl t (48 + c)
          let s := rfSet s .hbmsQlvl t (48 + c) 1 (b2n now)
          if now && !was then countH s t 0x305 c 1 else s) s
      else s
    let x := stack s t
    .next (settle (setStack s t { x with
      prev := BitVec.ofNat 16 ((List.range 16).foldl (fun a c => a + b2n (decide (tget 0 x.bytes c ≠ 0)) * 2 ^ c) 0),
      bytes := [], window := BitVec.ofNat 64 (x.window.toNat + 1024),
      targets := (List.range 16).map fun c => rf s .qosStatc c 48 16 }))

/-! ## Retraining and failure (R314, R315) -/

/-- HBM_RETRAIN_DONE (R315): the stack, in self-refresh, has been retrained; the hold is released, and triggers that came
meanwhile are acted on. A retraining that fails makes the stack FAILED. -/
def execHbmRetrainDone (t : Fin 8) (ok : Bool) (s : State) : Out :=
  let x := stack s t
  if rf s .hbmsStat t 62 2 ≠ 1 ∨ x.selfRef = false ∨ hbmOn s = false then .fault .notPossible
  else if !ok then .next (failStack s t)
  else
    let s := rfSet (rfSet s .hbmsStat t 62 2 0) .hbmsQlvl t 48 16 0
    let s := setStack s t { x with selfRef := false, again := [] }
    .next (settle (levelChanged (x.again.foldl (fun s ch => laneTrigger s t ch) s) t))

/-- HBM_PHY_FAILURE (R314, R444). -/
def execHbmPhyFailure (t : Fin 8) (s : State) : Out :=
  if rf s .hbmsStat t 62 2 = 2 ∨ hbmOn s = false then .fault .notPossible else .next (settle (failStack s t))

end Sys2Proof.Machine
end

