-- ==== Sys2Proof/Machine/Heat.lean ====
section
/-! DEFINITION. The housekeeping round and what it judges (R353-R362), the flash fault log (R364, R365), energy
accounts (R366-R368), and slate sweeps (R441). Temperatures are in 0.25 °C. -/

namespace Sys2Proof.Machine

/-! ## Sensors and courses (R354-R356, R362) -/

/-- The course and the sensor of a temperature channel (R354). -/
def tempCourse (ch : Nat) : Nat × Nat :=
  if ch < 256 then (ch / 4, ch % 4) else if ch < 320 then (64 + (ch - 256) / 4, ch % 4) else (80, ch - 320)

/-- The channel of sensor `i` of a course. -/
def courseChan (q i : Nat) : Nat := if q < 80 then 4 * q + i else 320 + i

/-- The sensor of a channel. -/
def sensor (s : State) (ch : Nat) : Sensor := tget {} s.heat.sensors ch

/-- The state with a sensor replaced. -/
def setSensor (s : State) (ch : Nat) (x : Sensor) : State :=
  { s with heat := { s.heat with sensors := tput {} s.heat.sensors ch x } }

/-- The neighbours of a temperature sensor (R362). -/
def sensorNear (ch : Nat) : List Nat :=
  if 328 ≤ ch then [328 + (ch - 328) ^^^ 1]
  else let (q, i) := tempCourse ch; ((List.range 4).filter (· ≠ i)).map (courseChan q)

/-- The readings of a sensor over the 64 laps up to lap `now_`. -/
def readingsOf (x : Sensor) (now_ : Nat) : List Int :=
  ((x.hist.zip x.laps).filter fun e => decide (now_ ≤ e.2 + 64)).map Prod.fst

/-- How far readings lie apart. -/
def spread : List Int → Int
  | [] => 0
  | t :: l => l.foldl max t - l.foldl min t

/-- A sensor is stuck: unchanged over 64 laps while a neighbour moved by more than 5 °C in the same laps (R362). -/
def stuck (s : State) (ch : Nat) (x : Sensor) : Bool :=
  let now_ := s.heat.lap
  decide (65 ≤ (readingsOf x now_).length ∧ spread (readingsOf x now_) = 0) &&
    (sensorNear ch).any fun k => decide (20 < spread (readingsOf (sensor s k) now_))

/-- TDWELL, TFLOOR, TSHUT or TSOFT in 0.25 °C, by the field's low bit in THM_TLIM. -/
def tlim (s : State) (lo : Nat) : Int := 4 * (rf s .thmTlim 0 lo 8 : Int)

/-- The course temperature (R356): the highest reading, a broken sensor counting as TDWELL; none before a reading. -/
def courseTemp (s : State) (q : Nat) : Option Int :=
  let ts := (List.range 4).filterMap fun i =>
    let x := sensor s (courseChan q i)
    if x.broken then some (tlim s 48) else x.hist.head?
  match ts with
  | [] => none
  | t :: l => some (l.foldl max t)

/-- The highest rise over a lap among the working sensors of a course, 0.25 °C (R356, R357). -/
def courseRise (s : State) (q : Nat) : Nat :=
  (List.range 4).foldl (fun a i => let x := sensor s (courseChan q i); if x.broken then a else max a x.rise) 0

/-- A rise over a lap of 2.048 ms is a rate at or above `r` in 0.25 °C/ms. -/
def rateAt (rise r : Nat) : Bool := decide (2048 * r ≤ 1000 * rise)

/-- It is strictly below half of it (R357). -/
def rateClear (rise r : Nat) : Bool := decide (2000 * rise < 2048 * r)

/-- A rise over a lap as a rate in 0.25 °C/ms, rounded down. -/
def rateField (rise : Nat) : Nat := min 65535 (1000 * rise / 2048)

/-! ## Conditions (R357, R360, R361) -/

/-- A thermal notice of course `q` (R519). -/
def thermalNotice (s : State) (q : Nat) (entry : Bool) (cond : Nat) : State :=
  raiseR s 0x0021 (srcOf 3 q) (mkWord [(32, 16, rf s .thmqStat q 48 16), (16, 16, rf s .thmqStat q 32 16),
    (8, 1, b2n entry), (0, 8, cond)])

/-- How a condition with hysteresis stands: it holds from where it is reached until it clears. -/
def holdsNow (was reached clear : Bool) : Bool := if was then !clear else reached

/-- A condition of a course has been judged: its change is noticed. -/
def condChange (s : State) (q cond : Nat) (was now : Bool) : State :=
  if was = now then s else thermalNotice s q now cond

/-- The warn, dwell and floor conditions of a course after a reading (R357, R361). -/
def judgeCourse (s : State) (q : Nat) (t : Int) (rise : Nat) : State :=
  let v := rg s .thmqStat q
  let warn := decide (q < 80) &&
    holdsNow (bitOf v 17) (rateAt rise (rf s .thmRlim 0 56 8)) (rateClear rise (rf s .thmRlim 0 56 8))
  let dt := holdsNow (tget false s.heat.dwellT q) (decide (tlim s 48 ≤ t)) (decide (t ≤ tlim s 48 - 8))
  let dr := decide (q < 80) && holdsNow (tget false s.heat.dwellR q) (rateAt rise (rf s .thmRlim 0 48 8))
    (rateClear rise (rf s .thmRlim 0 48 8))
  let floor := holdsNow (bitOf v 15) (decide (tlim s 40 ≤ t)) (decide (t ≤ tlim s 40 - 8))
  let v' := setBit (setBit (setBit v 17 warn) 16 (dt || dr)) 15 floor
  let wasT := tget false s.heat.dwellT q
  let wasR := tget false s.heat.dwellR q
  let s := rgSet s .thmqStat q 0 v'
  let s := { s with heat := { s.heat with
    dwellT := tput false s.heat.dwellT q dt, dwellR := tput false s.heat.dwellR q dr } }
  let s := condChange s q 1 (bitOf v 17) warn
  let s := condChange (condChange s q 2 wasT dt) q 2 wasR dr
  let s := condChange s q 3 (bitOf v 15) floor
  if bitOf v 15 = floor then s else rfSet s .pwrqVctl q 28 10 (if floor then 550 else gvmax s)

/-- Cooling loss (R360): two sensors at RCOOL in this lap, or one in two laps running. `i` is the sensor just read, and
`before` whether its reading of the lap before reached RCOOL. -/
def coolingLost (s : State) (q i : Nat) (before : Bool) : Bool :=
  let hot := fun (k : Nat) => let x := sensor s (courseChan q k); x.hot && !x.broken
  hot i && (before || (List.range i).any hot)

/-- What a sensor reads: TDWELL where it is broken (R362). -/
def readsAs (s : State) (ch : Nat) : Int :=
  let x := sensor s ch
  if x.broken then tlim s 48 else (x.hist.head?).getD 0

/-- The record of a heat cause: the channel concerned, its reading and its rate (R365). -/
def heatRecord (s : State) (cause ch : Nat) : FRec :=
  { cause := cause, time := nowR s, src := ch, temp := readsAs s ch, rate := rateField (sensor s ch).rise }

/-- The channel of a course's sensor that reads highest, the lowest of equals (R356). -/
def hottestChan (s : State) (q : Nat) : Nat :=
  (List.range 4).foldl (fun a i =>
    if readsAs s a < readsAs s (courseChan q i) then courseChan q i else a) (courseChan q 0)

/-- A course has lost its cooling: a Thatch course goes dark, any other shuts the device down (R360, R363). -/
def loseCooling (s : State) (q ch : Nat) : State :=
  if q < 64 then
    (if rbit s .thmqStat q 14 then s else goDark (thermalNotice (rfSet s .thmqStat q 14 1 1) q true 4) q)
  else shutDown s (heatRecord s 0x02 ch)

/-- A course is judged after a reading of its sensor `i` (R356-R361). A course that is off or dark is not judged for
cooling loss again. -/
def afterReading (s : State) (q i ch : Nat) (before : Bool) : State :=
  match courseTemp s q with
  | none => s
  | some t =>
    let rise := courseRise s q
    let s := rfSet (rfSet s .thmqStat q 48 16 (tempField t)) .thmqStat q 32 16 (rateField rise)
    let s := judgeCourse s q t rise
    let s := if coolingLost s q i before then loseCooling s q ch else s
    if tlim s 32 ≤ t then shutDown s (heatRecord s 0x01 (hottestChan s q)) else s

/-! ## The round (R353-R355) -/

/-- HK_VALn takes a reading (R355). -/
def putHk (s : State) (ch st v : Nat) : State :=
  rgSet s .hkValn ch 0 (mkWord [(62, 2, st), (32, 16, s.heat.lap), (0, 32, v)])

/-- A sensor breaks (R362): its state is kept until reset, its rate is 0, it is noticed, and BROKEN shows a course's
(R369). -/
def breakSensor (s : State) (ch st : Nat) : State :=
  let x := sensor s ch
  if x.broken then s
  else
    let s := setSensor s ch { x with broken := true, rise := 0, hot := false }
    let s := if 328 ≤ ch then s else rfSet s .thmqStat (tempCourse ch).1 (18 + (tempCourse ch).2) 1 1
    raiseR s 0x0022 (srcOf 9 ch) (BitVec.ofNat 64 st)

/-- A channel delivers no reading: what it holds is its last reading, with its lap (R355, R362). -/
def silentHk (s : State) (ch : Nat) : State := rfSet s .hkValn ch 62 2 2

/-- A temperature reading is made and judged (R355, R356, R362). -/
def readTemp (s : State) (ch : Nat) (r : HkReading) : State :=
  let x := sensor s ch
  let old := rf s .hkValn ch 62 2
  match r with
  | .silent =>
    breakSensor (if x.broken then s else silentHk s ch) ch 2
  | .value v =>
    let t := sext 16 v.toNat
    let rise := match x.hist with
      | p :: _ => (t - p).toNat
      | [] => 0
    let x := { x with hist := (t :: x.hist).take 65, laps := (s.heat.lap :: x.laps).take 65 }
    let y := if x.broken then x
      else { x with rise := rise, hot := rateAt rise (rf s .thmRlim 0 40 8) }
    let bad := if t < -160 ∨ 600 < t then 1 else if stuck s ch y then 3 else 0
    let s := putHk (setSensor s ch y) ch (if x.broken then old else bad) v.toNat
    if bad = 0 then s else breakSensor s ch bad

/-- The judgement that follows a temperature reading: of its course, or of its HBM stack (R356-R358). -/
def judgeTemp (s : State) (ch : Nat) (before : Bool) : State :=
  if 328 ≤ ch then
    let t := ch - 328
    let x := sensor s ch
    let v := (x.hist.head?).getD 0
    let s := rfSet s .hbmsStat t 59 1 (b2n (x.broken || decide (340 < v)))
    if !x.broken && decide (420 ≤ v) then
      shutDown s (heatRecord s 0x03 ch)
    else s
  else let (q, i) := tempCourse ch; afterReading s q i ch before

/-- The path resistance of a drop in 0.1 mV at a current in 10 mA, in micro-ohms (R332, R348, R355). -/
def pathOf (drop cur : Nat) : Nat := drop * 10000 / cur

/-- A feed is flagged (R331): it opens, or stays in service at half the grade's cap where the other cannot carry the
load. -/
def flagFeed (s : State) (f : Nat) : State :=
  let o := 1 - f
  let ov := rf s .pwrFeedf o 40 16
  if feedClosed s o && decide (4000 ≤ ov ∧ ov ≤ 6000) then openFeed s f 3 (rf s .pwrFeedf f 40 16)
  else
    let cap := min (rf s .pwrCtl 0 48 16) (max 300 (rf s .pwrCtl 0 16 12 / 2))
    powerNotice (rfSet (rfSet s .pwrFeedf f 62 2 3) .pwrCtl 0 48 16 cap) 11 f 3 3

/-- A feed's path resistance in a lap in which it carries at least 5 A: recorded once, then judged (R332, R472). -/
def judgeFeed (s : State) (f drop cur : Nat) : State :=
  let x := feedOf s f
  if feedState s f ≠ 1 then s
  else if cur < 500 then setFeed s f { x with crack := 0 }
  else
    let r := pathOf drop cur
    if x.base = 0 then rfSet (setFeed s f { x with base := r }) .pwrFeedf f 8 16 (min 65535 r)
    else
      let k := if rf s .pwrCtl 0 4 4 * x.base ≤ r then x.crack + 1 else 0
      let s := setFeed s f { x with crack := if k = 4 then 0 else k }
      if k = 4 then flagFeed s f else s

/-- A cell's input connection is judged in the same way, in laps in which it carries current (R332). -/
def judgeCell (s : State) (c v : Nat) : State :=
  let drop := v / 65536
  let cur := v % 65536
  let p := s.power
  if p.cells.getLsbD c = true then s
  else if cur = 0 ∨ rf s .pwrqVstat (cellCourse c).1 61 3 ≠ 3 then { s with power := { p with crack := tput 0 p.crack c 0 } }
  else
    let r := pathOf drop cur
    if tget 0 p.base c = 0 then { s with power := { p with base := tput 0 p.base c r } }
    else
      let k := if rf s .pwrCtl 0 4 4 * tget 0 p.base c ≤ r then tget 0 p.crack c + 1 else 0
      let s := { s with power := { p with crack := tput 0 p.crack c k } }
      if k = 4 then failCell s c 4 else s

/-- What a reading of a channel that is no temperature brings with it (R329, R332, R348, R349). -/
def judgeOther (s : State) (ch v : Nat) : State :=
  if ch = 498 then rfSet s .pwrFeedf 0 40 16 (v / 10)
  else if ch = 501 then rfSet s .pwrFeedf 1 40 16 (v / 10)
  else if ch = 499 then rfSet s .pwrFeedf 0 24 16 v
  else if ch = 502 then rfSet s .pwrFeedf 1 24 16 v
  else if ch = 500 then judgeFeed s 0 v (rf s .hkValn 499 0 32)
  else if ch = 503 then judgeFeed s 1 v (rf s .hkValn 502 0 32)
  else if ch = 504 then rfSet s .pwrBus 0 48 16 v
  else if 512 ≤ ch then judgeCell s (ch - 512) v
  else if 324 ≤ ch ∧ ch < 328 then judgeCell s (512 + (ch - 324)) v else s

/-- Laps run from the start of bring-up until shutdown or device reset, while the Ridge course is powered (R353). -/
def lapsRun (s : State) : Bool := s.boot.ridgeOn && s.boot.released && s.stop.shut.isNone

/-- The channels whose sensors lie across the eaves links: those of the Thatch and Truss courses and of the HBM stacks
(R34, R354). -/
def eavesChan (ch : Nat) : Bool := decide (ch < 320 ∨ (328 ≤ ch ∧ ch < 336))

/-- HK_CHANNEL_READ: the sequencer reads the next channel, one every 2 µs (R353-R356). Reserved channels read zero. A read
that crosses a lost link waits for its takeover (R34, R446). -/
def execHkChannelRead (r : HkReading) (s : State) : Out :=
  let ch := s.heat.next
  if lapsRun s = false ∨ 1024 ≤ ch then .fault .notPossible
  else if eavesChan ch && flowWaits s .housekeeping then .next s
  else
    let s := dueR s (s.heat.lap * 2048000 + 2000 * ch)
    let s := { s with heat := { s.heat with next := ch + 1 } }
    if ch < 324 ∨ (328 ≤ ch ∧ ch < 336) then .next (judgeTemp (readTemp s ch r) ch (sensor s ch).hot)
    else if 510 ≤ ch ∧ ch < 512 then .next (putHk s ch 0 0)
    else
      match r with
      | .silent => .next (silentHk s ch)
      | .value v => .next (judgeOther (putHk s ch 0 v.toNat) ch v.toNat)

/-! ## Energy accounts (R366-R368) -/

/-- A quotient of naturals, rounded once to FP32. -/
def ratio32 (n d : Nat) : BitVec 32 :=
  if d = 0 then 0 else toF32 (.fin false (2 * (n * 2 ^ 80 / d) + b2n (decide (n * 2 ^ 80 % d ≠ 0))) (-81))

/-- A natural number in FP32. -/
def nat32 (n : Nat) : BitVec 32 := toF32 (fInt n 0)

/-- FP32 subtraction. -/
def sub32 (x y : BitVec 32) : BitVec 32 := add32 x (y ^^^ 0x80000000)

/-- FP32 minimum of two numbers. -/
def min32 (x y : BitVec 32) : BitVec 32 := if lt32 y x then y else x

/-- FP32 maximum of two numbers. -/
def max32 (x y : BitVec 32) : BitVec 32 := if lt32 x y then y else x

/-- The sum of FP32 numbers, in order. -/
def sum32 (l : List (BitVec 32)) : BitVec 32 := l.foldl add32 0

/-- VALUE of a housekeeping channel. -/
def hkVal (s : State) (ch : Nat) : Nat := rf s .hkValn ch 0 32

/-- The module power of the lap in units of 10 µW (R329). -/
def modulePower (s : State) : Nat := hkVal s 498 * hkVal s 499 + hkVal s 501 * hkVal s 502

/-- e_course[q] (R367): mV x 10 mA x 2.048 ms is 64/3125 of a quantum. -/
def courseEnergy (s : State) (q : Nat) : BitVec 32 := ratio32 (hkVal s (336 + q) * hkVal s (417 + q) * 64) 3125

/-- The thermal factor f(q) (R368). -/
def thermalFactor (s : State) (q : Nat) : BitVec 32 :=
  let v := rg s .thmqStat q
  if bitOf v 16 ∨ bitOf v 15 then 0
  else
    let t := sext 16 (fld v 48 16)
    let hi := tlim s 48
    let lo := tlim s 56
    let f := if t ≤ lo then nat32 1 else if hi ≤ t then 0 else ratio32 (hi - t).toNat (hi - lo).toNat
    if bitOf v 17 then mul32 f (ratio32 1 2) else f

/-- lim[q] (R367). -/
def courseLim (s : State) (q : Nat) : BitVec 32 :=
  mul32 (mul32 (mul32 (nat32 (workCells s q)) (ratio32 9 2)) (ratio32 (vceil s q) 1000)) (nat32 2048)

/-- w[q] (R367). -/
def courseWeight (s : State) (q : Nat) : BitVec 32 :=
  if rf s .pwrqVstat q 61 3 ≠ 3 then 0
  else
    let d := nat32 (tget 0 s.heat.debit q)
    let u := mul32 d (nat32 (if tget false s.heat.short q then 2 else 1))
    let umin := fDiv32 (mul32 (courseLim s q) (nat32 (rf s .thmActl 0 48 8))) (nat32 256)
    mul32 (thermalFactor s q) (max32 u umin)

/-- The ratio r of R367, over the 16 last reports and the laps that they cover. -/
def courseRatio (s : State) (q : Nat) : BitVec 32 :=
  let s16 := (tget [] s.heat.debitH q).sum
  let m16 := sum32 ((tget [] s.heat.energyH q).reverse.map (BitVec.ofNat 32))
  if s16 < 1024 ∨ m16 = 0 then nat32 1 else max32 (ratio32 1 4) (min32 (nat32 1) (fDiv32 (nat32 s16) m16))

/-- pool (R367). -/
def energyPool (s : State) : BitVec 32 :=
  let o := sub32 (ratio32 (modulePower s * 64) 3125) (sum32 ((List.range 80).map (courseEnergy s)))
  max32 0 (sub32 (nat32 (rf s .pwrCtl 0 48 16 * 2048)) o)

/-- The account of course `q` (R367). -/
def courseAcct (s : State) (pool sumW : BitVec 32) (q : Nat) : Acct :=
  let share := if lt32 0 sumW then fDiv32 (mul32 pool (courseWeight s q)) sumW else 0
  let refill := (f32ToInt 33 (mul32 (min32 share (courseLim s q)) (courseRatio s q))).toNat
  { cap := BitVec.ofNat 32 (max 1 (refill * rf s .thmActl 0 56 8)), refill := BitVec.ofNat 32 refill }

/-- accounts() (R366, R367): computed, published, and noticed where the pool is 0. The energies of the lap just ended are
those of the report that answers this publication. -/
def accounts (s : State) : State :=
  let pool := energyPool s
  let sumW := sum32 ((List.range 80).map (courseWeight s))
  let as := (List.range 80).map (courseAcct s pool sumW)
  let s := (as.zip (List.range 80)).foldl (fun s a =>
    rgSet s .thmqAcct a.2 0 (mkWord [(32, 32, a.1.cap.toNat), (0, 32, a.1.refill.toNat)])) s
  let s := { s with heat := { s.heat with
    pub := some { lap := s.heat.lap, acct := as },
    lapE := (List.range 80).foldl (fun t q => tput 0 t q (courseEnergy s q).toNat) [] } }
  if lt32 0 pool then s
  else raiseR s 0x0023 (srcOf 0 0) (mkWord [(32, 1, 1), (0, 32, s.heat.lap)])

/-- THMq_STAT.FACT: f in units of 1/32. -/
def factField (s : State) (q : Nat) : Nat := (f32ToInt 33 (mul32 (thermalFactor s q) (nat32 32))).toNat

/-- DWELL after a lap (R359). -/
def nextDwell (d : Nat) (holds : Bool) : Nat :=
  if holds then (if d = 0 then 64 else min 1023 (2 * d)) else if d / 2 < 16 then 0 else d / 2

/-- The budget ceiling's step at a lap's end (R345), from SEAL on. -/
def lapBudget (s : State) : State :=
  let p := modulePower s
  let cap := rf s .pwrCtl 0 48 16
  let v := rf s .pwrCtl 0 38 10
  if !sealed s then s
  else if 100000 * cap < p then rfSet s .pwrCtl 0 38 10 (max 550 (v - 10))
  else if 100 * p < 97 * 100000 * cap then rfSet s .pwrCtl 0 38 10 (min (gvmax s) (v + 10)) else s

/-- Whether the offset of bucket `b` moves at a lap's end (R428): quiet, and the port that its offset selects now carried
more than 1.25 times the bytes of the least-loaded port of its mask. -/
def bucketMoves (s : State) (b : Nat) : Bool :=
  let x := tget {} s.vly.buckets b
  let ps := idxs 12 fun k => x.mask.getLsbD k
  let load := fun (k : Nat) => tget 0 s.vly.lapBytes k
  let least := (leastBy id (ps.map load)).getD 0
  !ps.isEmpty && decide (x.last.toNat + 1000 * rf s .vlyCtl 0 16 16 ≤ (nowR s).toNat) &&
    decide (5 * least < 4 * load (nth ps ((b + x.off) % ps.length) 0))

/-- At most one offset is incremented at a lap's end: that of the lowest such bucket (R428). -/
def moveBucket (s : State) : State :=
  match (List.range 64).find? (bucketMoves s) with
  | none => s
  | some b => { s with vly := { s.vly with buckets := tmod {} s.vly.buckets b fun x => { x with off := x.off + 1 } } }

/-- HOUSEKEEPING_LAP_END (R349, R353, R359, R314, R316, R345, R366, R428): the lap's averages, dwell lengths, SUST, the
budget ceiling and the accounts. -/
def execHousekeepingLapEnd (s : State) : Out :=
  if s.heat.next < 1024 ∨ lapsRun s = false then .fault .notPossible
  else
    let s := dueR s ((s.heat.lap + 1) * 2048000)
    let icore := ((List.range 81).map fun q => hkVal s (417 + q)).sum / 100
    let s := rfSet (rfSet s .pwrBus 0 32 16 (min 65535 icore)) .pwrBus 0 16 16 (min 65535 (modulePower s / 100000))
    let s := (List.range 64).foldl (fun s q =>
      rfSet s .thmqStat q 22 10 (nextDwell (rf s .thmqStat q 22 10) (rbit s .thmqStat q 16))) s
    let s := (List.range 81).foldl (fun s q => rfSet s .thmqStat q 8 6 (factField s q)) s
    let s := (List.range 8).foldl (fun s t => setStack s t { stack s t with ueLap := [] }) s
    let s := moveBucket s
    let s := countG s 0x220 0 1
    let s := if sealed s && !stopped s then countG (accounts (qosUpdate (lapBudget s))) 0x221 0 1 else s
    .next (settle { s with
      heat := { s.heat with lap := s.heat.lap + 1, next := 0 }, vly := { s.vly with lapBytes := [] },
      ports := tmap {} (fun x => { x with hopSaid := false }) s.ports })

/-! ## The fault log (R364, R365) -/

/-- The bytes of a fault record (R365, R496). -/
def recordBytes (s : State) (f : FRec) : List Byte :=
  let body := wordsBytes ([mkWord [(56, 8, f.cause), (32, 16, rf s .vlyDevid 0 0 16), (0, 32, s.flash.nextSeq.toNat)],
    f.time, mkWord [(48, 16, f.src), (32, 16, tempField f.temp), (16, 16, f.rate)], f.w3, f.w4, f.w5, f.w6, f.w7] ++
    List.replicate 7 0)
  body ++ natBytes (crc32 body).toNat 8

/-- The first record that waits enters BOOT_XWQ, once that is empty (R74, R364). -/
def feedLog (s : State) : State :=
  match s.flash.waiting with
  | [] => s
  | f :: _ =>
    if s.flash.fed || qHolds (queue s 59) then s
    else
      let ws := bytesWords (recordBytes s f) 16
      let qs := ws.zipIdx.map fun w => { w := w.1, parity := xorBits w.1, endm := decide (w.2 = 15), vb := 0 }
      { setQueue s 59 (qPut (queue s 59) (qNow s 59) qs) with flash := { s.flash with fed := true, took := [] } }

/-- The words of the record in BOOT_XWQ that the flash interface has not taken whole. -/
def logWords (s : State) : Nat := if s.flash.fed then 16 - s.flash.took.length / 8 else 0

/-- The bytes of a record as they come to the flash: those taken from BOOT_XWQ and those still in it. -/
def recordOut (s : State) (f : FRec) : List Byte :=
  if s.flash.fed then
    (s.flash.took ++ (((queue s 59).words.take (logWords s)).flatMap fun w => wordBytes w.w).drop (s.flash.took.length % 8)).take 128
  else recordBytes s f

/-- A record is programmed; the first of a sector has the sector after it erased (R364). -/
def programRecord (s : State) (f : FRec) : State :=
  let k := logWords s
  let s := fprogram s (0x10000 + 128 * s.flash.pos) (recordOut s f)
  let s := if k = 0 then s else setQueue s 59 { qTake (queue s 59) (qNow s 59) k with bytes := 0 }
  { s with flash := { s.flash with
      fed := false, took := [], nextSeq := s.flash.nextSeq + 1, pos := (s.flash.pos + 1) % 512,
      erasing := if s.flash.pos % 32 = 0 then some ((s.flash.pos / 32 + 1) % 16) else s.flash.erasing } }

/-- FAULT_RECORD_PROGRAMMED: the oldest waiting record is programmed, from BOOT_XWQ; none goes into a sector whose erase is
still to be made (R364, R544). A shutdown's record halts the device (R363). -/
def execFaultRecordProgrammed (s : State) : Out :=
  let s := feedLog s
  match s.flash.waiting with
  | [] => .fault .notPossible
  | f :: l =>
    if s.flash.fed = false ∨ s.flash.erasing = some (s.flash.pos / 32) then .next s
    else
      let s := programRecord { s with flash := { s.flash with waiting := l } } f
      .next (if 1 ≤ f.cause ∧ f.cause ≤ 3 then rfSet s .sysState 0 0 2 3 else s)

/-- SECTOR_ERASE_DONE (R364); an erase that a reset cut short is made again after RIDGE (R544). -/
def execSectorEraseDone (s : State) : Out :=
  match s.flash.erasing with
  | none => .fault .notPossible
  | some k => if bootStep s < 3 then .fault .notPossible else .next (ferase { s with flash := { s.flash with erasing := none } } (0x10000 + 4096 * k))

/-! ## Slate sweeps (R441) -/

/-- SLATE_SWEEP_START: an idle rafter sweeps an enabled physical slate that has run no command for 64 µs. -/
def execSlateSweepStart (n : Fin 256) (sl : Fin 8) (s : State) : Out :=
  let r := raf s n
  if stopped s || decide (r.st ≠ .idle) || r.sweep.isSome || !(enPhys s n).contains sl.val then .fault .notPossible
  else
    let s := dueT s ((slate r sl).last.toNat + 64000 + 64)
    .next (modRaf s n fun r => { r with sweep := some sl.val })

/-- A bank of accumulators that a sweep has left behind: no rule says what they hold, but every NaN is the canonical one
(R168). -/
def sweptBank (k : Nat) : Tbl (BitVec 32) :=
  ((List.range 1024).map fun i =>
    let v := (Config.free (k + i)).setWidth 32
    (i, if isNan32 v then 0x7FC00000 else v)).filter fun e => e.2 ≠ 0

/-- SLATE_SWEEP_END: a slate that fails is disabled; with fewer than 4 left the rafter is retired. Both banks have been
driven, and what they hold is open. DESIGN CHOICE (assumption log 39): a NaN or an infinity that a sweep leaves sets no bit of
SLTn_EXC (R179, R441). -/
def execSlateSweepEnd (n : Fin 256) (sl : Fin 8) (pass : Bool) (s : State) : Out :=
  let r := raf s n
  if r.st ≠ .idle ∨ r.sweep ≠ some sl.val then .fault .notPossible
  else
    let x : Slate := { slate r sl with acc0 := sweptBank s.free, acc1 := sweptBank (s.free + 1024) }
    let s := setRaf { s with free := s.free + 2048 } n { setSlate r sl x with sweep := none }
    if pass then .next s
    else
      let s := modRaf s n fun r => { r with slateEn := r.slateEn &&& ~~~(1#8 <<< sl.val) }
      let s := raiseT s 0x0073 (srcOf 1 n) (mkWord [(8, 8, sl), (0, 8, sltEn s n)])
      .next (if (enPhys s n).length < 4 then retireRafter s n 4 else s)

end Sys2Proof.Machine
end

