-- ==== Sys2Proof/Machine/Conn.lean ====
section
/-! DEFINITION. Valleys at work (R414-R424): joining, control packets, sending and resending, and the packets that
arrive at an end, with the window and the reduction engines. -/

namespace Sys2Proof.Machine

/-! ## Arriving packets and their end -/

/-- A packet's end, unless it is FREE or its VGEN is another (R416). -/
def liveEnd (s : State) (i : Nat) (g : BitVec 16) : Option VEnd :=
  let e := vend s i
  if e.st = .free ∨ e.vgen ≠ g then none else some e

/-- MAXHOP follows the largest HOPS seen (R426). -/
def sawHops (s : State) (i hops : Nat) : State := modVend s i fun e => { e with maxhop := max e.maxhop hops }

/-- What an arriving control packet does at its end; a stale one is dropped and counted (R416, R420). -/
def ctlDo (s : State) (c : VCtl) (body : State → VEnd → State) : State :=
  match liveEnd s c.vidx.val c.dgen with
  | none => stalePacket s
  | some _ => let s := sawHops s c.vidx.val c.hops; body s (vend s c.vidx.val)

/-! ## Joining (R414, R415, R423) -/

/-- The level that a joining end records: the lower of what it sent and what it received, 1 to 3 (R423). -/
def joinLevel (c : VCtl) : Nat := max 1 (min 3 c.minlvl.toNat)

/-- End `i` enters LIVE with its partner's handle and ring (R414, R420, R421). No packet of R420 carries the partner's CONS, by
which R410 judges SES_MIGRATE: it is a free value (assumption log 84). -/
def goLive (s : State) (i : Nat) (c : VCtl) : State :=
  let (s, f) := takeFree s
  modVend s i fun e => { e with
    st := .live, pcons := BitVec.ofNat 2 (fld f 0 2), ph := BitVec.ofNat 32 (fld c.w2 32 32), minlvl := joinLevel c, pring := fld c.w3 0 32,
    granted := fld c.w3 0 32, progAt := nowR s }

/-- Whether a CONNECT passes the check of R414 step 3. -/
def joinOk (e : VEnd) (c : VCtl) : Bool :=
  decide (e.vgen = c.dgen ∧ e.pdev = c.srcdev ∧ e.kind.toNat = fld c.w2 30 2) &&
  (decide (e.kind ≠ 2) || decide (e.dir ≠ bitOf c.w2 29))

/-- A CONNECT reaches this device (R414): CONNACK from an end that takes it or has taken it, else REFUSE. An end that
is joining takes it: in LISTEN from any end of its partner that matches, in CONNECTING from the end that it names
itself. A CLOSED end sends nothing. -/
def takeConnect (s : State) (c : VCtl) : State :=
  let i := c.vidx.val
  let e := vend s i
  let h := fld c.w2 32 32
  let ok := joinOk e c
  if e.st = .closed ∧ e.vgen = c.dgen then s
  else if ok && decide (e.st = .listen ∨ (e.st = .connecting ∧ e.ph.toNat = h)) then
    let s := sawHops (goLive s i c) i c.hops
    sendJoin s i 0x02 (vend s i).minlvl
  else if ok && decide (e.st = .live ∧ e.ph.toNat = h) then sendJoin (sawHops s i c.hops) i 0x02 e.minlvl
  else sendCtl s c.srcdev.toNat (h % 65536) 0x07 (h / 65536) 0 (mkWord [(24, 8, 4)]) 0

/-- CONNECT. -/
def execConnect (c : VCtl) (s : State) : Out := if stopped s then .fault .notPossible else .next (takeConnect s c)

/-- A CONNACK reaches a CONNECTING end (R414 step 4). -/
def takeConnack (s : State) (c : VCtl) : State :=
  ctlDo s c fun s e =>
    if e.st = .connecting ∧ e.ph.toNat = fld c.w2 32 32 ∧ e.pdev = c.srcdev then goLive s c.vidx.val c else s

/-- CONNACK. -/
def execConnack (c : VCtl) (s : State) : Out := if stopped s then .fault .notPossible else .next (takeConnack s c)

/-- CONNECT_REPEAT: every 100 µs, but not while every port to the partner is paused (R414, R480). -/
def execConnectRepeat (v : Fin 65536) (s : State) : Out :=
  let e := vend s v
  if e.st ≠ .connecting ∨ stopped s = true ∨ destPaused s e.pdev.toNat = true then .fault .notPossible
  else
    let s := dueR s (e.lastCon.toNat + 100000)
    .next (sendJoin (modVend s v fun e => { e with lastCon := nowR s }) v 0x01 3)

/-- JOIN_TIMEOUT: an end not joined within OTMO closes (R414). -/
def execJoinTimeout (v : Fin 65536) (s : State) : Out :=
  let e := vend s v
  if ¬ (e.st = .listen ∨ e.st = .connecting) ∨ stopped s = true then .fault .notPossible
  else .next (closeEnd (dueR s (e.opened.toNat + 1000000 * rf s .vlyCtl 0 48 16)) v 3 false)

/-! ## Acknowledgement, credit and refusal (R420-R422, R434) -/

/-- A reduction engine gives up the sums whose packets the OUT end has had acknowledged (R419). -/
def pruneSums (s : State) (i : Nat) : State :=
  { s with vly := { s.vly with
      sums := s.vly.sums.filter fun m => m.out ≠ i || !m.whole || (vend s i).sends.any fun k => k.pseq = m.k } }

/-- An end takes and sends while it is LIVE; a FROZEN one still hears its partner's control packets. -/
def joined (e : VEnd) : Bool := decide (e.st = .live ∨ e.st = .frozen)

/-- A CREDIT: the packets before the next PSEQ expected are acknowledged, and the total of units granted follows; an
older total changes nothing (R420, R421). -/
def takeCredit (s : State) (c : VCtl) : State :=
  ctlDo s c fun s e =>
    if !joined e || decide (effLevel e ≠ 3) then s else
    let i := c.vidx.val
    let more := (fld c.w2 0 32 + e.pring + 2 ^ 32 - e.granted % 2 ^ 32) % 2 ^ 32
    let e := if more < 2 ^ 31 then { e with granted := e.granted + more } else e
    pruneSums (setVend s i (ackUpto e (BitVec.ofNat 32 (fld c.w2 32 32)) (nowR s))) i

/-- CREDIT. -/
def execCredit (c : VCtl) (s : State) : Out := if stopped s then .fault .notPossible else .next (takeCredit s c)

/-- A DONE acknowledges one packet (R421). -/
def takeDone (s : State) (c : VCtl) : State :=
  ctlDo s c fun s e =>
    if !joined e then s else
    let i := c.vidx.val
    pruneSums (setVend s i (ackOne e (BitVec.ofNat 32 (fld c.w2 32 32)) (nowR s))) i

/-- DONE. -/
def execDone (c : VCtl) (s : State) : Out := if stopped s then .fault .notPossible else .next (takeDone s c)

/-- A GAP: every unacknowledged packet from the named PSEQ is resent (R422). -/
def takeGap (s : State) (c : VCtl) : State :=
  ctlDo s c fun s e =>
    if joined e then setVend s c.vidx.val (resendFrom e (BitVec.ofNat 32 (fld c.w2 32 32))) else s

/-- GAP. -/
def execGap (c : VCtl) (s : State) : Out := if stopped s then .fault .notPossible else .next (takeGap s c)

/-- A CLOSE from the partner closes an end that is joining or LIVE; a FROZEN one stays (R415). -/
def takeClose (s : State) (c : VCtl) : State :=
  ctlDo s c fun s e =>
    if e.st = .listen ∨ e.st = .connecting ∨ e.st = .live then closeEnd s c.vidx.val 2 false else s

/-- CLOSE. -/
def execClose (c : VCtl) (s : State) : Out := if stopped s then .fault .notPossible else .next (takeClose s c)

/-- The packets of an end that have never been sent and satisfy `p` are withdrawn; those behind them move up, so that
the sequence stays whole. -/
def cancelUnsent (e : VEnd) (p : VSend → Bool) : VEnd :=
  let fresh := e.sends.filter fun k => k.units ≠ 0
  let stay := fresh.filter fun k => !p k
  let first := e.nextTx - BitVec.ofNat 32 fresh.length
  { e with
    sends := (e.sends.filter fun k => k.units = 0) ++
      (stay.zip (List.range stay.length)).map fun x => { x.1 with pseq := first + BitVec.ofNat 32 x.2 },
    nextTx := first + BitVec.ofNat 32 stay.length }

/-- A packet whose data can no longer be read where it stood: bytes that nothing defines take its place. -/
def looseSend (s : State) (i : Nat) (k : VSend) : State :=
  let n := srcLen k.src
  let (s, bs) := freeBytes s ((n + 7) / 8)
  modVend s i fun e => { e with
    sends := mapIf (fun x => decide (x.pseq = k.pseq)) (fun x => { x with src := .bytes (bs.take n) }) e.sends }

/-- The bytes of a packet already given its PSEQ are taken from its source now, so that it no longer concerns the
descriptor that named it. -/
def detachSend (s : State) (i : Nat) (k : VSend) : State :=
  let (s, bs, bad) := srcBytes s k.src
  if bad.isSome then looseSend s i k else
  modVend s i fun e => { e with
    sends := mapIf (fun x => decide (x.pseq = k.pseq)) (fun x => { x with src := .bytes bs }) e.sends }

/-- A packet of channel `c` of rafter `n`. -/
def sendOfChan (n c : Nat) (k : VSend) : Bool :=
  match k.src with
  | .chan m b _ _ _ => decide (m = n ∧ b = c)
  | _ => false

/-- Whether the descriptor at the head of a channel is in progress on the end with handle `h`. -/
def chanOn (s : State) (n c : Nat) (h : BitVec 32) : Bool :=
  let x := chan (raf s n) c
  decide (x.st = .busy ∨ x.st = .halted) && match x.queue with | d :: _ => decide (sdValley d = some h) | [] => false

/-- A descriptor ends with BAD_VALLEY because the partner refused its packet (R418). -/
def refuseChan (s : State) (i n c : Nat) : State :=
  if !chanOn s n c (endHandle s i) then s else
  let s := ((vend s i).sends.filter (sendOfChan n c)).foldl (fun s k => detachSend s i k) s
  endDesc s n c 0x02 (chan (raf s n) c).moved

/-- The packets of a session's migration that have not been sent: its page chunks and its final commit record. -/
def ofMigration (s : State) (slot : Nat) (k : VSend) : Bool :=
  match k.src with
  | .mig j _ _ _ => decide (j = slot)
  | .bytes bs => decide (bs.length = 32 ∧ bytesNat (bs.take 4) = (sesHandle s slot).toNat)
  | _ => false

/-- A migration at the source fails over end `i` (R445): MIG_FAIL, and what was not sent never is. -/
def dropMigration (s : State) (i slot : Nat) : State :=
  let x := ses s slot
  if x.st = .migrating ∧ x.back ≠ .free ∧ x.aux = endHandle s i then
    migFail (modVend s i fun e => cancelUnsent e (ofMigration s slot)) slot
  else s

/-- What a refused packet's sender does (R418, R434). A refused header or record of a migration fails it. -/
def refusedSend (s : State) (i : Nat) (k : VSend) : State :=
  match k.src with
  | .chan n c _ _ _ => refuseChan s i n c
  | .mig slot _ _ _ => dropMigration s i slot
  | .gate tag _ _ _ =>
    match s.gate.slots.find? fun g => decide (g.tag = tag ∧ g.st = .remote) && !g.aband with
    | some g => redirectSlot s g
    | none => s
  | .bytes _ =>
    if k.vop = 1 ∧ fld k.win 62 2 = 1 then
      match (vend s i).gets.find? fun g => decide (g.2.2.1 = fld k.win 0 40 ∧ g.2.2.2 = fld k.win 40 17) with
      | some g =>
        let s := modVend s i fun e => { e with gets := dropFirst (fun x => decide (x = g)) e.gets }
        refuseChan s i g.1 g.2.1
      | none => s
    else if (vend s i).cons = 2 then (usedSlots s).foldl (fun s slot => dropMigration s i slot) s
    else s

/-- A REFUSE: a joining end closes; else it acknowledges the PSEQ it names, which is not resent (R414, R434). -/
def takeRefuse (s : State) (c : VCtl) : State :=
  ctlDo s c fun s e =>
    let i := c.vidx.val
    let p := BitVec.ofNat 32 (fld c.w2 32 32)
    if e.st = .listen ∨ e.st = .connecting then closeEnd s i 4 false
    else if !joined e then s
    else
      match e.sends.find? fun k => k.pseq = p with
      | none => s
      | some k => pruneSums (refusedSend (setVend s i (ackOne e p (nowR s))) i k) i

/-- REFUSE. -/
def execRefuse (c : VCtl) (s : State) : Out := if stopped s then .fault .notPossible else .next (takeRefuse s c)

/-! ## Reduction (R419) -/

/-- The FP32 elements of a packet. -/
def elemsOf (rfmt : Bool) (bs : List Byte) : List (BitVec 32) :=
  (List.range (bs.length / (if rfmt then 2 else 4))).map fun k =>
    if rfmt then toF32 (fDecode bf16 (bytesNat ((bs.drop (2 * k)).take 2)))
    else toF32 (ofF32 (BitVec.ofNat 32 (bytesNat ((bs.drop (4 * k)).take 4))))

/-- The bytes of a sum, rounded once to BF16 for BF16 output, with overflow to infinity. -/
def elemsBytes (rfmt : Bool) (es : List (BitVec 32)) : List Byte :=
  es.flatMap fun x => if rfmt then natBytes (fConvert bf16 (ofF32 x) none false).code 2 else natBytes x.toNat 4

/-- The IN ends chained to an OUT end. -/
def chained (s : State) (out : Nat) : List Nat :=
  let h := endHandle s out
  ((openEnds s).filter fun e => decide (e.2.kind = 2 ∧ e.2.chain = h ∧ e.2.chain ≠ 0) && e.2.dir).map Prod.fst

/-- An OUT end whose packets are sums. -/
def sumsOut (e : VEnd) : Bool := decide (e.kind = 2 ∧ 0 < e.nin) && !e.dir

/-- The bytes of partial sums that the engine of a port holds; its store is 256 KiB. -/
def engineFull (s : State) (p : Option Nat) : Bool :=
  decide (262144 ≤ ((s.vly.sums.filter fun m => m.port = p).map fun m => 4 * m.elems.length).sum)

/-- The port on which packets of end `i` leave now. -/
def portOf (s : State) (i : Nat) : Option Nat :=
  let e := vend s i
  (route s (devId s) e.pdev.toNat (e.ph.toNat % 65536) none).2

/-- A size or RFMT mismatch closes the OUT end and every IN end chained to it. -/
def formatClose (s : State) (out : Nat) : State :=
  (chained s out).foldl (fun s i => closeEnd s i 7 true) (closeEnd s out 7 true)

/-- A sum is whole: where no local descriptor queued its packet, it is queued now. -/
def sumWhole (s : State) (m : RSum) : State :=
  let s := { s with vly := { s.vly with
    sums := mapIf (fun x => decide (x.out = m.out ∧ x.k = m.k)) (fun _ => { m with whole := true }) s.vly.sums } }
  if (vend s m.out).local_ then s else pushSend s m.out (.bytes (elemsBytes m.rfmt m.elems)) 2 m.rfmt 0

/-- A contribution to packet `k` of an OUT end: summed in order of arrival, in FP32. -/
def addPart (s : State) (out : Nat) (k : BitVec 32) (who : Nat) (rfmt : Bool) (bs : List Byte) : State :=
  let e := vend s out
  let es := elemsOf rfmt bs
  let done := fun (s : State) (m : RSum) =>
    if m.parts.length = e.nin + b2n e.local_ then sumWhole s m else s
  match s.vly.sums.find? fun m => decide (m.out = out ∧ m.k = k) with
  | none =>
    let m : RSum := { out := out, k := k, rfmt := rfmt, size := bs.length, parts := [who], elems := es, port := portOf s out }
    done { s with vly := { s.vly with sums := s.vly.sums ++ [m] } } m
  | some m =>
    if m.rfmt ≠ rfmt ∨ m.size ≠ bs.length then formatClose s out
    else
      let m := { m with parts := m.parts ++ [who], elems := (m.elems.zip es).map fun x => add32 x.1 x.2 }
      done { s with vly := { s.vly with
        sums := mapIf (fun x => decide (x.out = out ∧ x.k = k)) (fun _ => m) s.vly.sums } } m

/-- The sum that is packet `k` of an OUT end. -/
def sumOf (s : State) (out : Nat) (k : BitVec 32) : Option RSum :=
  s.vly.sums.find? fun m => decide (m.out = out ∧ m.k = k) && m.whole

/-- Whether the chained IN end `i` returns no credit now, its engine being full. -/
def creditHeld (s : State) (i : Nat) : Bool :=
  match endOfHandle s (vend s i).chain with
  | some o => engineFull s (portOf s o)
  | none => false

/-! ## Sending (R416, R417, R421, R422) -/

/-- One packet leaves: its data goes to the port, its units are spent at its first sending. A gate packet that a port of the
subset drops at its first sending leaves the end, and its slot is sent to a spare (R208). -/
def sendOne (s : State) (i : Nat) (k : VSend) (bs : List Byte) : State :=
  let e := vend s i
  let again := decide (k.units = 0)
  let port := portOf s i
  let (s, r) := sendPacket s e.pdev.toNat (e.ph.toNat % 65536) 0 (some e.kind.toNat) bs.length k.rfmt
    (packetWords e k bs) (effLevel e)
  let s := countG s 0x210 0 1
  let s := if again then countG s 0x212 0 1 else if sumsOut e then countG s 0x214 (port.getD 0) 1 else s
  match k.src, r, again with
  | .gate tag _ _ _, .subset, false =>
    let s := modVend s i fun e => cancelUnsent e fun x => decide (x.pseq = k.pseq)
    match s.gate.slots.find? fun g => decide (g.tag = tag ∧ g.st = .remote) && !g.aband with
    | some g => redirectSlot s g
    | none => s
  | _, _, _ => modVend s i fun e => { e with
      used := e.used + k.units, progAt := if e.sends.any fun x => x.sent.isSome then e.progAt else nowR s,
      sends := mapIf (fun x => decide (x.pseq = k.pseq)) (fun x => { x with sent := some (nowR s), units := 0 }) e.sends }

/-- A packet's data holds an uncorrectable word at `a` (R142, R445): the channel halts, the migration fails, the gate
slot is abandoned. A packet whose descriptor has been cleared meanwhile has no data that anything defines. -/
def sendBad (s : State) (i : Nat) (k : VSend) (a : Nat) : State :=
  match k.src with
  | .chan n c _ _ _ => if chanOn s n c (endHandle s i) then haltChan s n c a else looseSend s i k
  | .mig slot _ _ _ =>
    if k.units = 0 then dropMigration (looseSend s i k) i slot
    else dropMigration (modVend s i fun e => cancelUnsent e (ofMigration s slot)) i slot
  | .gate tag _ _ _ =>
    let s := if k.units = 0 then looseSend s i k else modVend s i fun e => cancelUnsent e fun x => decide (x.pseq = k.pseq)
    match s.gate.slots.find? fun g => decide (g.tag = tag ∧ g.st = .remote) && !g.aband with
    | some g => failSlot s g
    | none => s
  | _ => s

/-- A channel that halted at this packet's data: it is read again once the channel goes on (R143). -/
def sendHalted (s : State) (k : VSend) : Bool :=
  match k.src with
  | .chan n c _ _ _ => decide ((chan (raf s n) c).st = .halted)
  | _ => false

/-- The local contribution that an OUT end has not given to its engine yet. -/
def nextPart (s : State) (i : Nat) : Option VSend :=
  let e := vend s i
  if sumsOut e && e.local_ then
    e.sends.find? fun k => decide (k.units ≠ 0) &&
      !(s.vly.sums.any fun m => decide (m.out = i ∧ m.k = k.pseq) && m.parts.contains 65536)
  else none

/-- VALLEY_PACKET_SEND: the first packet waiting on an end is sent, or its contribution goes to the engine (R419, R421);
while every port to the partner is paused it waits (R480), and so it does while the valley's flow is taken over by another
eaves link (R446). -/
def execValleyPacketSend (v : Fin 65536) (s : State) : Out :=
  let i := v.val
  let e := vend s i
  if e.st ≠ .live ∨ stopped s = true then .fault .notPossible
  else if flowWaits s (.valley i) then .next s
  else
    match nextPart s i with
    | some k =>
      if sendHalted s k then .fault .notPossible else
      match srcHeld s k.src with
      | some t => .next t
      | none =>
      let (t, bs, bad) := srcBytes s k.src
      match bad with
      | some a => .next (sendBad t i k a)
      | none => .next (addPart t i k.pseq 65536 k.rfmt bs)
    | none =>
      match e.sends.find? fun k => k.sent.isNone with
      | none => .fault .notPossible
      | some k =>
        if !maySend e k || sendHalted s k then .fault .notPossible
        else if destPaused s e.pdev.toNat then .next s
        else if sumsOut e then
          match sumOf s i k.pseq with
          | some m => .next (sendOne s i k (elemsBytes m.rfmt m.elems))
          | none => .fault .notPossible
        else
          match srcHeld s k.src with
          | some t => .next t
          | none =>
          let (t, bs, bad) := srcBytes s k.src
          match bad with
          | some a => .next (sendBad t i k a)
          | none => .next (sendOne t i k bs)

/-- RTO of an end, in ns (R422). -/
def rtoOf (s : State) (e : VEnd) : Nat := max (1000 * rf s .vlyCtl 0 32 16) (2 * vrtt e + 4000)

/-- VALLEY_RTO: no acknowledgement progress for RTO; the eighth resend without progress was the last (R422, R480). -/
def execValleyRto (v : Fin 65536) (s : State) : Out :=
  let i := v.val
  let e := vend s i
  match e.sends.find? fun k => k.sent.isSome with
  | none => .fault .notPossible
  | some k =>
    if e.st ≠ .live ∨ stopped s = true ∨ destPaused s e.pdev.toNat = true then .fault .notPossible
    else
      let s := dueR s (e.progAt.toNat + rtoOf s e)
      if 8 ≤ e.resends then .next (closeEnd s i 5 true)
      else .next (modVend s i fun e => { resendFrom e k.pseq with progAt := nowR s })

/-- CREDIT_TIMER: 2 µs after a freeing the receiver returns CREDIT (R421). -/
def execCreditTimer (v : Fin 65536) (s : State) : Out :=
  let e := vend s v
  match e.freedAt with
  | none => .fault .notPossible
  | some t =>
    if !joined e || decide (effLevel e ≠ 3) || stopped s || creditHeld s v then .fault .notPossible
    else .next (sendCredit (dueR s (t.toNat + 2000)) v)

/-! ## Receiving (R411, R416-R419, R422, R434) -/

/-- `k` units are free again at once: CREDIT returns after 32 (R421). -/
def freeUnits (s : State) (i k : Nat) : State :=
  let e := vend s i
  let e := { e with total := (e.total + k) % 2 ^ 32, freed := e.freed + k, freedAt := e.freedAt.or (some (nowR s)) }
  let s := setVend s i e
  if 32 ≤ e.freed && !creditHeld s i then sendCredit s i else s

/-- A packet consumed as it arrives: its ring space is free again, or DONE names it (R421). -/
def consumedNow (s : State) (i : Nat) (p : VPkt) : State :=
  if effLevel (vend s i) = 3 then freeUnits s i (ringUnits p.data.length)
  else sendToPartner s i 0x04 0 (mkWord [(32, 32, p.pseq.toNat)])

/-- The expected PSEQ moves past a packet. -/
def passPseq (s : State) (i : Nat) : State := modVend s i fun e => { e with nextRx := e.nextRx + 1, gapFor := none }

/-- A packet with the expected PSEQ is taken. -/
def takenPkt (s : State) (i : Nat) : State := countG (passPseq s i) 0x211 0 1

/-- A packet is refused: REFUSE names it, and the expected PSEQ moves past it (R418, R434). -/
def refusePkt (s : State) (i : Nat) (p : VPkt) (cause : Nat) : State :=
  let s := sendToPartner (passPseq s i) i 0x07 0 (mkWord [(32, 32, p.pseq.toNat), (24, 8, cause)])
  if effLevel (vend s i) = 3 then freeUnits s i (ringUnits p.data.length) else s

/-- A packet is written into the receive ring: a 64-byte header, then its data (R411). It is not taken where the ring
has no room for it. -/
def toRing (s : State) (i : Nat) (p : VPkt) : State :=
  let e := vend s i
  let n := ringUnits p.data.length
  if ringSize e < (e.ring.map (·.units)).sum + n then s else
  let size := 2 ^ e.rxlog2
  let hdr := wordsBytes ([BitVec.ofNat 64 p.data.length, BitVec.ofNat 64 p.pseq.toNat] ++ List.replicate 6 0)
  let a := (e.head + 64) % size
  let k := min p.data.length (size - a)
  let s := devWrite s (e.rxbase + e.head) hdr (vinAcc s i)
  let s := devWrite s (e.rxbase + a) (p.data.take k) (vinAcc s i)
  let s := devWrite s e.rxbase (p.data.drop k) (vinAcc s i)
  takenPkt (modVend s i fun e => { e with
    ring := e.ring ++ [{ pseq := p.pseq, off := e.head, size := p.data.length, units := n }],
    head := (e.head + 256 * n) % size }) i

/-- A PUT or a GET keeps the window's rules (R416, R418). -/
def windowOk (e : VEnd) (p : VPkt) : Bool :=
  let n := fld p.win 40 17
  decide (8 ≤ n ∧ n ≤ 65536 ∧ fld p.win 0 40 + max n p.data.length ≤ e.wsize * 4096) &&
  (decide (fld p.win 62 2 ≠ 0) || e.wwr)

/-- GETDATA reaches the end that asked: the data goes to DST of the first descriptor that asked for it (R417). Data that
no descriptor awaits is dropped. -/
def getData (s : State) (i : Nat) (p : VPkt) : State :=
  let e := vend s i
  match e.gets.find? fun g => decide (g.2.2.1 = fld p.win 0 40 ∧ g.2.2.2 = fld p.win 40 17) with
  | none => s
  | some g =>
    let (n, c, _) := g
    let s := setVend s i { e with gets := dropFirst (fun x => decide (x = g)) e.gets }
    let x := chan (raf s n) c
    match x.queue with
    | [] => s
    | d :: _ =>
      if !chanOn s n c (endHandle s i) then s else
      let bs := p.data.take g.2.2.2
      if sdDkind d = 3 then
        tookBytes (modRaf s n fun r => setChan r c { x with stage := x.stage ++ bs }) n c bs.length
      else tookBytes (dstWrite s n c d x.moved bs) n c bs.length

/-- A WINDOW packet (R416, R418): a PUT is applied, a GET answered, GETDATA delivered; one that breaks the window's
rules is refused and the end freezes. -/
def takeWindow (s : State) (i : Nat) (p : VPkt) : State :=
  let e := vend s i
  let wop := fld p.win 62 2
  let a := e.wbase + fld p.win 0 40
  if wop = 2 then consumedNow (getData (takenPkt s i) i p) i p
  else if wop = 3 ∨ windowOk e p = false then freezeEnd (refusePkt s i p 8) i 8
  else if wop = 0 then consumedNow (devWrite (takenPkt s i) a p.data (vinAcc s i)) i p
  else
    let n := fld p.win 40 17
    let (s, bs, bad) := devRead (takenPkt s i) a n (vinAcc s i)
    let (s, bs) := if bad.isSome then (let (s, f) := freeBytes s ((n + 7) / 8); (s, f.take n)) else (s, bs)
    consumedNow (pushSend s i (.bytes bs) 1 false (mkWord [(62, 2, 2), (40, 17, n), (0, 40, fld p.win 0 40)])) i p

/-- A contribution reaches a chained IN end (R419): it goes to the engine and takes no ring space. -/
def takePart (s : State) (i : Nat) (p : VPkt) : State :=
  let s := takenPkt s i
  let s := match endOfHandle s (vend s i).chain with
    | some o => if (vend s o).st = .closed then s else addPart s o p.pseq i p.rfmt p.data
    | none => s
  if (vend s i).st = .live then consumedNow s i p else s

/-- A data packet reaches its end (R416, R418, R422, R434). -/
def takeData (s : State) (p : VPkt) : State :=
  let i := p.vidx.val
  match liveEnd s i p.dgen with
  | none => stalePacket s
  | some e =>
    let s := sawHops s i p.hops
    if !joined e then s else
    let d := (p.pseq - e.nextRx).toNat
    if d ≠ 0 then
      if d < 2 ^ 31 ∧ e.gapFor ≠ some e.nextRx then
        let s := modVend s i fun e => { e with gapFor := some e.nextRx }
        countG (sendToPartner s i 0x05 0 (mkWord [(32, 32, e.nextRx.toNat)])) 0x213 0 1
      else s
    else if e.st = .frozen then refusePkt s i p e.cause
    else if p.vop ≠ e.kind ∨ (e.kind = 2 ∧ e.dir = false) then
      let (s, f) := takeFree s
      freezeEnd (refusePkt s i p (fld f 0 5)) i (fld f 0 5)
    else if e.kind = 1 then takeWindow s i p
    else if e.kind = 2 ∧ e.chain ≠ 0 then takePart s i p
    else toRing s i p

/-- STREAM_PACKET. -/
def execStreamPacket (p : VPkt) (s : State) : Out :=
  if !pktIs 0 none p then .refused .illFormed else if stopped s then .fault .notPossible else .next (takeData s p)

/-- PUT. -/
def execPut (p : VPkt) (s : State) : Out :=
  if !pktIs 1 (some 0) p then .refused .illFormed else if stopped s then .fault .notPossible else .next (takeData s p)

/-- A GET that would be taken now finds its window held: its bay resets, or its controller holds the class (R302, R315, R321). -/
def windowWaits (s : State) (p : VPkt) : Bool :=
  match liveEnd s p.vidx p.dgen with
  | some e => decide (e.st = .live ∧ e.kind = 1 ∧ p.pseq = e.nextRx) && windowOk e p &&
      rangeHeld s (e.wbase + fld p.win 0 40) (fld p.win 40 17) (vinAcc s p.vidx).cls
  | none => false

/-- GET. While its window cannot be read it waits (R302, R315, R321). -/
def execGet (p : VPkt) (s : State) : Out :=
  if !pktIs 1 (some 1) p then .refused .illFormed else if stopped s then .fault .notPossible
  else if windowWaits s p then .next s else .next (takeData s p)

/-- GETDATA. -/
def execGetdata (p : VPkt) (s : State) : Out :=
  if !pktIs 1 (some 2) p then .refused .illFormed else if stopped s then .fault .notPossible else .next (takeData s p)

/-- REDUCE_PACKET. -/
def execReducePacket (p : VPkt) (s : State) : Out :=
  if !pktIs 2 none p then .refused .illFormed else if stopped s then .fault .notPossible else .next (takeData s p)

/-! ## Pauses (R480) -/

/-- The control packets that waited for a paused destination are sent once one of its ports is not paused. -/
def flushCtl (s : State) : State :=
  let held := s.vly.heldCtl
  held.foldl (fun s h =>
    if destPaused s h.dst then { s with vly := { s.vly with heldCtl := s.vly.heldCtl ++ [h] } }
    else (sendPacket s h.dst h.vidx 1 none 8 false h.ws).1) { s with vly := { s.vly with heldCtl := [] } }

end Sys2Proof.Machine
end

