-- ==== Sys2Proof/Machine/Links.lean ====
section
/-! DEFINITION. Urgen ports (R372-R405, R447, R456-R458, R479, R480): training, frames, replay, the port switch, and the
transactions of the host port. -/

namespace Sys2Proof.Machine

/-! ## Training (R389-R392, R395) -/

/-- Fabric ports and the host port act while the device has not stopped; after a fail stop the host port alone does
(R456). -/
def portActs (s : State) (p : Nat) : Bool := s.stop.shut.isNone && (decide (p = 12) || s.stop.failStop.isNone)

/-- A port moves on in training. -/
def toStep (s : State) (p st : Nat) : State := setPort (setPortState s p st) p { port s p with stepAt := nowR s }

/-- The lanes of a level (R372). -/
def lanesOf (lvl : Nat) : Nat := if lvl = 1 then 0x0F else 0xFF

/-- DETECT: the partner's frames are received on all four lanes (R389 step 1). The lanes whose pair is swapped are found and
corrected; which they are is the cabling's (R540, assumption log 91). -/
def execDetect (p : Fin 13) (s : State) : Out :=
  if portState s p ≠ 1 ∨ portActs s p = false then .fault .notPossible
  else
    let (s, d) := takeFree s
    .next (toStep (setPort s p { port s p with polarity := d.setWidth 8 }) p 2)

/-- LEVEL: the level chosen is the lower of the port's and the partner's highest (R389 step 2, R390). -/
def execLevel (p : Fin 13) (gen : Fin 8) (maxlvl : Fin 4) (dev : BitVec 16) (pport : Fin 13) (s : State) : Out :=
  if portState s p ≠ 2 ∨ portActs s p = false then .fault .notPossible
  else
    let l := max 1 (min (rf s .lnkpCtl p 61 2) maxlvl.val)
    let v := mkWord [(60, 4, 3), (58, 2, l), (55, 3, gen.val), (51, 4, pport.val), (32, 16, dev.toNat),
      (16, 16, rf s .lnkpStat p 16 16), (8, 8, rf s .lnkpStat p 8 8), (0, 8, lanesOf l)]
    .next (toStep (rgSet s .lnkpStat p 0 v) p 3)

/-- The partner, its port and the level of a port (R389, R403). -/
def trained (s : State) (p : Nat) : BitVec 16 × Nat × Nat :=
  (BitVec.ofNat 16 (rf s .lnkpStat p 32 16), rf s .lnkpStat p 51 4, portLevel s p)

/-- EQ: every lane's eye margin passes; the settings are the ones saved (R389 step 3). -/
def execEq (p : Fin 13) (s : State) : Out :=
  if portState s p ≠ 3 ∨ portActs s p = false then .fault .notPossible
  else .next (toStep (setPort s p { port s p with saved := some (trained s p) }) p 4)

/-- ALIGN: all lanes locked and deskewed; the counts of R394 restart on entry to QUAL (R389 step 4). -/
def execAlign (p : Fin 13) (s : State) : Out :=
  if portState s p ≠ 4 ∨ portActs s p = false then .fault .notPossible
  else .next (toStep (setPort s p { port s p with counts := [], ues := [], setPos := 0, setBad := false }) p 5)

/-- The time of a qualification window in ns at a level (R389 step 5). -/
def qualTime (s : State) (lvl : Nat) : Nat :=
  let w := rf s .lnkQual 0 48 16
  if lvl = 1 then w * 10 ^ 12 / 53125 else if lvl = 2 then w * 10 ^ 11 / 10625 else w * 10 ^ 10 / 2125

/-- A count of R394: items 0-15 the histogram, 16 uncorrectable, 17 corrected bits, 18 codewords (R405). -/
def laneCount (s : State) (p lane item : Nat) : Nat := tget 0 (port s p).counts (32 * lane + item)

/-- Lane `l` meets the three limits of R395. -/
def laneGood (s : State) (p l : Nat) : Bool :=
  let bin := rf s .lnkQual 0 28 4
  let tail := ((List.range 16).filter fun n => decide (bin ≤ n)).map (laneCount s p l)
  decide (laneCount s p l 17 ≤ rf s .lnkQual 0 32 16 * rf s .lnkQual 0 48 16 ∧ tail.sum ≤ rf s .lnkQual 0 16 12 ∧
    laneCount s p l 16 = 0)

/-- A port enters UP (R379, R390, R391): sequence numbers from 0, FAILS clear, PKTN set at U1 and U2 and clear at U3
(R71). -/
def enterUp (s : State) (p : Nat) : State :=
  let x := port s p
  let s := setPort s p { x with
    pktn := 0, replay := [], resend := [], seq := 0, expect := 0, replayAt := none, reps := 0, nakFor := none, stopped := false,
    await := false, lockLost := 0, rttSum := 0, rttN := 0 }
  let s := rfSet (rfSet (setPortState s p 6) .lnkpStat p 8 8 0) .lnkpStat p 16 16 0
  markWaits (rfSet s .lnkpRxqCtl p 25 1 (if portLevel s p < 3 then 1 else 0))

/-- QUAL: the window is complete; the port enters UP, or HELD where a lane fails (R389 step 5, R391, R395). -/
def execQual (p : Fin 13) (s : State) : Out :=
  if portState s p ≠ 5 ∨ portActs s p = false then .fault .notPossible
  else
    let s := dueR s ((port s p).stepAt.toNat + qualTime s (portLevel s p))
    let lanes := rf s .lnkpStat p 0 8
    if (List.range 8).all fun l => !lanes.testBit l || laneGood s p l then .next (enterUp s p)
    else .next (linkNotice (portDrop s p 8 3) p 3)

/-- The bound of a training step in ns (R389, R392): EQ is shorter where the saved settings match. -/
def stepBound (s : State) (p : Nat) : Nat :=
  if portState s p = 3 then (if (port s p).saved = some (trained s p) then 20000000 else 200000000) else 1000000

/-- TRAINING_TIMEOUT: LEVEL, EQ or ALIGN has not completed within its bound (R389, R391); nor has a RETRAIN (R392). -/
def execTrainingTimeout (p : Fin 13) (s : State) : Out :=
  let st := portState s p
  if ¬ (st = 2 ∨ st = 3 ∨ st = 4 ∨ st = 7) ∨ portActs s p = false then .fault .notPossible
  else
    let s := dueR s ((port s p).stepAt.toNat + stepBound s p)
    .next (if st = 7 then portDrop s p 1 2 else portFail s p)

/-- RETRAIN_DONE: back to UP, each side resending what it holds from its partner's first ACKSEQ; a RETRAIN that fails
takes the port to DETECT (R386, R392). -/
def execRetrainDone (p : Fin 13) (ok : Bool) (s : State) : Out :=
  if portState s p ≠ 7 ∨ portActs s p = false then .fault .notPossible
  else if !ok then .next (portDrop s p 1 2)
  else
    let x := port s p
    .next (setPort (setPortState s p 6) p { x with
      resend := [], await := true, replayAt := none, reps := 0, nakFor := none, lockLost := 0, ues := [], setPos := 0,
      setBad := false })

/-- LINK_LOCK_LOSS: codeword lock is lost on every lane for 10 µs (R392). -/
def execLinkLockLoss (p : Fin 13) (s : State) : Out :=
  let st := portState s p
  let x := port s p
  if ¬ (st = 6 ∨ st = 7) ∨ portActs s p = false then .fault .notPossible
  else
    let all := decide (x.lockLost.toNat = rf s .lnkpStat p 0 8)
    .next (portDrop (if all then dueR s (x.lockAt.toNat + 10000) else s) p 1 2)

/-- CODEWORD_LOCK_LOSS: a lane in use loses codeword lock; a port in UP enters RETRAIN (R392). -/
def execCodewordLockLoss (p : Fin 13) (lane : Fin 8) (s : State) : Out :=
  let st := portState s p
  let x := port s p
  let lanes := rf s .lnkpStat p 0 8
  if ¬ (st = 6 ∨ st = 7) ∨ lanes.testBit lane.val = false ∨ portActs s p = false then .fault .notPossible
  else
    let lost := x.lockLost ||| BitVec.ofNat 8 (2 ^ lane.val)
    let s := setPort s p { x with
      lockLost := lost, lockAt := if lost.toNat = lanes ∧ x.lockLost ≠ lost then nowR s else x.lockAt }
    .next (if st = 6 then portRetrain s p 1 else s)

/-! ## Control flits (R380, R381, R385, R393, R458, R480) -/

/-- The receiver asks for the flit it expects, once for each value (R380). -/
def sendNak (s : State) (p : Nat) (busy : Bool) : State :=
  let x := port s p
  if (x.nakFor.map Prod.fst) = some x.expect then s else
  let s := putCtrl s p 0x01 (65536 * b2n busy + x.expect.toNat)
  setPort s p { port s p with nakFor := some (x.expect, busy), nakAt := nowR s }

/-- NAK_REPEAT: every 500 ns until the flit is accepted (R380). -/
def execNakRepeat (p : Fin 13) (s : State) : Out :=
  let x := port s p
  match x.nakFor with
  | none => .fault .notPossible
  | some (e, busy) =>
    if portUp s p = false ∨ portActs s p = false ∨ e ≠ x.expect then .fault .notPossible
    else
      let s := putCtrl (dueR s (x.nakAt.toNat + 500)) p 0x01 (65536 * b2n busy + e.toNat)
      .next (setPort s p { port s p with nakAt := nowR s })

/-- A NAK reaches the transmitter (R381, R384): the buffered flits from `e` onward are resent; a NAK that names a SEQ
outside the buffer starts RETRAIN, and so does the sixteenth replay of one SEQ in a row. -/
def takeNak (s : State) (p : Nat) (busy : Bool) (e : BitVec 16) : State :=
  let x := port s p
  let again := match x.replayAt with
    | some (q, t) => decide (q = e) && !x.resend.isEmpty && !elapsedR s t 500
    | none => false
  if !(x.replay.any fun f => f.seq = e) then portRetrain s p 1
  else if again then s
  else
    let same := match x.replayAt with | some (q, _) => decide (q = e) | none => false
    let reps := if busy then (if same then x.reps else 0) else if same then x.reps + 1 else 1
    let s := setPort s p { x with
      resend := x.replay.dropWhile fun f => decide (f.seq ≠ e), replayAt := some (e, nowR s), reps := reps }
    let s := countG (rfSat s .lnkpErr p 32 16 1) 0x202 p 1
    if 16 ≤ reps then portRetrain (setPort s p { port s p with reps := 0 }) p 6 else s

/-- NAK. -/
def execNak (p : Fin 13) (busy : Bool) (sq : BitVec 16) (s : State) : Out :=
  if portUp s p = false ∨ portActs s p = false then .fault .notPossible else .next (takeNak s p busy sq)

/-- A NOT_READY with a non-zero hint pauses the port (R480). -/
def takeNotReady (s : State) (p us : Nat) : State :=
  if us = 0 then s
  else markWaits (setPort s p { port s p with pause := some (nowR s + BitVec.ofNat 64 (1000 * us)) })

/-- NOT_READY. -/
def execNotReady (p : Fin 13) (us : BitVec 32) (s : State) : Out :=
  if portUp s p = false ∨ stopped s = true then .fault .notPossible else .next (takeNotReady s p us.toNat)

/-- PORT_PAUSE_END: the pause is over, and what waited for it is sent (R480). -/
def execPortPauseEnd (p : Fin 13) (s : State) : Out :=
  match (port s p).pause with
  | none => .fault .notPossible
  | some t =>
    if stopped s then .fault .notPossible
    else
      let s := dueR s t.toNat
      .next (flushCtl (markWaits (setPort s p { port s p with pause := none })))

/-- A departure record (R457, R458): once for each departed device, its ports leave routing, its ends close, a notice is
written. -/
def takeDepart (s : State) (p : Nat) (w1 : Word) : State :=
  let id := fld w1 48 16
  if s.vly.departed.contains id then s else
  let s := { s with vly := { s.vly with departed := s.vly.departed ++ [id] } }
  let s := ((openEnds s).filter fun e => decide (e.2.pdev.toNat = id)).foldl (fun s e => closeEnd s e.1 6 false) s
  raiseR s 0x0053 (srcOf 5 p) (mkWord [(32, 16, id), (0, 8, fld w1 40 8)])

/-- DEPART. -/
def execDepart (p : Fin 13) (w1 _w2 _w3 : Word) (s : State) : Out :=
  if portUp s p = false ∨ stopped s = true then .fault .notPossible else .next (takeDepart s p w1)

/-- DEPART_REPEAT: a further copy 1 µs after the last (R456); after the fourth the fabric ports are idle (R456 step 4). -/
def execDepartRepeat (s : State) : Out :=
  if s.stop.failStop.isNone ∨ 4 ≤ s.stop.departs ∨ s.stop.shut.isSome then .fault .notPossible
  else
    let s := sendDepart (dueR s (s.stop.sentAt.toNat + 1000))
    let s := { s with stop := { s.stop with departs := s.stop.departs + 1, sentAt := nowR s } }
    .next (if s.stop.departs = 4 then (List.range 12).foldl (fun s p => portDrop s p 0 2) s else s)

/-- 10 µs have passed since the time noted for a lane, or none is noted (R393). -/
def tapReady (s : State) (t : Tbl Word) (lane : Nat) : Bool :=
  let t0 := tget 0 t lane
  decide (t0 = 0) || elapsedR s t0 10000

/-- A TXEQ flit moves one tap of one lane by a step, one at most every 10 µs on a lane (R385, R393); it is not used at
U1 (R396). -/
def takeTxeq (s : State) (p : Nat) (arg : Nat) : State :=
  let x := port s p
  let lane := arg / 256 % 8
  let k := 16 * lane + arg / 16 % 16
  let d : Int := if arg % 4 = 1 then 1 else if arg % 4 = 2 then -1 else 0
  if portLevel s p = 1 ∨ d = 0 ∨ tapReady s x.eqAt lane = false then s
  else setPort s p { x with taps := tput 0 x.taps k (tget 0 x.taps k + d), eqAt := tput 0 x.eqAt lane (nowR s) }

/-- TXEQ. -/
def execTxeq (p : Fin 13) (arg : BitVec 32) (s : State) : Out :=
  if portUp s p = false ∨ portActs s p = false then .fault .notPossible else .next (takeTxeq s p arg.toNat)

/-- A CTRL flit is acted on (R385); another CTYPE has no action. -/
def takeCtrl (s : State) (p : Nat) (ws : List Word) : State :=
  let h := nth ws 0 0
  let arg := fld h 0 32
  let t := fld h 56 8
  if t = 1 then takeNak s p (bitOf h 16) (BitVec.ofNat 16 arg)
  else if t = 4 then takeTxeq s p arg
  else if stopped s then s
  else if t = 2 then takeNotReady s p arg
  else if t = 3 then takeDepart s p (nth ws 1 0) else s

/-! ## The host port (R398-R400) -/

/-- An RRD is served: the value returns in an RCPL (R399, R400). -/
def serveRrd (s : State) (tag : BitVec 12) (addr : BitVec 40) : State :=
  let (s, v) := regRead8 s .host addr.toNat
  hostSend { s with rdata := v } (.rcpl tag addr v)

/-- RRD: served in arrival order, after a fail stop too (R400, R456). -/
def execRrd (tag : BitVec 12) (addr : BitVec 40) (s : State) : Out :=
  if portUp s 12 = false ∨ portActs s 12 = false then .fault .notPossible else .next (serveRrd s tag addr)

/-- RWR (R399, R400). -/
def execRwr (addr : BitVec 40) (v : Word) (s : State) : Out :=
  if portUp s 12 = false ∨ stopped s = true then .fault .notPossible else .next (writeBy s .host addr.toNat 8 v)

/-- The entry that 64 bytes of host memory spell (R106). -/
def entryOf (bs : List Byte) : Entry :=
  let w := fun k => nth (bytesWords bs 8) k 0
  { w0 := w 0, w1 := w 1, w2 := w 2, w3 := w 3, w4 := w 4, w5 := w 5, w6 := w 6, w7 := w 7 }

/-- The bytes of the host image: its header of 64 bytes says how many there are (R470, R491, R492). -/
def imageLen (x : HFetch) : Nat :=
  let bs := fetchBytes x
  if x.len = 64 ∧ bs.length = 64 then max 64 (min 0x3F00000 (bytesNat ((bs.drop 0xC).take 4))) else x.len

/-- The fetches under way go on, as far as fewer than 4,096 MRDs are outstanding (R400). -/
def pumpAll (s : State) : State := (s.host.fetches.map Prod.fst).foldl (fun s k => pumpFetch s k 4096) s

/-- An MRD has all its data: a command is read, and CHEAD moves past it (R105, R399); a piece of a fetch joins the others; the
fetches go on (R400). -/
def mrdDone (s : State) (m : Mrd) (bs : List Byte) : State :=
  match m.use with
  | .cmd r =>
    let head := (rf s .sesrChead r 0 16 + 1) % 2 ^ rf s .sesrRctl r 58 5
    pumpAll (rfSet { s with host := { s.host with arrived := s.host.arrived ++ [(r, entryOf bs)] } } .sesrChead r 0 16 head)
  | .data k off =>
    match fetchFor s k with
    | none => pumpAll s
    | some x =>
      let x := { x with parts := x.parts ++ [(off, bs)] }
      pumpAll (setFetch s k (some (if k = 16 then { x with len := imageLen x } else x)))

/-- Data of an MRD arrives (R399, R400); none where no MRD of the tag is outstanding. -/
def takeMcpl (s : State) (tag : BitVec 12) (bytes : List Byte) : Option State :=
  (s.host.mrds.find? fun m => decide (m.tag = tag) && m.dead.isNone).map fun m =>
    let got := m.got ++ bytes
    if m.len ≤ got.length then
      mrdDone { s with host := { s.host with mrds := s.host.mrds.filter (· ≠ m) } } m (got.take m.len)
    else { s with host := { s.host with mrds := mapIf (fun x => decide (x = m)) (fun x => { x with got := got }) s.host.mrds } }

/-- MCPL: `last` says whether the packet ends the MRD. -/
def execMcpl (tag : BitVec 12) (bytes : List Byte) (last : Bool) (s : State) : Out :=
  if 4096 < bytes.length then .refused .illFormed
  else if portUp s 12 = false ∨ stopped s = true then .fault .notPossible
  else
    match s.host.mrds.find? fun m => decide (m.tag = tag) && m.dead.isNone with
    | none => .fault .notPossible
    | some m =>
      if last ≠ decide (m.len ≤ m.got.length + bytes.length) then .fault .notPossible
      else
        match takeMcpl s tag bytes with
        | some t => .next t
        | none => .fault .notPossible

/-- MRD_TIMEOUT: an MRD not completed within 1 ms is abandoned, with a notice (R400, R519). -/
def execMrdTimeout (tag : BitVec 12) (s : State) : Out :=
  match s.host.mrds.find? fun m => decide (m.tag = tag) && m.dead.isNone with
  | none => .fault .notPossible
  | some m =>
    if stopped s then .fault .notPossible
    else
      let s := dueR s (m.at_.toNat + 1000000)
      let s := { s with host := { s.host with
        mrds := mapIf (fun x => decide (x = m)) (fun x => { x with dead := some (nowR s), got := [] }) s.host.mrds } }
      .next (raiseR s 0x0051 (srcOf 5 12) m.addr)

/-- MRD_RETRY: the issuing unit retries an abandoned MRD after a further 1 ms (R400). -/
def execMrdRetry (tag : BitVec 12) (s : State) : Out :=
  match s.host.mrds.find? fun m => decide (m.tag = tag) && m.dead.isSome with
  | none => .fault .notPossible
  | some m =>
    if stopped s then .fault .notPossible
    else
      let s := dueR s ((m.dead.getD 0).toNat + 1000000)
      .next (issueMrd { s with host := { s.host with mrds := s.host.mrds.filter (· ≠ m) } } m.addr.toNat m.len m.use)

/-- A transaction header (R399). -/
def txnHdr (hop : Nat) (tag : BitVec 12) (len : Nat) : Word := mkWord [(60, 4, hop), (48, 12, tag.toNat), (32, 16, len)]

/-- A write of host memory as transactions of at most 4,096 bytes; `n` bounds their number. -/
def mwrWords (addr : Word) (bs : List Byte) : Nat → List (List Word)
  | 0 => []
  | n + 1 =>
    let here := bs.take 4096
    let rest := bs.drop 4096
    ([txnHdr 1 0 here.length, addr] ++ bytesWords here ((here.length + 7) / 8)) ::
      (if rest.isEmpty then [] else mwrWords (addr + 4096) rest n)

/-- The words of a transaction, packet by packet (R399). -/
def txnWords : HostTxn → List (List Word)
  | .mwr addr bs => mwrWords addr bs (bs.length / 4096 + 1)
  | .mrd tag addr len => [[txnHdr 0 tag len, addr]]
  | .rcpl tag addr v => [[txnHdr 5 tag 8, addr.setWidth 64, v]]

/-- The flits of a transaction: from this device to itself, FT HOST, HOPS 0 (R398). -/
def txnFlits (s : State) (t : HostTxn) : List (List Word) :=
  (txnWords t).flatMap fun ws => flitsOf (devId s) (devId s) 0 2 true ws (ws.length / 30 + 1)

/-- Flits dropped at a port under R387, R398 or R399. -/
def hostDrop (s : State) (p : Nat) : State := rfSat s .lnkpErr p 0 8 1

/-- A transaction from the host has arrived whole (R399): after a stop RRD alone is served (R456). -/
def hostPacket (s : State) (ws : List Word) : State :=
  let h := nth ws 0 0
  let tag := BitVec.ofNat 12 (fld h 48 12)
  let addr := BitVec.ofNat 40 (fld (nth ws 1 0) 0 40)
  if fld h 60 4 = 3 then serveRrd s tag addr
  else if stopped s then s
  else if fld h 60 4 = 4 then writeBy s .host addr.toNat 8 (nth ws 2 0)
  else (takeMcpl s tag ((wordsBytes (ws.drop 2)).take (fld h 32 16))).getD s

/-! ## The port switch (R387, R397, R428) -/

/-- The payload words of a flit. -/
def payload (ws : List Word) : List Word := (ws.drop 1).take (fld (nth ws 0 0) 7 5)

/-- Two flits belong to one packet: destination, source, index and FT are the same. -/
def sameFlow (a b : Word) : Bool := decide (fld a 16 48 = fld b 16 48 ∧ fld a 14 2 = fld b 14 2)

/-- The packet under way on a port that a flit continues. -/
def asmOf (s : State) (p : Nat) (h : Word) : Option Asm := (port s p).asm.find? fun a => sameFlow a.hdr h

/-- The state with a port's packet replaced, or removed. -/
def putAsm (s : State) (p : Nat) (h : Word) (a : Option Asm) : State :=
  let x := port s p
  setPort s p { x with asm := a.toList ++ x.asm.filter fun b => !sameFlow b.hdr h }

/-- Gathers the words of a packet that ends at this device: with EOP they are whole. A flit without its SOP is
dropped. -/
def gather (s : State) (p : Nat) (ws : List Word) : State × Option (List Word) :=
  let h := nth ws 0 0
  match (if bitOf h 13 then some { hdr := h } else asmOf s p h) with
  | none => (s, none)
  | some a =>
    let got := a.words ++ payload ws
    if bitOf h 12 then (putAsm s p h none, some got) else (putAsm s p h (some { a with words := got }), none)

/-- A control packet for this device (R420). -/
def ownCtl (s : State) (h : Word) (ws : List Word) : State :=
  let w1 := nth ws 0 0
  let c : VCtl := {
    vidx := Fin.ofNat 65536 (fld h 16 16), srcdev := BitVec.ofNat 16 (fld h 32 16),
    dgen := BitVec.ofNat 16 (fld w1 40 16), minlvl := BitVec.ofNat 2 (fld w1 38 2), w2 := nth ws 1 0, w3 := nth ws 2 0,
    hops := fld h 0 7 }
  match fld w1 56 8 with
  | 1 => takeConnect s c
  | 2 => takeConnack s c
  | 3 => takeCredit s c
  | 4 => takeDone s c
  | 5 => takeGap s c
  | 6 => takeClose s c
  | 7 => takeRefuse s c
  | _ => s

/-- A data packet for this device (R416). -/
def ownData (s : State) (p : Nat) (h : Word) (ws : List Word) : State :=
  let w := nth ws 0 0
  let win := decide (fld w 46 2 = 1)
  takeData s {
    vidx := Fin.ofNat 65536 (fld h 16 16), srcdev := BitVec.ofNat 16 (fld h 32 16),
    dgen := BitVec.ofNat 16 (fld w 48 16), vop := BitVec.ofNat 2 (fld w 46 2), rfmt := bitOf w 45,
    pseq := BitVec.ofNat 32 (fld w 0 32), win := if win then nth ws 1 0 else 0,
    data := wordsBytes (ws.drop (if win then 2 else 1)), hops := fld h 0 7, port := Fin.ofNat 13 p }

/-- A flit for the valley engine (R387). -/
def ownFlit (s : State) (p : Nat) (ws : List Word) : State :=
  let h := nth ws 0 0
  match gather s p ws with
  | (s, none) => s
  | (s, some got) => if fld h 14 2 = 1 then ownCtl s h got else ownData s p h got

/-- A flit of the host port (R398, R399). -/
def hostFlit (s : State) (ws : List Word) : State :=
  let h := nth ws 0 0
  let hop := fld (nth ws 1 0) 60 4
  if bitOf h 13 && !decide (hop = 2 ∨ hop = 3 ∨ hop = 4) then hostDrop (putAsm s 12 h none) 12
  else
    match gather s 12 ws with
    | (s, none) => s
    | (s, some got) => hostPacket s got

/-- A word of a flit replaced: its parity bit follows the bits that change. -/
def reword (x : QWord) (w : Word) : QWord := { x with w := w, parity := xor x.parity (xor (xorBits x.w) (xorBits w)) }

/-- The flit as it is forwarded: HOPS one more, and MINLVL of a CONNECT or CONNACK lowered to the level of the port it
leaves on (R387, R423). -/
def passOn (f : List QWord) (lvl : Nat) : List QWord :=
  let h := nth (plain f) 0 0
  let w1 := nth (plain f) 1 0
  let join := decide (fld h 14 2 = 1 ∧ (fld w1 56 8 = 1 ∨ fld w1 56 8 = 2))
  (f.take 1).map (fun x => reword x (setFld h 0 7 (fld h 0 7 + 1))) ++
    ((f.drop 1).take 1).map (fun x => if join then reword x (setFld w1 38 2 (min (fld w1 38 2) lvl)) else x) ++ f.drop 2

/-- Forwards flits on port `q` (R387). -/
def forward (s : State) (q : Nat) (fs : List (List QWord)) : State :=
  countG (enqueue s q (fs.map fun f => passOn f (portLevel s q))) 0x204 q fs.length

/-- A packet held whole is forwarded, unless the subset forbids it on its port (R397). -/
def forwardWhole (s : State) (q : Nat) (fs : List (List QWord)) : State :=
  let first := plain (fs.headD [])
  let h := nth first 0 0
  let w := nth first 1 0
  let size := (fs.map fun f => 8 * fld (nth (plain f) 0 0) 7 5).sum - 8 - (if fld w 46 2 = 1 then 8 else 0)
  let kind := if fld h 14 2 = 0 then some (fld w 46 2) else none
  if subsetBad (portLevel s q) (fld h 48 16) (fld h 32 16) kind size (bitOf w 45) then subDrop s q else forward s q fs

/-- The output hold of a port has no room: it holds the 32 flits of its transmit queue (R74). -/
def holdFull (s : State) (q : Nat) : Bool := decide (32 ≤ (port s q).txq.length)

/-- A flit dropped at HOPLIM (R387): counted, with at most one notice per port and lap. -/
def hopDrop (s : State) (p : Nat) : State :=
  let s := rfSat s .lnkpErr p 16 8 1
  if (port s p).hopSaid then s else linkNotice (setPort s p { port s p with hopSaid := true }) p 4

/-- One flit of a packet whose port is known: held, sent on, or dropped. None where it must wait for room. -/
def forwardOn (s : State) (p : Nat) (a : Asm) (f : List QWord) : Option State :=
  let h := nth (plain f) 0 0
  let eop := bitOf h 12
  match a.out.filter fun q => decide (portState s q = 6 ∨ portState s q = 7) with
  | none => some (noRoute (putAsm s p h (if eop then none else some { a with out := none })) 1)
  | some q =>
    if a.keep then
      let fs := a.flits ++ [f]
      if !eop then some (putAsm s p h (some { a with flits := fs }))
      else if holdFull s q then none else some (forwardWhole (putAsm s p h none) q fs)
    else if holdFull s q then none
    else some (forward (putAsm s p h (if eop then none else some a)) q [f])

/-- A flit to be forwarded (R387, R428): its SOP is routed, the others follow it. With CUT = 0, and on a port where R397
must see its size, a packet is held until its EOP flit. -/
def forwardFlit (s : State) (p : Nat) (f : List QWord) : Option State :=
  let h := nth (plain f) 0 0
  if rf s .lnkCtl 0 57 7 < fld h 0 7 + 1 then some (hopDrop s p)
  else if bitOf h 13 then
    let (s, q) := route s (fld h 32 16) (fld h 48 16) (fld h 16 16) (some p)
    let low := match q with | some q => decide (portLevel s q < 3) | none => false
    forwardOn s p { hdr := h, out := q, keep := low || decide (rf s .lnkpRxqCtl p 32 16 = 0) } f
  else
    match asmOf s p h with
    | none => some s
    | some a => forwardOn s p a f

/-- The last flit of a GET whose window cannot be read now (R302, R315, R321): it waits where it is. -/
def getHeld (s : State) (p : Nat) (ws : List Word) : Bool :=
  let h := nth ws 0 0
  match (gather s p ws).2 with
  | none => false
  | some got =>
    let i := fld h 16 16
    let win := nth got 1 0
    decide (fld h 14 2 ≠ 1 ∧ fld (nth got 0 0) 46 2 = 1 ∧ fld win 62 2 = 1) &&
      rangeHeld s ((vend s i).wbase + fld win 0 40) (fld win 40 17) (vinAcc s i).cls

/-- A flit leaves the landing buffer (R387, R398); none where it must wait. What ends at this device is checked, and repaired
where a queue has corrupted it (R72). -/
def switchFlit (s : State) (p : Nat) (f : List QWord) : Option State :=
  let ws := plain f
  let h := nth ws 0 0
  let ft := fld h 14 2
  let (t, g) := heldCopies s f
  if p = 12 then some (if ft = 2 then hostFlit t (plain g) else hostDrop s p)
  else if ft = 2 then some (hostDrop s p)
  else if ft = 3 then some s
  else if fld h 48 16 = devId s then (if getHeld t p (plain g) then none else some (ownFlit t p (plain g)))
  else forwardFlit s p f

/-- Words written into LNKp_RXQ: one signal to the valley engine for each end mark while PKTN is set (R71). -/
def signalEnds (s : State) (p : Nat) (ws : List QWord) : State :=
  if rbit s .lnkpRxqCtl p 25 then setPort s p { port s p with pktn := (port s p).pktn + (ws.filter (·.endm)).length } else s

/-- The valley engine takes the notice of a packet whose last flit has come through the switch (R71). -/
def takeSignal (s : State) (p : Nat) (f : List QWord) : State :=
  setPort s p { port s p with pktn := (port s p).pktn - (f.filter (·.endm)).length }

/-- The switch drains LNKp_RXQ into the landing buffer, 32 words at a time, where R64 and R70 let it start or go on with a
packet. `n` bounds the flits. -/
def rxDrain (s : State) (p : Nat) : Nat → State
  | 0 => s
  | n + 1 =>
    let q := queue s p
    let x := port s p
    if q.words.length < 32 ∨ 512 ≤ x.landing.length ∨ (q.mid = false ∧ qStarts s p = false) then s
    else rxDrain (setQueue (setPort s p { x with landing := x.landing ++ [q.words.take 32] }) p (qTake q (nowR s) 32)) p n

/-- Empties a landing buffer, and the receive queue before it, as far as the flits can go; `n` bounds the number. -/
def drainPort (s : State) (p : Nat) : Nat → State
  | 0 => s
  | n + 1 =>
    let s := rxDrain s p 32
    match (port s p).landing with
    | [] => s
    | f :: rest =>
      match switchFlit (setPort s p { port s p with landing := rest }) p f with
      | none => s
      | some t => drainPort (takeSignal t p f) p n

/-- The flits that wait on a port, in its receive queue and its landing buffer. -/
def waiting (s : State) (p : Nat) : Nat := (port s p).landing.length + (queue s p).words.length / 32

/-- Every landing buffer is emptied as far as its flits can go. -/
def drainLandings (s : State) : State := (List.range 12).foldl (fun s p => drainPort s p (waiting s p)) s

/-! ## Receiving frames (R379-R383, R394, R479) -/

/-- The codewords that came with a frame are counted by lane (R394). -/
def countLanes (s : State) (p : Nat) (ls : List (Nat × Nat × Nat)) : State :=
  ls.foldl (fun s l =>
    let (lane, bits, syms) := l
    let x := port s p
    let add := fun (t : Tbl Nat) (item k : Nat) => tput 0 t (32 * lane + item) (tget 0 t (32 * lane + item) + k)
    let c := add (add (add x.counts (min syms 16) 1) 17 bits) 18 1
    let ues := if 16 ≤ syms then tput [] x.ues lane ((nowR s :: tget [] x.ues lane).take 16) else x.ues
    countG (setPort s p { x with counts := c, ues := ues }) 0x205 p bits) s

/-- A lane has counted 16 uncorrectable codewords within 1 ms (R392). -/
def lanesBad (s : State) (p : Nat) : Bool :=
  (port s p).ues.any fun e => decide (e.2.length = 16) && match e.2.getLast? with
    | some t => !elapsedR s t 1000000
    | none => false

/-- An ACKSEQ frees the flits before it; each gives a round trip, averaged over 256 (R379, R382). -/
def takeAck (s : State) (p : Nat) (a : BitVec 16) : State :=
  let x := port s p
  match x.replay with
  | [] => s
  | f :: _ =>
    let k := (a - f.seq).toNat
    if k = 0 ∨ x.replay.length < k then s else
    let gone := x.replay.take k
    let s := setPort s p { x with
      replay := x.replay.drop k, resend := x.resend.filter fun r => !(gone.any fun g => g.seq = r.seq) }
    gone.foldl (fun s g =>
      let x := port s p
      let sum := x.rttSum + ((nowR s).toNat - g.at_.toNat)
      if x.rttN + 1 < 256 then setPort s p { x with rttSum := sum, rttN := x.rttN + 1 }
      else rfSet (setPort s p { x with rttSum := 0, rttN := 0 }) .lnkpStat p 16 16 (min 65535 (sum / 256))) s

/-- A DATA flit that arrives before SERVICE is dropped and answered with NOT_READY, at most once per 10 µs (R479). -/
def notReadyYet (s : State) (p : Nat) : State :=
  let x := port s p
  let said := match x.nrAt with | some t => !elapsedR s t 10000 | none => false
  if said then s else
  let s := putCtrl s p 0x02 (1000 * rf s .bootCtl 0 32 16)
  countG (setPort s p { port s p with nrAt := some (nowR s) }) 0x215 p 1

/-- The flit expected is accepted (R374, R378, R380, R383): with word 31 zero and the parity of each word generated, it goes
through LNKp_RXQ to the landing buffer, from which the switch takes it. -/
def acceptFlit (s : State) (p : Nat) (ws : List Word) : State :=
  let x := port s p
  let s := countG (setPort s p { x with expect := x.expect + 1, nakFor := none }) 0x201 p 1
  let ft := fld (nth ws 0 0) 14 2
  if p < 12 ∧ ft < 2 ∧ inService s = false then notReadyYet s p
  else
    let s := signalEnds (setQueue s p (qPut (queue s p) (nowR s) (flitQ ws))) p (flitQ ws)
    drainPort s p (waiting s p)

/-- The partner's first ACKSEQ after a RETRAIN: what it does not acknowledge is resent (R386). -/
def resumeReplay (s : State) (p : Nat) : State :=
  let x := port s p
  if x.await then setPort s p { x with await := false, resend := x.replay } else s

/-- A frame whose CRC passes (R375, R379, R380). -/
def goodFrame (s : State) (p : Nat) (f : Frame) : State :=
  let l := nth f.words 31 0
  let s := resumeReplay (takeAck s p (BitVec.ofNat 16 (fld l 0 16))) p
  let s := setPort s p { port s p with stopped := f.tag.getLsbD 5 }
  let next := decide (fld l 16 16 = (port s p).expect.toNat)
  let kind := f.tag.toNat / 64
  if !next then sendNak s p false
  else if kind = 2 then takeCtrl s p f.words
  else if kind = 0 then s
  else if 512 ≤ (port s p).landing.length then sendNak (countG s 0x203 p 1) p true
  else acceptFlit s p f.words

/-- The lanes of a port in use (R403). -/
def lanesUsed (s : State) (p : Nat) : List Nat := idxs 8 fun l => (rf s .lnkpStat p 0 8).testBit l

/-- The frames of a codeword set (R373). -/
def setFrames (s : State) (p : Nat) : Nat := if portLevel s p = 1 then 10 else 20

/-- A codeword set is one codeword for each lane in use, which comes with the first frame of the set (R373). -/
def frameFits (s : State) (p : Nat) (f : Frame) : Bool :=
  decide (f.lanes.map Prod.fst = if (port s p).setPos = 0 then lanesUsed s p else [])

/-- The place of a frame in its codeword set. The symbols of a set are dealt to the lanes in turn, and a frame is 206 of
them, so that it lies in a codeword of every lane: one that is uncorrectable mars each frame of the set (R373, R380). -/
def inSet (s : State) (p : Nat) (f : Frame) : State :=
  let x := port s p
  setPort s p { x with
    setPos := (x.setPos + 1) % setFrames s p,
    setBad := if x.setPos = 0 then f.lanes.any fun l => decide (16 ≤ l.2.2) else x.setBad }

/-- FRAME_RECEIVED: the FEC hands a frame over (R379-R383, R394). A port in QUAL or RETRAIN only counts. -/
def execFrameReceived (p : Fin 13) (f : Frame) (s : State) : Out :=
  if f.words.length ≠ 32 then .refused .illFormed else
  let st := portState s p
  if ¬ (st = 5 ∨ st = 6 ∨ st = 7) ∨ portActs s p = false ∨ frameFits s p f = false then .fault .notPossible
  else
    let s := inSet (countLanes s p f.lanes) p f
    if st ≠ 6 then .next s
    else
      let l := nth f.words 31 0
      let good := !(port s p).setBad && decide (f.tag.toNat / 64 ≠ 3 ∧ fld l 32 32 = frameCrc f.words f.tag)
      let s := if good then goodFrame s p f
        else sendNak (countG (rfSat s .lnkpErr p 48 16 1) 0x203 p 1) p false
      .next (if portUp s p && lanesBad s p then portRetrain s p 1 else s)

/-! ## Sending (R374, R378-R383) -/

/-- A new DATA flit is sent and kept (R379). -/
def sendNew (s : State) (p : Nat) (ws : List Word) : State :=
  let x := port s p
  let s := putFrame s p 1 ws x.seq
  countG (setPort s p { port s p with
    seq := x.seq + 1, replay := x.replay ++ [{ seq := x.seq, at_ := nowR s, ws := ws }] }) 0x200 p 1

/-- The host port's next transaction goes to its output hold. -/
def fillHost (s : State) (p : Nat) : State :=
  match s.host.tx with
  | t :: rest =>
    if p = 12 ∧ (port s 12).txq.isEmpty then
      fillTx (setPort { s with host := { s.host with tx := rest } } 12 { port s 12 with txq := (txnFlits s t).map flitQ }) 12
    else s
  | [] => s

/-- The flit at the head of LNKp_TXQ, where its packet may be started or goes on (R63, R64, R70); a paused port starts none
(R480). -/
def txHead (s : State) (p : Nat) : Option (List QWord) :=
  let q := queue s (13 + p)
  let f := q.words.take 32
  let sop := bitOf (nth (plain f) 0 0) 13
  if q.words.length < 32 ∨ (q.mid = false ∧ qStarts s (13 + p) = false) ∨ (sop ∧ (port s p).pause.isSome) then none
  else some f

/-- A flit fails the check of R378: it is not sent, and the port switch resends it from its output hold; sixteen failures
in a row are a failed hop. -/
def txRefusal (s : State) (p : Nat) : State :=
  let x := port s p
  let q := queue s (13 + p)
  let s := setPort s p { x with txFails := x.txFails + 1 }
  let s := setQueue s (13 + p) { q with words := x.txq.headD (q.words.take 32) ++ q.words.drop 32 }
  if 16 ≤ x.txFails + 1 then failStop s 0x06 else s

/-- The link layer takes the flit at the head of LNKp_TXQ, checking the parity of words 0-30 (R378). -/
def sendHead (s : State) (p : Nat) (f : List QWord) : State :=
  if (f.take 31).all fun w => decide (w.parity = xorBits w.w) then
    let s := setQueue s (13 + p) (qTake (queue s (13 + p)) (nowR s) 32)
    let s := setPort s p { port s p with txFails := 0, txq := (port s p).txq.drop 1 }
    drainLandings (fillTx (sendNew s p (plain f)) p)
  else txRefusal s p

/-- What a port sends where it sends no DATA flit: an IDLE frame, its header zero (R374). Above U1 its receivers may ask
for a step of one transmitter tap of a lane instead, at most every 10 µs; which one is their own choice (R393, R396,
assumption log 50). -/
def sendIdle (s : State) (p : Nat) : State :=
  let (t, d) := takeFree s
  let lane := fld d 0 3
  if portLevel s p ≠ 1 ∧ bitOf d 63 ∧ (lanesUsed s p).contains lane ∧ tapReady s (port s p).eqSent lane then
    let t := putCtrl t p 0x04 (256 * lane + 16 * fld d 4 4 + (if bitOf d 3 then 1 else 2))
    setPort t p { port t p with eqSent := tput 0 (port t p).eqSent lane (nowR t) }
  else putFrame t p 0 [] (port s p).seq

/-- FLIT_TRANSMIT: a flit that a replay has still to resend, else a new one (R379, R381, R383, R386, R480); else no DATA
flit. -/
def execFlitTransmit (p : Fin 13) (s : State) : Out :=
  let x := port s p
  if portUp s p = false ∨ portActs s p = false then .fault .notPossible
  else if x.stopped ∨ x.await then .next (sendIdle s p)
  else
    match x.resend with
    | f :: rest =>
      let s := putFrame (setPort s p { x with resend := rest }) p 1 f.ws f.seq
      .next (countG s 0x200 p 1)
    | [] =>
      let s := fillHost s p
      match txHead s p with
      | none => .next (sendIdle s p)
      | some f => .next (if 256 ≤ x.replay.length then sendIdle s p else sendHead s p f)

end Sys2Proof.Machine
end

