-- ==== Sys2Proof/Machine/Boot.lean ====
section
/-! DEFINITION. Power-on, reset, and the steps FEED, RIDGE and IMAGE of bring-up (R460-R472, R488-R497, R502-R505, R538,
R543, R544). -/

namespace Sys2Proof.Machine

/-! ## Power-on, release and reset -/

/-- The rollback counter: the blown bits from bit 0 upward (R505). -/
def rollCount (s : State) : Nat := ((List.range 64).takeWhile (bitOf (s.fuses.rollA ||| s.fuses.rollB))).length

/-- A fuse being blown is abandoned (R502, R505, R544): an owner slot being provisioned is void, and whether a single
fuse in progress has blown is open. -/
def abandonFuses (s : State) : State :=
  let (s, d) := takeFree s
  let s := match s.sec.busy with
    | some (op, sl, _) =>
      let m := BitVec.ofNat 4 (2 ^ sl)
      if op = 1 then { s with fuses := { s.fuses with partly := s.fuses.partly ||| m } }
      else if bitOf d 0 then { s with fuses := { s.fuses with revoked := s.fuses.revoked ||| m } } else s
    | none => s
  let k := rollCount s
  if s.sec.roll ≤ k then s
  else { s with fuses := { s.fuses with
      rollA := setBit s.fuses.rollA k (bitOf s.fuses.rollA k || bitOf d 1),
      rollB := setBit s.fuses.rollB k (bitOf s.fuses.rollB k || bitOf d 2) } }

/-- STANDBY_UP: the standby rail comes up (R538). Where it is up already, all power has been lost and has come back
(assumption log 22): what fuses, the flash and the housekeeping controller hold stays. -/
def execStandbyUp (s : State) : Out :=
  let s := abandonFuses s
  let b : BootSt := { standby := true, cellCopy := s.boot.cellCopy }
  .next { State.reset with
    pending := s.pending, fuses := s.fuses, free := s.free, rdata := s.rdata, boot := b,
    flash := { s.flash with waiting := [], fed := false, took := [], nextSeq := 0, pos := 0 }, side := { fru := s.side.fru, sa := s.side.sa } }

/-- The records that a device reset lets the flash complete (R544): the one in progress, and those of a stop. -/
def settleLog (s : State) : State :=
  let fs := if stopped s then s.flash.waiting else s.flash.waiting.take 1
  let s := fs.foldl programRecord s
  { s with flash := { s.flash with waiting := [], fed := false, took := [] } }

/-- DEVICE_RESET: RESET_N is held low (R543, R544). Everything returns to its reset value but for what fuses, the flash,
the housekeeping controller, the feeds' switches and a powered Ridge course keep; every register but SYS_DCNT reads its reset
value (R529). -/
def execDeviceReset (s : State) : Out :=
  if s.boot.resetLow ∨ s.boot.standby = false then .fault .notPossible
  else
    let s := abandonFuses (settleLog s)
    let ridge := s.boot.ridgeOn && (feedClosed s 0 || feedClosed s 1)
    let time : TimeSt := if ridge then { dcnt := s.time.dcnt, beacon := s.time.beacon } else {}
    let b : BootSt := {
      standby := true, resetLow := true, ridgeOn := ridge, kept := ridge, cellCopy := s.boot.cellCopy,
      feedTry := s.boot.feedTry }
    let mons := (List.range 4).foldl (fun t i => tput 0 t (320 + i) (nowR s)) []
    .next { State.reset with
      power := {
        monAt := if ridge then mons else [], feed0 := { on := feedClosed s 0 }, feed1 := { on := feedClosed s 1 } },
      pending := s.pending, fuses := s.fuses, free := s.free, rdata := s.rdata, boot := b, time := time,
      flash := s.flash, side := s.side }

/-- An attempt of FEED begins (R460, R546). -/
def tryFeed (s : State) : State :=
  { s with boot := { s.boot with feedGo := true, feedTry := min 65535 (s.boot.feedTry + 1) } }

/-- Laps go on at the lap the counter has reached (R353). -/
def startLaps (s : State) : State :=
  let t := s.time.dcnt.toNat
  { s with heat := { s.heat with lap := t / 2048000, next := (t % 2048000 + 1999) / 2000 } }

/-- RESET_RELEASE: RESET_N is high and standby has been up for 10 ms; the TAP is forced to Test-Logic-Reset and FEED
starts (R543, R547). Where the Ridge course is powered, laps resume (R353). -/
def execResetRelease (s : State) : Out :=
  if s.boot.standby = false ∨ s.boot.released then .fault .notPossible
  else
    let s := if s.boot.ridgeOn then startLaps s else s
    .next (tryFeed { s with
      boot := { s.boot with resetLow := false, released := true }, side := { s.side with ir := .idcode, pins := .system } })

/-! ## FEED (R460, R472) -/

/-- FEED_SWITCH_CLOSE: a feed has stayed within 40-60 V for 100 ms (R472). -/
def execFeedSwitchClose (f : Fin 2) (v : BitVec 16) (s : State) : Out :=
  if s.boot.released = false ∨ feedState s f ≠ 0 ∨ v.toNat < 4000 ∨ 6000 < v.toNat then .fault .notPossible
  else .next (rfSet (closeFeed s f) .pwrFeedf f 40 16 v.toNat)

/-- The first cell of a course (R334). -/
def firstCell (q : Nat) : Nat := if q < 64 then 6 * q else if q < 80 then 384 + 8 * (q - 64) else 512

/-- Failed cells are held open, and PWRq_VSTAT.FAILED shows them (R472). -/
def holdCells (s : State) (cells : BitVec 516) : State :=
  let s := { s with power := { s.power with cells := s.power.cells ||| cells } }
  (List.range 81).foldl (fun s q =>
    rfSet s .pwrqVstat q 27 8
      ((idxs (cellCount q) fun i => s.power.cells.getLsbD (firstCell q + i)).foldl (fun a i => a + 2 ^ i) 0)) s

/-- A closed feed's path resistance is recorded under the test load (R332, R472). -/
def recordPath (s : State) (f : Nat) (path : BitVec 16) : State :=
  if feedClosed s f then rfSet (setFeed s f { feedOf s f with base := path.toNat }) .pwrFeedf f 8 16 path.toNat else s

/-- Why FEED fails: no feed, too few converter phases, or the bus (R460, R546); 0 where it completes. -/
def feedCause (s : State) (failed : Byte) (busOk : Bool) : Nat :=
  if !feedClosed s 0 && !feedClosed s 1 then 1
  else if 8 - popcount failed.toNat 8 < 7 then 2
  else if busOk then 0 else 3

/-- The phases that are found failed, and were not before, each with its notice (R330). -/
def findPhases (s : State) (failed : Byte) : State :=
  let new_ := idxs 8 fun i => failed.getLsbD i && !s.power.phases.getLsbD i
  new_.foldl (fun s i => powerNotice s 11 (2 + i) 4 0) { s with power := { s.power with phases := failed } }

/-- A feed whose switch a device reset left closed is shown ACTIVE (R348, R472). -/
def showFeed (s : State) (f : Nat) : State :=
  if feedClosed s f && decide (feedState s f = 0) then rfSet s .pwrFeedf f 62 2 1 else s

/-- FEED: an attempt ends. It completes with the path resistances recorded and the failed cells held open; one feed alone
is noticed (R472). -/
def execFeed (failed : BitVec 8) (busOk : Bool) (path0 path1 : BitVec 16) (s : State) : Out :=
  if !booting s || !s.boot.feedGo || decide (bootStep s ≠ 1) then .fault .notPossible
  else
    let c := feedCause s failed busOk
    let s := findPhases s failed
    let s := { s with
      boot := { s.boot with feedGo := false, feedWhy := c, feedDone := decide (c = 0) } }
    if c ≠ 0 then .next s
    else
      let s := (List.range 2).foldl showFeed s
      let s := holdCells (recordPath (recordPath s 0 path0) 1 path1) s.boot.cellCopy
      let s := if feedClosed s 0 && feedClosed s 1 then s else powerNotice s 11 (if feedClosed s 0 then 0 else 1) 7 0
      .next (setBoot s 2 0)

/-- FEED_RETRY: a failed FEED is tried again after 1 s (R460). -/
def execFeedRetry (s : State) : Out :=
  if !booting s || s.boot.feedGo || decide (bootStep s ≠ 1) then .fault .notPossible else .next (tryFeed s)

/-! ## RIDGE (R460, R489, R495) -/

/-- A number in the flash, first byte lowest. -/
def fnum (s : State) (a n : Nat) : Nat := bytesNat (fbytes s a n)

/-- A valid copy of the slot directory: SEQ, ATT and PREF (R489). -/
def dirCopy (s : State) (c : Nat) : Option (Nat × Bool × Nat) :=
  let a := 4096 * c
  if fnum s (a + 56) 4 = (crc32 (fbytes s a 56)).toNat then
    some (fnum s (a + 4) 4, (fbyte s a).getLsbD 1, fnum s a 1 % 2)
  else none

/-- ATT and PREF of the directory in use (R489). -/
def slotDir (s : State) : Bool × Nat :=
  match dirCopy s 0, dirCopy s 1 with
  | some x, some y => if x.1 < y.1 then y.2 else x.2
  | some x, none => x.2
  | none, some y => y.2
  | none, none => (false, 0)

/-- The words of fault record `i`, where its CRC holds (R365). -/
def logRec (s : State) (i : Nat) : Option (List Word) :=
  let a := 0x10000 + 128 * i
  if fnum s (a + 124) 4 = 0 && decide (fnum s (a + 120) 4 = (crc32 (fbytes s a 120)).toNat) then
    some (bytesWords (fbytes s a 128) 16)
  else none

/-- SEQ of a record (R365). -/
def recSeqOf (ws : List Word) : Nat := fld (nth ws 0 0) 0 32

/-- The records of the log with their places. -/
def logRecs (s : State) : List (Nat × List Word) := (List.range 512).filterMap fun i => (logRec s i).map fun ws => (i, ws)

/-- The record with the largest SEQ: its place and SEQ (R364). -/
def lastRec (s : State) : Option (Nat × Nat) :=
  (logRecs s).foldl (fun m r =>
    match m with
    | some x => if x.2 < recSeqOf r.2 then some (r.1, recSeqOf r.2) else some x
    | none => some (r.1, recSeqOf r.2)) none

/-- The log goes on after its last record (R364). -/
def continueLog (s : State) : State :=
  match lastRec s with
  | some (i, q) => { s with flash := { s.flash with nextSeq := BitVec.ofNat 32 (q + 1), pos := (i + 1) % 512 } }
  | none => { s with flash := { s.flash with nextSeq := 0, pos := 0 } }

/-- A copy of the repair summary whose CRC holds (R495). -/
def sumValid (s : State) (c : Nat) : Bool :=
  let a := 0x20000 + 0x20000 * c
  decide (fnum s (a + 0x1FFFC) 4 = 0) && decide (fnum s (a + 0x1FFF8) 4 = (crc32 (fbytes s a 0x1FFF8)).toNat)

/-- The valid copy with the higher write count (R477, R495). -/
def sumPick (s : State) : Option Nat :=
  if sumValid s 0 && sumValid s 1 then some (if fnum s 0x20008 8 < fnum s 0x40008 8 then 1 else 0)
  else if sumValid s 0 then some 0 else if sumValid s 1 then some 1 else none

/-- A sticky line is added to those kept, where it is none of them; a line beyond 32,000 is counted instead (R495). -/
def addSticky (x : BootSt × Nat) (l : Nat × Nat) : BootSt × Nat :=
  if x.1.sticky.contains l then x
  else if 32000 ≤ x.1.sticky.length then (x.1, x.2 + 1)
  else ({ x.1 with sticky := x.1.sticky ++ [l] }, x.2)

/-- A fault record is merged into the summary (R495, R496). -/
def mergeRec (x : BootSt × Nat) (ws : List Word) : BootSt × Nat :=
  let w6 := nth ws 6 0
  let x := ({ x.1 with sumSeq := BitVec.ofNat 32 (recSeqOf ws) }, x.2)
  match fld (nth ws 0 0) 56 8 with
  | 0x10 => ({ x.1 with pairs := x.1.pairs ||| BitVec.ofNat 264 (2 ^ fld w6 8 9) }, x.2)
  | 0x12 => ({ x.1 with cellMap := x.1.cellMap ||| BitVec.ofNat 516 (2 ^ fld w6 0 10) }, x.2)
  | 0x11 => (List.range (fld w6 12 4)).foldl (fun x i => addSticky x (fld w6 0 9, fld (nth ws (7 + i) 0) 8 17)) x
  | _ => x

/-- The repair summary as it stands in a copy (R495). -/
def readSummary (s : State) (c : Nat) : BootSt :=
  let a := 0x20000 + 0x20000 * c
  { s.boot with
    sumSeq := BitVec.ofNat 32 (fnum s a 8), pairs := BitVec.ofNat 264 (fnum s (a + 0x10) 40),
    cellMap := BitVec.ofNat 516 (fnum s (a + 0x38) 72),
    sticky := (List.range (min 32000 (fnum s (a + 0x80) 8))).map fun i =>
      let e := fnum s (a + 0x88 + 4 * i) 4
      (e / 2 ^ 17 % 512, e % 2 ^ 17) }

/-- The summary is read and every record with a SEQ above its SEQ is merged; lines not kept are noticed (R495). -/
def mergeLog (s : State) : State :=
  let rs := ((logRecs s).filter fun r => decide (s.flash.pos ≤ r.1)) ++
    ((logRecs s).filter fun r => decide (r.1 < s.flash.pos))
  let (b, lost) := match sumPick s with
    | some c =>
      let b := readSummary s c
      (rs.filter fun r => decide (b.sumSeq.toNat < recSeqOf r.2)).foldl (fun x r => mergeRec x r.2) (b, 0)
    | none => rs.foldl (fun x r => mergeRec x r.2) (s.boot, 0)
  let s := holdCells { s with boot := b } b.cellMap
  if lost = 0 then s else raiseR s 0x0081 (srcOf 0 0) (BitVec.ofNat 64 lost)

/-- The training saves in use: the copy with the higher write count (R477). -/
def bestSave (s : State) : Option TrainSave :=
  match s.flash.save0, s.flash.save1 with
  | some x, some y => if x.count < y.count then some y else some x
  | some x, none => some x
  | none, y => y

/-- The training saves that are valid for this device (R477). -/
def validSave (s : State) : Option TrainSave := (bestSave s).filter fun x => decide (x.serial = s.fuses.serial)

/-- The voltage ceiling in mV and the power cap in W of a grade (R3). -/
def gradeLimits : Grade → Nat × Nat
  | .a7_15 => (850, 1500)
  | .a7_12 => (800, 1200)
  | _ => (750, 900)

/-- The fuses are read: the grade's fields take their values (R5, R532). A course on which the floor condition holds keeps its
clamp (R361). -/
def readGrade (s : State) : State :=
  let (v, w) := gradeLimits s.fuses.grade
  let c := setFld (setFld (setFld (setFld (rg s .pwrCtl) 48 16 w) 38 10 v) 28 10 v) 16 12 w
  (List.range 81).foldl (fun s q =>
    rfSet (rfSet s .pwrqVctl q 38 10 v) .pwrqVctl q 28 10 (if rbit s .thmqStat q 15 then 550 else v)) (rgSet s .pwrCtl 0 0 c)

/-- SEC_STAT as the fuses give it (R505, R510). -/
def showFuses (s : State) : State :=
  let f := s.fuses
  let v := rg s .secStat
  rgSet s .secStat 0 0 (setFld (setFld (setFld (setFld v 58 4 f.owned.toNat) 54 4 f.revoked.toNat) 50 4
    (f.partly &&& ~~~f.owned).toNat) 43 7 (rollCount s))

/-- The Ridge course is powered, at the floor, and the counter starts where the course was without power (R52). -/
def powerRidge (s : State) : State :=
  let s := if s.boot.ridgeOn then s else { s with time := {}, boot := { s.boot with ridgeOn := true } }
  let s := if rf s .pwrqVstat 80 61 3 = 3 then s
    else rgSet s .pwrqVstat 80 0 (mkWord [(61, 3, 3), (58, 3, 7), (48, 10, 550), (27, 8, rf s .pwrqVstat 80 27 8)])
  { s with power := { s.power with
    monAt := (List.range 4).foldl (fun t i => tput 0 t (320 + i) (nowR s)) s.power.monAt } }

/-- The ports take their saved settings, and the host port trains (R389, R466, R470). -/
def startHostPort (s : State) : State :=
  let s := match validSave s with
    | some x => x.ports.foldl (fun s e => setPort s e.1 { port s e.1 with saved := some e.2 }) s
    | none => s
  let s := setPort s 12 { port s 12 with entered := true }
  if rbit s .lnkpCtl 12 63 then setPortState s 12 1 else s

/-- RIDGE completes (R460): fuses read, boot ROM measured, directory, log and summary read, warm or cold decided. -/
def ridgeDone (s : State) (idok : Bool) : State :=
  let s := showFuses (readGrade s)
  let s := rfSet s .secStat 0 62 2 (2 * b2n idok + 1)
  let s := if idok then s else raiseR s 0x0080 (srcOf 15 0) 1
  let s := { s with boot := { s.boot with mRom := Config.romMeasure } }
  let warm := s.boot.kept && (sumPick s).isSome && (validSave s).isSome
  let (att, pref) := slotDir s
  let s := { s with boot := { s.boot with pref := pref } }
  let s := startHostPort (mergeLog (continueLog s))
  let s := rfSet (rfSet s .bootStat 0 57 1 (b2n att)) .bootStat 0 56 1 (b2n warm)
  setBoot s 3 (if att then 0 else 1)

/-- RIDGE: the reference locks or not, a fuse row fails or none, the identity key unwraps or not (R460, R465, R500). -/
def execRidge (locked : Bool) (badFuse : Option (BitVec 16)) (idok : Bool) (s : State) : Out :=
  if !booting s || decide (bootStep s ≠ 2) then .fault .notPossible
  else
    let s := powerRidge s
    if !locked then .next (bootFail s 0x01 0)
    else
      let s := rfSet s .sysRefstat 0 0 1 1
      match badFuse with
      | some r => .next (bootFail s 0x02 r.toNat)
      | none => .next (ridgeDone s idok)

/-! ## The image (R466-R470, R490-R493, R503, R504) -/

/-- An entry of the section table (R491). -/
structure ISect where
  typ : Nat
  off : Nat
  len : Nat
  dig : Nat
  deriving DecidableEq, Repr

/-- A number in an image that `rd` reads. -/
def inum (rd : Nat → Nat → List Byte) (o n : Nat) : Nat := bytesNat (rd o n)

/-- Section `i` of an image. -/
def isect (rd : Nat → Nat → List Byte) (i : Nat) : ISect :=
  let a := 0x100 + 80 * i
  { typ := inum rd a 4, off := inum rd (a + 8) 4, len := inum rd (a + 12) 4, dig := inum rd (a + 16) 64 }

/-- NSECT, and the end of the section table (R490, R491). -/
def nsect (rd : Nat → Nat → List Byte) : Nat := inum rd 0x1A 2

/-- The end of the section table. -/
def tableEnd (rd : Nat → Nat → List Byte) : Nat := 0x100 + 80 * nsect rd

/-- The sections of an image, at most 64. -/
def isects (rd : Nat → Nat → List Byte) : List ISect := (List.range (min 64 (nsect rd))).map (isect rd)

/-- The bytes of a section. -/
def sectBytes (rd : Nat → Nat → List Byte) (x : ISect) : List Byte := rd x.off x.len

/-- The sections of a type. -/
def ofType (t : Nat) (xs : List ISect) : List ISect := xs.filter fun x => decide (x.typ = t)

/-- The bytes of the sections of a type. -/
def typeLen (t : Nat) (xs : List ISect) : Nat := ((ofType t xs).map (·.len)).sum

/-- The mask of an RPROG section (R493). -/
def progMask (rd : Nat → Nat → List Byte) (x : ISect) : BitVec 256 := BitVec.ofNat 256 (inum rd x.off 32)

/-- Whether a section keeps R492, R493 and R503, after those before it. A host image has no STAGES and no SIG. -/
def sectOk (rd : Nat → Nat → List Byte) (host : Bool) (before : List ISect) (x : ISect) : Bool :=
  let all := before ++ [x]
  decide (x.off % 4096 = 0 ∧ x.off + x.len ≤ inum rd 0xC 4) && !overlaps x.off x.len 0 (tableEnd rd) &&
  (before.all fun y => !overlaps x.off x.len y.off y.len) &&
  (decide (x.typ = 4) || (ofType x.typ before).isEmpty) &&
  decide (typeLen 1 all + typeLen 2 all ≤ 0x300000 ∧ typeLen 4 all ≤ 0x1000000 ∧ (ofType 4 all).length ≤ 32) &&
  match x.typ with
  | 1 => !host && decide (x.len % 32 = 0)
  | 2 => true
  | 3 => decide (x.len ≤ 0x80000)
  | 4 => decide (64 ≤ x.len ∧ x.len ≤ 0x100040 ∧ inum rd (x.off + 32) 32 = 0 ∧ inum rd (x.off + 68) 4 = x.len - 64) &&
      (ofType 4 before).all fun y => decide (progMask rd x &&& progMask rd y = 0)
  | 5 => !host && decide (x.len = 416 ∧ inum rd x.off 4 = 1)
  | _ => false

/-- The first section that fails `sectOk`. -/
def firstBad (rd : Nat → Nat → List Byte) (host : Bool) (before : List ISect) : List ISect → Option Nat
  | [] => none
  | x :: xs => if sectOk rd host before x then firstBad rd host (before ++ [x]) xs else some before.length

/-- LAYOUT (R492): where it fails, the section, or none where a section is missing or the table does not fit. -/
def layoutBad (rd : Nat → Nat → List Byte) (host : Bool) : Option (Option Nat) :=
  let xs := isects rd
  if 64 < nsect rd ∨ 0x3F00000 < inum rd 0xC 4 ∨ inum rd 0xC 4 < tableEnd rd then some none
  else
    match firstBad rd host [] xs with
    | some i => some (some i)
    | none =>
      if (ofType 3 xs).isEmpty || (ofType 4 xs).isEmpty ||
          (!host && ((ofType 1 xs).isEmpty || (ofType 5 xs).isEmpty)) then some none else none

/-- The entries of a stage list (R467), each with its reserved bits. -/
def stageEnts : List Word → List (StageEnt × Nat)
  | w :: v :: m :: t :: l =>
    ({ op := BitVec.ofNat 8 (fld w 56 8), step := BitVec.ofNat 4 (fld w 52 4), post := bitOf w 51,
       addr := BitVec.ofNat 40 (fld w 0 40), value := v, mask := m, tmo := BitVec.ofNat 32 (fld t 32 32),
       count := BitVec.ofNat 32 (fld t 0 32) }, fld w 40 11) :: stageEnts l
  | _ => []

/-- The class whose QOS_CLSc an address names. -/
def qosClassOf (a : Nat) : Option Nat := (List.range 16).find? fun c => decide (a = regAddr .qosClsc c)

/-- A malformed stage-list entry, after the one before it (R469). -/
def stageEntBad (data : Nat) (before : Option StageEnt) (e : StageEnt) (reserved : Nat) : Bool :=
  let a := e.addr.toNat
  let st := e.step.toNat
  decide (e.op.toNat = 0 ∨ 6 < e.op.toNat ∨ st < 4 ∨ 10 < st ∨ reserved ≠ 0) || (decide (st = 10) && e.post) ||
  (match before with
    | some p => decide (st < p.step.toNat) || (decide (st = p.step.toNat) && p.post && !e.post)
    | none => false) ||
  !isRegs a || (decide (e.op = 6) && !isRegs e.value.toNat) ||
  (decide (a = regAddr .bootGo) && decide (e.op ≠ 3 ∧ e.op ≠ 4)) ||
  (decide (e.op = 5) && decide (data < e.value.toNat + 8 * e.count.toNat)) ||
  (decide (e.op = 6) && (qosClassOf a).isSome)

/-- The first malformed entry of a stage list. -/
def stageBad (data i : Nat) (before : Option StageEnt) : List (StageEnt × Nat) → Option Nat
  | [] => none
  | (e, r) :: l => if stageEntBad data before e r then some i else stageBad data (i + 1) (some e) l

/-- The word of DATA at a byte offset. -/
def dataWord (data : List Byte) (o : Nat) : Word := bytesWord ((data.drop o).take 8)

/-- What a stage-list entry leaves in QOS_CLSc (R466, R468). -/
def qosAfter (data : List Byte) (t : List Word) (e : StageEnt) : List Word :=
  match qosClassOf e.addr.toNat with
  | none => t
  | some c =>
    let old := nth t c 0
    let new_ := match e.op.toNat with
      | 1 => e.value
      | 2 => (old &&& ~~~e.mask) ||| (e.value &&& e.mask)
      | 5 => if e.count = 0 then old else dataWord data (e.value.toNat + 8 * (e.count.toNat - 1))
      | _ => old
    t.set c new_

/-- The sum of the floors that a stage list leaves (R324, R466). -/
def stageFloors (s : State) (data : List Byte) (es : List StageEnt) : Nat :=
  ((es.foldl (qosAfter data) ((List.range 16).map fun c => rg s .qosClsc c)).map fun w => fld w 35 13).sum

/-- The bytes of the first section of a type; none where there is none. -/
def partBytes (rd : Nat → Nat → List Byte) (t : Nat) : List Byte :=
  match ofType t (isects rd) with
  | x :: _ => sectBytes rd x
  | [] => []

/-- OWNPUB of the SIG section (R503). -/
def ownPub (rd : Nat → Nat → List Byte) : List Byte := ((partBytes rd 5).drop 8).take 136

/-- SIGNATURE (R504). -/
def signatureOk (s : State) (rd : Nat → Nat → List Byte) : Bool :=
  let o := inum rd 0x19 1
  decide (o < 4) && s.fuses.owned.getLsbD o && !s.fuses.revoked.getLsbD o &&
  decide (digestOf (ownPub rd) = tget 0 s.fuses.owners o) &&
  Config.ecdsaVerify (ownPub rd) (sha512 (rd 0 (tableEnd rd))) (((partBytes rd 5).drop 0x90).take 136)

/-- The first STAGES, DATA or RFW section whose digest does not hold (R466). -/
def digestBad (rd : Nat → Nat → List Byte) : Option Nat :=
  (List.range (isects rd).length).find? fun i =>
    let x := isect rd i
    decide (1 ≤ x.typ ∧ x.typ ≤ 3) && decide (digestOf (sectBytes rd x) ≠ BitVec.ofNat 512 x.dig)

/-- The checks of IMAGE in their order (R465, R466, R470): the code of the first that fails, with its DETAIL where it is
stated. -/
def imageCheck (s : State) (rd : Nat → Nat → List Byte) (host : Bool) : Option (Nat × Option Nat) :=
  if inum rd 0 8 ≠ 0x0037524F41424142 ∨ inum rd 8 4 ≠ 1 then some (0x10, some 0)
  else
    match layoutBad rd host with
    | some d => some (0x11, d)
    | none =>
      let bind := inum rd 0x20 16
      let es := stageEnts (bytesWords (partBytes rd 1) ((partBytes rd 1).length / 8))
      let floors := stageFloors s (partBytes rd 2) (es.map Prod.fst)
      if !host && decide (bind ≠ 0 ∧ bind ≠ s.fuses.serial.toNat) then some (0x12, some 0)
      else if !host && !signatureOk s rd then some (0x13, some 0)
      else if !host && decide (inum rd 0x18 1 < rollCount s) then some (0x14, some (inum rd 0x18 1))
      else
        match digestBad rd with
        | some i => some (0x15, some i)
        | none =>
          match stageBad (partBytes rd 2).length 0 none es with
          | some i => some (0x16, some i)
          | none => if !host && decide (4718 < floors) then some (0x17, some (min 65535 floors)) else none

/-- The RPROG sections of an image (R493). -/
def progsOf (rd : Nat → Nat → List Byte) : List RProg :=
  ((isects rd).zip (List.range 64)).filterMap fun p =>
    if p.1.typ = 4 then
      some { sect := p.2, off := p.1.off, mask := progMask rd p.1, pre := rd p.1.off 64, bytes := rd (p.1.off + 64) (p.1.len - 64),
             digest := BitVec.ofNat 512 p.1.dig }
    else none

/-- An image is accepted (R466, R470, R509); RFW starts, and TRUSS is next. -/
def acceptImage (s : State) (rd : Nat → Nat → List Byte) (host : Bool) : State :=
  let st := partBytes rd 1
  let b : BootSt := { s.boot with
    stages := (stageEnts (bytesWords st (st.length / 8))).map Prod.fst, data := partBytes rd 2, pos := 0,
    until_ := none, progs := progsOf rd, lstage := BitVec.ofNat 40 (inum rd 0x30 8),
    svn := BitVec.ofNat 8 (inum rd 0x18 1), owner := BitVec.ofNat 8 (inum rd 0x19 1),
    mRfw := digestOf (partBytes rd 3), mImage := digestOf (rd 0 (tableEnd rd)),
    mSigner := if host then 0 else digestOf (ownPub rd) }
  setBoot (setErr { s with boot := b } 0 0) 4 0

/-- DETAIL, where no rule states it an open value. -/
def detailOf (s : State) (d : Option Nat) : State × Nat :=
  match d with
  | some x => (s, x)
  | none => let (s, f) := takeFree s; (s, fld f 0 16)

/-- The bytes of an image slot (R488). -/
def slotRead (s : State) (slot o n : Nat) : List Byte := fbytes s ((if slot = 0 then 0x100000 else 0x4000000) + o) n

/-- The bytes of a host image (R470); beyond what the host gives it reads zero. -/
def hostRead (img : List Byte) (o n : Nat) : List Byte :=
  let l := (img.drop o).take n
  l ++ List.replicate (n - l.length) 0

/-- The image of a slot is accepted (R466). -/
def takeSlot (s : State) (p : Nat) : State :=
  let s := rfSet (acceptImage s (slotRead s p) false) .bootStat 0 55 1 p
  { s with boot := { s.boot with slot := p } }

/-- IMAGE in autonomous mode (R466): the slot that the directory preferred at RIDGE, then the other. -/
def imageAuto (s : State) : State :=
  let p := s.boot.pref
  match imageCheck s (slotRead s p) false with
  | none => takeSlot s p
  | some (c, _) =>
    match imageCheck s (slotRead s (1 - p)) false with
    | none => rfSet (takeSlot s (1 - p)) .bootStat 0 16 8 c
    | some (c2, _) => bootFail s 0x18 c2

/-- IMAGE in attended mode (R464, R470): a refusal leaves the step incomplete. -/
def imageHost (s : State) (img : List Byte) : State :=
  match imageCheck s (hostRead img) true with
  | none => acceptImage s (hostRead img) true
  | some (c, d) => let (s, x) := detailOf s d; setBoot (setErr s c x) 3 0

/-- IMAGE: the image is read and checked (R466). In attended mode it is fetched from BOOT_LSRC by MRDs of `cut` + 1 bytes
each, its header of 64 bytes first, and checked once it has come whole, with the host port in UP (R399, R400, R470). -/
def execImage (cut : Fin 4096) (s : State) : Out :=
  if !booting s || decide (bootStep s ≠ 3 ∨ bootPhase s ≠ 1) then .fault .notPossible
  else if attended s then
    if !portUp s 12 then .next s
    else
      match fetchFor s 16 with
      | none =>
        let s := { s with boot := { s.boot with imgAt := rg s .bootLsrc } }
        .next (startFetch s 16 s.boot.imgAt 64 cut)
      | some x =>
        if (fetchBytes x).length = x.len then .next (imageHost (setFetch s 16 none) (fetchBytes x)) else .next s
  else .next (imageAuto s)

end Sys2Proof.Machine
end

