-- ==== Sys2Proof/Machine/Boundary.lean ====
section
/-! DEFINITION. The commands on boundary queues (R60-R73): words written and read, narrow items packed, timeouts; and the
hop at which a parity error that a queue passes on is found (R72, R290). What a single command transfers whole passes its queue within
that command (R74, assumption log 85). -/

namespace Sys2Proof.Machine

/-- The words that bytes entering a packing queue complete, and the partial word left (R66). -/
def packIn (x : Queue) (bs : List Byte) (endm : Bool) : List QWord × List Byte := packBytes (x.part ++ bs) endm 4

/-- Narrow items enter a packing queue; none where the store has no room for the words they complete (R60, R66). -/
def packTake (s : State) (q : Nat) (bs : List Byte) (endm : Bool) : State :=
  let x := queue s q
  let (ws, part) := packIn x bs endm
  if qDepth s q < x.words.length + ws.length ∨ x.due then s
  else setQueue s q { qPut x (qNow s q) ws with
    part := part, since := if qHolds x then x.since else qNow s q }

/-- What a word written to a port's queue leads to: the switch drains a receive queue; a transmit queue takes whole flits
only, and the switch's output hold keeps a copy of each (R65, R378, R383). -/
def portWrite (s : State) (q : Nat) (w : QWord) : State :=
  if q < 13 then
    let s := signalEnds (qWrite s q w) q [w]
    drainPort s q (waiting s q)
  else
    let x := queue s q
    let fill := x.fill ++ [{ w with vb := 0 }]
    if fill.length < 32 then setQueue s q { x with fill := fill }
    else
      let s := setQueue s q { x with fill := [] }
      fillTx (setPort s (q - 13) { port s (q - 13) with txq := (port s (q - 13)).txq ++ [fill] }) (q - 13)

/-- QUEUE_WORD_WRITE: a writer of a full queue waits (R60, R62); a word that enters a packing queue behind a partial word
enters it byte by byte (R66). -/
def execQueueWordWrite (q : Fin 60) (w : Word) (parity endm : Bool) (vb : BitVec 3) (s : State) : Out :=
  let x := queue s q
  let qw : QWord := { w := w, parity := parity, endm := endm, vb := vb }
  if qDepth s q ≤ x.words.length then .next s
  else if q.val < 26 then .next (portWrite s q qw)
  else if qPacks s q ∧ x.part ≠ [] then
    .next (packTake s q ((wordBytes w).take (if vb = 0 then 8 else vb.toNat)) endm)
  else .next (qWrite s q qw)

/-- Whether the parity of a word that leaves a queue is checked where it goes next (R72): that of every eaves and HBM queue. A
flash queue forms its words, or hands them on as bytes (R68). -/
def checkedNext (q : Nat) : Bool := decide (26 ≤ q ∧ q < 58)

/-- The hop of R290 at whose end that check lies: the eaves link behind a transmit queue of an eaves end, the mesh behind a
receive queue of the Truss end and behind HBM read data. Behind a receive queue of the Ridge end and behind HBM write data R290
lists none. -/
def hopAfter (q : Nat) : Option Hop :=
  if 30 ≤ q ∧ q < 34 ∨ 38 ≤ q ∧ q < 42 then some (.eaves (Fin.ofNat 4 (q - 30)))
  else if 26 ≤ q ∧ q < 30 then some (.purlin (Fin.ofNat 272 (stopAt (eavesStop (q - 26)))))
  else if 42 ≤ q ∧ q < 50 then some (.purlin (Fin.ofNat 272 (stopAt (hbmStop (q - 42)))))
  else none

/-- A word crosses an eaves link from the transmit queue `q`; the receiving end accepts flits whole, into its queue (R33,
R446). -/
def crossWord (s : State) (q : Nat) (w : QWord) : State :=
  let e := (q - 30) % 8
  let x := eavesOf s e
  let down := decide (q < 34)
  let ws := (if down then x.part0 else x.part1) ++ [w]
  let whole := w.endm || decide (32 ≤ ws.length)
  let part := if whole then [] else ws
  let s := setEaves s e (if down then { x with part0 := part } else { x with part1 := part })
  if whole then
    let to_ := if down then 34 + e else 26 + e
    setQueue s to_ (qPut (queue s to_) (qNow s to_) ws)
  else s

/-- A transmit queue of an eaves end. -/
def eavesTx (q : Nat) : Bool := decide (30 ≤ q ∧ q < 34 ∨ 38 ≤ q ∧ q < 42)

/-- The receiving end of the link behind a transmit queue has no room for a flit, which waits (R60). -/
def crossWaits (s : State) (q : Nat) : Bool :=
  let to_ := if q < 34 then q + 4 else q - 12
  eavesTx q && decide (qDepth s to_ < (queue s to_).words.length + 32)

/-- The consumer of a queue takes its oldest word: a flush that waited for room follows (R60, R63, R69). A flit that the Truss
end of an eaves link has sent whole is counted (R515). -/
def takeWord (s : State) (q : Nat) (w : QWord) : State :=
  let x := queue s q
  let s := if 30 ≤ q ∧ q < 34 ∧ (w.endm = true ∨ x.taken = 31) then countT s 0x120 (q - 30) 1 else s
  let y := { qTake x (qNow s q) 1 with taken := if qClocked q && !w.endm then (x.taken + 1) % 32 else 0, bytes := 0 }
  let s := { setQueue s q y with rdata := w.w }
  let s := if eavesTx q then crossWord s q w else s
  if x.due then qFlush s q else s

/-- The flash interface takes a word of BOOT_XWQ byte by byte, first byte lowest (R68, R74); a fault record on its way to the
flash (R364). -/
def takeByte (s : State) (q : Nat) (w : QWord) : State :=
  let x := queue s q
  let b := nth (wordBytes w.w) x.bytes 0
  let s := if x.bytes = 7 then takeWord s q w else setQueue s q { x with bytes := x.bytes + 1, since := qNow s q, fired := false }
  { s with
    rdata := b.setWidth 64,
    flash := if s.flash.fed && decide (s.flash.took.length < 128) then { s.flash with took := s.flash.took ++ [b] } else s.flash }

/-- A word is refused at the check behind a queue: the upstream hop sends its copy again (R72, R290). -/
def refuseWord (s : State) (q : Nat) : State :=
  match hopAfter q with
  | some h => hopRefuse (repairHead s q) h
  | none => repairHead s q

/-- QUEUE_WORD_READ: the consumer takes the oldest word; the read re-arms the timeout (R60, R63, R69). A word whose parity
fails at the next check is refused there, and is resent from the held copy (R72, R290). The queues of a port are read a
flit at a time, by the link layer and the port switch (R74); an eaves end's transmit queue by its link, while that is up. The
words of a fault record that waits are in BOOT_XWQ by the time the flash interface reads it (R364). -/
def execQueueWordRead (q : Fin 60) (s : State) : Out :=
  let s := if q.val = 59 then feedLog s else s
  match (queue s q).words with
  | [] => .fault .notPossible
  | w :: _ =>
    if !qMayTake s q then .fault .notPossible
    else if q.val < 13 then .next { drainPort s q (waiting s q) with rdata := w.w }
    else if q.val < 26 then
      match execFlitTransmit (Fin.ofNat 13 (q - 13)) s with
      | .next t => .next { t with rdata := w.w }
      | o => o
    else if qPack s q = 4 then .next (takeByte s q w)
    else if eavesTx q && !(eavesOf s ((q.val - 30) % 8)).up then .fault .notPossible
    else if crossWaits s q then .next s
    else if checkedNext q && decide (w.parity ≠ xorBits w.w) then .next (refuseWord s q)
    else .next (takeWord (match hopAfter q with | some h => hopAccept s h | none => s) q w)

/-- PACK_ITEM: a narrow item enters a packing queue (R66, R68). Only the last item of a packet may be narrower than the
queue's unit. A full queue makes the writer wait. -/
def execPackItem (q : Fin 60) (item : List Byte) (endm : Bool) (s : State) : Out :=
  let k := if qPack s q = 1 then 1 else 4
  if qPacks s q = false ∨ item.isEmpty ∨ k < item.length ∨ (item.length ≠ k ∧ !endm) then .fault .notPossible
  else .next (packTake s q item endm)

/-- QUEUE_TIMEOUT: the queue has been non-empty and unread for TIMEOUT x 64 ns (R69); it is flushed, and its consumer
starts on the words held, a clocked one on the whole flits among them (R70). -/
def execQueueTimeout (q : Fin 60) (s : State) : Out :=
  let x := queue s q
  let t := fld (qCtl s q) 48 16
  if t = 0 ∨ x.fired ∨ qHolds x = false then .fault .notPossible
  else
    let s := if qRidge q then dueR s (x.since.toNat + 64 * t) else dueT s (x.since.toNat + 64 * t + 64)
    let s := rfSet s (qRegs q).2.1 (qRegs q).2.2 7 1 1
    let s := setQueue s q { x with fired := true }
    let w2 := mkWord [(32, 16, x.words.length), (16, 16, qPkts x)]
    let s := if bitOf (qCtl s q) 27 then
        (if qRidge q then raiseR s 0x0013 (srcOf 8 q) w2 else raiseT s 0x0013 (srcOf 8 q) w2) else s
    let s := qFlush s q
    let n := (queue s q).words.length
    let s := setQueue s q { queue s q with go := if qClocked q then n / 32 * 32 else n }
    .next (if q.val < 13 then drainPort s q (waiting s q) else s)

end Sys2Proof.Machine
end

