-- ==== Sys2Proof/Machine/Branch.lean ====
section
/-! DEFINITION. The branch class (R261, R262) for both issuers, but for ENDP: branches, jumps, RTT, FRZ, BRK. -/

namespace Sys2Proof.Machine

/-- A branch of the class: `cond` of ra and rb says whether it is taken, `tgt` of ra where it goes; `link` writes
PC + 8 to rd. A jump to an address that is not a multiple of 8 traps with ALIGN (R262). DESIGN CHOICE (assumption log 38): PC + 8 is taken in the 20 bits of the PC, so that a
link at 0xF_FFF8 holds 0. -/
def execBranch (op : Nat) (f : Form) (i : Issuer) (w : Word) (s : State) (cond : Word → Word → Bool)
    (tgt : Word → Word) (link : Bool) : Out :=
  if !opIs 2 op w then .refused .illFormed else
  match i with
  | .seq n =>
    seqDo s n w 0 f false fun s =>
      let r := raf s n
      let a := sreg r (iRa w)
      let t := tgt a
      if !cond a (sreg r (iRb w)) then .go (modRaf s n fun r => pcNext r false)
      else if fld t 0 3 ≠ 0 then .trap s 0x04 0 0
      else
        .go (modRaf s n fun r =>
          let r := if link then setSreg r (iRd w) (BitVec.ofNat 64 (r.pc + 8).toNat) else r
          { r with pc := BitVec.ofNat 20 (fld t 0 20) })
  | .thr n y =>
    thrDo s n y w f false fun s x sub pc =>
      let go := sub.filter fun k => cond (treg (thr x k) (iRa w)) (treg (thr x k) (iRb w))
      let at_ := fun (k : Nat) => tgt (treg (thr x k) (iRa w))
      let odd := go.filter fun k => fld (at_ k) 0 3 ≠ 0
      if !odd.isEmpty then .trap s 0x04 odd 0
      else
        let dst := go.map fun k => (k, BitVec.ofNat 20 (fld (at_ k) 0 20))
        let x := subPast x sub (pc + 8)
        let x := if link then subWrite x (iRd w) (go.map fun k => (k, BitVec.ofNat 64 (pc + 8).toNat)) else x
        let x := dst.foldl (fun x d => setThr x d.1 { thr x d.1 with pc := d.2 }) x
        .go s x ((dst.filter fun d => decide (d.2.toNat < pc.toNat)).map Prod.fst)

/-- BEQ (R261): branches if ra = rb. -/
def execBeq (i : Issuer) (w : Word) (s : State) : Out :=
  execBranch 0x00 formBr i w s (fun a b => a == b) (fun _ => (iTgt w).setWidth 64) false

/-- BNE (R261): branches if ra is not rb. -/
def execBne (i : Issuer) (w : Word) (s : State) : Out :=
  execBranch 0x01 formBr i w s (fun a b => a != b) (fun _ => (iTgt w).setWidth 64) false

/-- BLT (R261): branches if ra < rb, signed. -/
def execBlt (i : Issuer) (w : Word) (s : State) : Out :=
  execBranch 0x02 formBr i w s (fun a b => a.slt b) (fun _ => (iTgt w).setWidth 64) false

/-- BGE (R261): branches if ra >= rb, signed. -/
def execBge (i : Issuer) (w : Word) (s : State) : Out :=
  execBranch 0x03 formBr i w s (fun a b => !a.slt b) (fun _ => (iTgt w).setWidth 64) false

/-- BLTU (R261): branches if ra < rb, unsigned. -/
def execBltu (i : Issuer) (w : Word) (s : State) : Out :=
  execBranch 0x04 formBr i w s (fun a b => a.ult b) (fun _ => (iTgt w).setWidth 64) false

/-- BGEU (R261): branches if ra >= rb, unsigned. -/
def execBgeu (i : Issuer) (w : Word) (s : State) : Out :=
  execBranch 0x05 formBr i w s (fun a b => !a.ult b) (fun _ => (iTgt w).setWidth 64) false

/-- JMP (R261). -/
def execJmp (i : Issuer) (w : Word) (s : State) : Out :=
  execBranch 0x08 (mkForm [] (maskOf 3 17) true true) i w s (fun _ _ => true) (fun _ => (iTgt w).setWidth 64) false

/-- JAL (R261): rd := PC + 8. -/
def execJal (i : Issuer) (w : Word) (s : State) : Out :=
  execBranch 0x09 (mkForm [45] (maskOf 3 17) true true) i w s (fun _ _ => true)
    (fun _ => (iTgt w).setWidth 64) true

/-- JR (R261, R262): to ra[19:0]. -/
def execJr (i : Issuer) (w : Word) (s : State) : Out :=
  execBranch 0x0A (mkForm [39] 0 true true) i w s (fun _ _ => true) id false

/-- JALR (R261, R262): the target is read before rd is written. -/
def execJalr (i : Issuer) (w : Word) (s : State) : Out :=
  execBranch 0x0B (mkForm [45, 39] 0 true true) i w s (fun _ _ => true) id true

/-- RTT (R134, R262): back to the trap frame's PC, or past the instruction there; illegal in RUN. -/
def execRtt (i : Issuer) (w : Word) (s : State) : Out :=
  if !opIs 2 0x11 w then .refused .illFormed else
  match i with
  | .seq n =>
    seqDo s n w 0 (mkForm [] 1 true false) (decide ((raf s n).st = .run)) fun s =>
      .go (modRaf s n fun r =>
        let pc := BitVec.ofNat 20 (fld (storeWord r 0xEF008) 0 20)
        let skip := if bitOf (storeWord r 0xEF018) 51 then 16 else 8
        { r with st := .run, pc := if bitOf w 0 then pc + skip else pc })
  | .thr n y => thrIllegal s n y w (mkForm [] 1 true false)

/-- FRZ (R121, R131, R133): the rafter freezes with cause SELF, in HANDLER too. -/
def execFrz (i : Issuer) (w : Word) (s : State) : Out :=
  if !opIs 2 0x12 w then .refused .illFormed else
  match i with
  | .seq n =>
    seqDo s n w 0 (mkForm [] 0 true false) false fun s =>
      let t : Trap := { cause := 0x15, pc := (raf s n).pc, insn := w }
      .go (freezeRafter (countR (writeFrame s n t) n 0x00C 1) n 0x15)
  | .thr n y => thrIllegal s n y w (mkForm [] 0 true false)

/-- BRK (R261): traps with BREAK, for both issuers; CODE is read from INSN. -/
def execBrk (i : Issuer) (w : Word) (s : State) : Out :=
  if !opIs 2 0x13 w then .refused .illFormed else
  match i with
  | .seq n => seqDo s n w 0 (mkForm [] (maskOf 0 16) true true) false fun s => .trap s 0x0A 0 0
  | .thr n y => thrDo s n y w (mkForm [] (maskOf 0 16) true true) false fun s _ sub _ => .trap s 0x0A sub 0

end Sys2Proof.Machine
end

