-- ==== Sys2Proof/Machine/Secure.lean ====
section
/-! DEFINITION. The security engine's events (R500-R506): the end of a provisioning, the rollback counter, the random bit
generator. -/

namespace Sys2Proof.Machine

/-- PROVISIONING_DONE: the fuses are blown (R502, R510). -/
def execProvisioningDone (s : State) : Out :=
  match s.sec.busy with
  | none => .fault .notPossible
  | some (op, sl, h) =>
    let m := BitVec.ofNat 4 (2 ^ sl)
    let f := s.fuses
    let f : Fuses := if op = 1 then { f with owners := tput 0 f.owners sl h, owned := f.owned ||| m }
      else { f with revoked := f.revoked ||| m }
    let s := { s with fuses := f, sec := { s.sec with busy := none } }
    .next (showFuses (rfSet (rfSet s .secStat 0 42 1 0) .secStat 0 32 8 1))

/-- ROLLBACK_BIT_BLOWN: the lowest unblown bit is blown, by one fuse of its pair or by both (R505). -/
def execRollbackBitBlown (fuses : Fin 3) (s : State) : Out :=
  let k := rollCount s
  if s.sec.roll ≤ k then .fault .notPossible
  else
    let f : Fuses := { s.fuses with
      rollA := setBit s.fuses.rollA k (bitOf s.fuses.rollA k || decide (fuses.val ≠ 1)),
      rollB := setBit s.fuses.rollB k (bitOf s.fuses.rollB k || decide (fuses.val ≠ 0)) }
    .next (showFuses { s with fuses := f })

/-- RBG_HEALTH_FAIL: a block fails a health test; after 8 in a row RBGOK clears, and a notice is written or held (R506). Whether
a block has passed since the last one that failed is open (assumption log 57). -/
def execRbgHealthFail (s : State) : Out :=
  if bootStep s < 3 then .fault .notPossible
  else
    let (s, d) := takeFree s
    let s := { s with sec := { s.sec with bad := if bitOf d 0 then 1 else s.sec.bad + 1 } }
    if s.sec.bad = 8 then .next (raiseR (rfSet s .secStat 0 62 1 0) 0x0080 (srcOf 15 0) 2) else .next s

end Sys2Proof.Machine
end

