-- ==== Sys2Proof/Machine/Side.lean ====
section
/-! DEFINITION. The SMBus sideband (R545, R546) and boundary scan (R547). -/

namespace Sys2Proof.Machine

/-! ## The sideband -/

/-- A feed's voltage as the housekeeping controller measures it, in 10 mV: what PWR_FEEDf shows of a feed in service; of any
other feed it is open (R348, R546, assumption log 90). -/
def feedVolt (s : State) (f : Nat) : State × Nat :=
  if feedState s f = 0 then let (s, d) := takeFree s; (s, d.toNat % 65536) else (s, rf s .pwrFeedf f 40 16)

/-- A feed's voltage lies within 40-60 V. -/
def feedInRange (v : Nat) : Bool := decide (4000 ≤ v ∧ v ≤ 6000)

/-- The status byte but for its bit 0, with the two feeds' voltages (R546). -/
def statusByte (s : State) (v0 v1 : Nat) : Nat :=
  128 * b2n s.boot.standby + 64 * b2n s.boot.feedDone + (if s.boot.feedDone then 16 * rf s .sysState 0 0 2 else 0) +
  8 * b2n (feedInRange v0) + 4 * b2n (feedInRange v1) + 2 * b2n (decide (s.boot.feedWhy ≠ 0))

/-- The last fault-log record and its SEQ; nothing where the log is empty (R365). -/
def lastRecord (s : State) : List Byte × BitVec 32 :=
  match lastRec s with
  | some (i, q) => (fbytes s (0x10000 + 128 * i) 128, BitVec.ofNat 32 q)
  | none => ([], 0)

/-- SIDEBAND_REFRESH: every value is taken again (R545). -/
def execSidebandRefresh (inlet outlet conv flash : BitVec 16) (s : State) : Out :=
  if s.boot.standby = false then .fault .notPossible
  else
    let (bs, q) := lastRecord s
    let (s, v0) := feedVolt s 0
    let (s, v1) := feedVolt s 1
    .next { s with side := { s.side with
      status := BitVec.ofNat 8 (statusByte s v0 v1), cause := BitVec.ofNat 8 s.boot.feedWhy,
      tries := BitVec.ofNat 16 s.boot.feedTry, feed0 := BitVec.ofNat 16 v0,
      feed1 := BitVec.ofNat 16 v1,
      power := if bootStep s < 3 then 0 else BitVec.ofNat 16 (rf s .pwrBus 0 16 16),
      temps := [inlet, outlet, conv, flash], dev := BitVec.ofNat 16 (rf s .vlyDevid 0 0 16), record := bs, recSeq := q } }

/-- One bit of the CRC-8 of a PEC. -/
def pecBit (c : Byte) : Byte := if c.getLsbD 7 then (c <<< 1) ^^^ 0x07 else c <<< 1

/-- The PEC of the bytes of a transfer (SMBus 3.1, assumption log 27). -/
def pecOf (bs : List Byte) : Byte := bs.foldl (fun c b => (List.range 8).foldl (fun c _ => pecBit c) (c ^^^ b)) 0

/-- The target's address byte for a write; a read has its bit 0 set (R545). -/
def smbAddr (s : State) : Byte := BitVec.ofNat 8 (2 * (0x58 + s.side.sa.toNat))

/-- A command answers with data; a block is led by its count in the transfer. -/
def smbAnswer (s : State) (cmd : Byte) (block : Bool) (bs : List Byte) : Out :=
  if s.boot.standby = false then .fault .notPossible
  else
    let count : List Byte := if block then [BitVec.ofNat 8 bs.length] else []
    .next { s with side := { s.side with
      answer := bs, pec := pecOf ([smbAddr s, cmd, smbAddr s ||| 1] ++ count ++ bs) } }

/-- A command answers with a word, low byte first. -/
def smbWord (s : State) (cmd : Byte) (v : BitVec 16) : Out := smbAnswer s cmd false (natBytes v.toNat 2)

/-- 32 bytes that no rule states. -/
def openBlock (s : State) : State × List Byte :=
  ({ s with free := s.free + 4 }, wordsBytes ((List.range 4).map fun i => Config.free (s.free + i)))

/-- The log holds a record with a SEQ above the last one read (R546). -/
def unreadRecord (s : State) : Bool :=
  !s.side.record.isEmpty && match s.side.readSeq with
  | some q => decide (q.toNat < s.side.recSeq.toNat)
  | none => true

/-- SMB_STATUS: command 0x00. -/
def execSmbStatus (s : State) : Out :=
  smbAnswer s 0x00 false [s.side.status ||| (if unreadRecord s then 1 else 0)]

/-- SMB_FEED_CAUSE: command 0x01. -/
def execSmbFeedCause (s : State) : Out := smbAnswer s 0x01 false [s.side.cause]

/-- SMB_FEED_ATTEMPTS: command 0x02. -/
def execSmbFeedAttempts (s : State) : Out := smbWord s 0x02 s.side.tries

/-- SMB_FEED0_VOLTAGE: command 0x03. -/
def execSmbFeed0Voltage (s : State) : Out := smbWord s 0x03 s.side.feed0

/-- SMB_FEED1_VOLTAGE: command 0x04. -/
def execSmbFeed1Voltage (s : State) : Out := smbWord s 0x04 s.side.feed1

/-- SMB_MODULE_POWER: command 0x05. -/
def execSmbModulePower (s : State) : Out := smbWord s 0x05 s.side.power

/-- SMB_FAULT_RECORD: command 0x06, block 0-3 of the last record. Another block, or an empty log, has no stated
content. -/
def execSmbFaultRecord (s : State) : Out :=
  let k := s.side.block.toNat
  if s.side.record.isEmpty || decide (4 ≤ k) then let (s, bs) := openBlock s; smbAnswer s 0x06 true bs
  else
    smbAnswer { s with side := { s.side with readSeq := some s.side.recSeq } } 0x06 true
      ((s.side.record.drop (32 * k)).take 32)

/-- SMB_BLOCK_SELECT: command 0x07, 0-63; what another value selects is open. -/
def execSmbBlockSelect (n : Byte) (s : State) : Out :=
  if s.boot.standby = false then .fault .notPossible
  else
    let (t, d) := takeFree s
    if n.toNat < 64 then .next { s with side := { s.side with block := BitVec.ofNat 6 n.toNat } }
    else .next { t with side := { t.side with block := BitVec.ofNat 6 d.toNat } }

/-- SMB_TEMPERATURES: command 0x10. -/
def execSmbTemperatures (s : State) : Out :=
  smbAnswer s 0x10 true ((List.range 4).flatMap fun i => natBytes (nth s.side.temps i 0).toNat 2)

/-- SMB_DEVICE_ID: command 0x11. -/
def execSmbDeviceId (s : State) : Out := smbWord s 0x11 s.side.dev

/-- SMB_FRU: command 0x21. -/
def execSmbFru (s : State) : Out :=
  smbAnswer s 0x21 true (readBytes s.side.fru (32 * s.side.block.toNat) 32)

/-! ## Boundary scan (R547) -/

/-- The TAP takes an instruction: `tdo` is what its register shifts out, `p` what then drives the pins. -/
def tapLoad (s : State) (i : TapIr) (tdo : Word) (p : Pins := .system) : Out :=
  .next { s with side := { s.side with ir := i, tdo := tdo, pins := p } }

/-- EXTEST, CLAMP and HIGHZ take effect while RESET_N is low; at any other time they are loaded as BYPASS. -/
def tapInReset (s : State) (i : TapIr) (tdo : Word) (p : Pins) : Out :=
  if s.boot.resetLow then tapLoad s i tdo p else tapLoad s .bypass 0

/-- BYPASS. -/
def execBypass (s : State) : Out := tapLoad s .bypass 0

/-- IDCODE. -/
def execIdcode (s : State) : Out := tapLoad s .idcode 0x1A707A9F

/-- SAMPLE_PRELOAD: what the boundary register captures from the pins, and what it is loaded with, is not stated
(assumption log 89). -/
def execSamplePreload (s : State) : Out :=
  let (s, d) := takeFree s
  let (s, e) := takeFree s
  tapLoad { s with side := { s.side with bsr := e } } .samplePreload d

/-- EXTEST: the pins take the boundary register's pattern, and it captures what they read. -/
def execExtest (s : State) : Out := let (s, d) := takeFree s; tapInReset s .extest d (.pattern s.side.bsr)

/-- CLAMP: the pins take the boundary register's pattern; the bypass register is selected. -/
def execClamp (s : State) : Out := tapInReset s .clamp 0 (.pattern s.side.bsr)

/-- HIGHZ: no pin is driven; the bypass register is selected. -/
def execHighz (s : State) : Out := tapInReset s .highz 0 .floating

end Sys2Proof.Machine
end

