-- ==== Sys2Proof/Machine/Steps.lean ====
section
/-! DEFINITION. The steps TRUSS to SEAL of bring-up (R473-R487), the stage list's operations (R467-R469), and the
writes that follow SEAL (R477). -/

namespace Sys2Proof.Machine

/-! ## TRUSS (R277, R473) -/

/-- Courses requested and not yet switched on. -/
def coursesBusy (s : State) : Bool := !s.power.queue.isEmpty || s.power.staging.isSome

/-- An eaves link that does not train is lost, with a notice (R35, R473). -/
def untrained (s : State) (e : Nat) : State :=
  if (eavesOf s e).lost then s else raiseT (setEaves s e { lost := true }) 0x0052 (srcOf 6 e) 1

/-- EAVES_TRAIN_TIMEOUT: a link's lanes have not all locked within 100 ms (R473). -/
def execEavesTrainTimeout (e : Fin 4) (s : State) : Out :=
  if !inAction s 4 || (eavesOf s e).lost then .fault .notPossible
  else .next (untrained (dueR s (s.boot.goAt.toNat + 100000000)) e)

/-- A pair fails a test of TRUSS or SPAR (R29): an enabled spare loses its enable. -/
def failPair (s : State) (k : Nat) : State :=
  let s := { s with boot := { s.boot with now_ := s.boot.now_ ||| BitVec.ofNat 264 (2 ^ k) } }
  if k % 66 = 64 then rfSet s .hubSpared (k / 66) 15 1 0
  else if k % 66 = 65 then rfSet s .hubSpared (k / 66) 31 1 0 else s

/-- The lines of a physical bay that need a spare: failing and sticky ones, each once, ascending (R277). -/
def linesNeeded (s : State) (o : TrussOut) (k : Nat) : List Nat :=
  sortBy id (((o.badLines ++ s.boot.sticky).filter fun e => decide (e.1 = k)).map Prod.snd).dedup

/-- A tested bay's lines are mapped to its 512 spare lines, or the pair fails (R277, R473). -/
def repairLines (s : State) (o : TrussOut) (k : Nat) : State :=
  let ls := linesNeeded s o k
  if 512 < ls.length then failPair s k else { s with boot := { s.boot with lineMap := tput [] s.boot.lineMap k ls } }

/-- The pairs not marked failed in the repair summary, which alone are tested (R473, R474). -/
def tested (s : State) : List Nat := idxs 264 fun k => !s.boot.pairs.getLsbD k

/-- The first Truss course with four or more failed cells (R473). -/
def weakTruss (s : State) : Option Nat := (List.range 16).findSome? fun t =>
  if 4 ≤ failedCells s (64 + t) then some (64 + t) else none

/-- TRUSS: the action ends with the courses on, the eaves links trained or lost, and the bays tested (R473). -/
def execTruss (o : TrussOut) (s : State) : Out :=
  if !inAction s 4 || coursesBusy s || (List.range 16).any fun t => decide (rf s .pwrqVstat (64 + t) 61 3 ≠ 3) then
    .fault .notPossible
  else
    let s := (List.range 4).foldl (fun s e =>
      if o.eavesUp.getLsbD e && !(eavesOf s e).lost then setEaves s e { up := true } else untrained s e) s
    if (List.range 4).all fun e => !(eavesOf s e).up then .next (bootFail s 0x20 0)
    else
      let s := (tested s).foldl (fun s k => repairLines s o k) s
      match weakTruss s with
      | some q => .next (bootFail s 0x21 q)
      | none => .next (actionDone s 4)

/-! ## SPAR (R474, R475) -/

/-- The physical pairs of a dark Thatch course (R474). -/
def darkPairs (s : State) : List Nat :=
  idxs 264 fun k => courseDark s (16 * (k / 66) + pairK (k / 66) (k % 66))

/-- The slates of a physical pair that the fuses enable (R4). -/
def fusedSlates (s : State) (k : Nat) : Byte := tget (gradeSlates s.fuses.grade) s.fuses.slates k

/-- A pair left with fewer than four slates (R474). -/
def fewSlates (s : State) (o : SparOut) (k : Nat) : Bool :=
  let bad := (o.badSlates.filter fun e => decide (e.1 = k)).foldl (fun a e => a ||| e.2) (0 : Byte)
  decide (popcount (fusedSlates s k &&& ~~~bad).toNat 8 < 4)

/-- The spare-map proposal of a die (R475). -/
def proposal (s : State) (d : Nat) : Word :=
  let bad := idxs 64 fun l => pairBad s d l
  let ok64 := !pairBad s d 64
  let ok65 := !pairBad s d 65
  let p65 := if ok64 then bad.drop 1 else bad
  let v := match bad with
    | l :: _ => if ok64 then mkWord [(15, 1, 1), (8, 6, l)] else 0
    | [] => 0
  match p65 with
  | l :: _ => if ok65 then setFld (setFld v 31 1 1) 24 6 l else v
  | [] => v

/-- The failing bonds that SPAR finds on the channel of a pair, each once, in ascending order (R292, R474). -/
def bondsOf (o : SparOut) (k : Nat) : List (Nat × Nat) :=
  sortBy (fun e => 4096 * e.1 + e.2) ((o.bonds.filter fun e => decide (e.1 = k ∧ e.2.1 ≤ 48)).map Prod.snd).dedup

/-- A pair whose bonds need more spares than a group of its channel has (R291, R474). -/
def fewSpares (o : SparOut) (k : Nat) : Bool :=
  [0, 16, 32, 40, 48].any fun lane =>
    decide ((laneGroup lane).2.2.1 < ((bondsOf o k).filter fun e => decide ((laneGroup e.1).1 = (laneGroup lane).1)).length)

/-- A pair's failing bonds are replaced, each with its spar notice (R292, R474, R519). A spare pair has no logical number
yet, so that the notice's index is open (assumption log 87). -/
def replaceBonds (s : State) (o : SparOut) (k : Nat) : State :=
  (bondsOf o k).foldl (fun s e =>
    let (s, d) := takeFree s
    let n := if k % 66 < 64 then 64 * (k / 66) + k % 66 else d.toNat % 256
    sparNotice { s with boot := { s.boot with bonds := s.boot.bonds ++ [(k, e)] } } n 1 e.2) s

/-- SPAR: the action ends with the courses on or dark, the bonds and slates tested, and the proposal written (R474,
R475). -/
def execSpar (o : SparOut) (s : State) : Out :=
  if !inAction s 5 || coursesBusy s ||
      (List.range 64).any fun q => decide (rf s .pwrqVstat q 61 3 ≠ 3 ∧ rf s .pwrqVstat q 61 3 ≠ 4) then
    .fault .notPossible
  else
    let bad := (tested s).filter fun k =>
      !s.boot.now_.getLsbD k && ((darkPairs s).contains k || o.badPairs.contains k || fewSpares o k || fewSlates s o k)
    let powered := (tested s).filter fun k => !(darkPairs s).contains k && !fewSpares o k
    let s := bad.foldl failPair (powered.foldl (fun s k => replaceBonds s o k)
      { s with boot := { s.boot with slates := o.badSlates, bonds := [] } })
    let s := (List.range 4).foldl (fun s d => rgSet s .bootSppropd d 0 (proposal s d)) s
    .next (actionDone s 5)

/-! ## HBM (R476) -/

/-- Training repairs the failing lanes of channel `ch` of stack `t` (R305, R314). How many there were is an open value: any
number from 0 to the spare lanes that the channel has left. HBMs_STAT.LREP counts them, saturating. -/
def repairChan (s : State) (t ch : Nat) : State :=
  let (s, f) := takeFree s
  let x := stack s t
  let old := tget 0 x.lanes ch
  let n := f.toNat % (Config.hbmSpares t ch - old + 1)
  rfSat (setStack s t { x with lanes := tput 0 x.lanes ch (old + n) }) .hbmsStat t 48 11 n

/-- Training of stack `t` repairs the failing lanes of its sixteen channels. -/
def repairLanes (s : State) (t : Nat) : State := (List.range 16).foldl (fun s ch => repairChan s t ch) s

/-- A stack has been trained: its read-back ends, and HBMs_RDQ packs no more (R68, R476). -/
def stackTrained (s : State) (t : Nat) : State := packReads (setStack s t { stack s t with trained := true }) t false

/-- FIRMWARE_TRAINING: a stack not trained locally within 2 s is trained by RFW at rate code 0-2, its failing lanes repaired;
code 3 says that it cannot be (R305, R306, R314, R476). -/
def execFirmwareTraining (t : Fin 8) (rate : Fin 4) (s : State) : Out :=
  if !inAction s 6 || (stack s t).trained then .fault .notPossible
  else
    let s := dueR s (s.boot.goAt.toNat + 2000000000)
    if rate.val = 3 then .next (bootFail s 0x30 t)
    else
      let s := rfSet (rfSet (stackTrained (repairLanes s t) t) .hbmsStat t 62 2 0) .hbmsStat t 60 2 rate.val
      .next (if rate.val = 0 then s else hbmNotice s t 4 rate.val)

/-- The rate code that the training saves hold for a stack; none in a cold start (R462, R476, R477). -/
def savedRate (s : State) (t : Nat) : Option Nat :=
  if rbit s .bootStat 0 56 then
    match validSave s with
    | some x => if tget 0 x.rates t = 0 then none else some (tget 0 x.rates t - 1)
    | none => none
  else none

/-- A stack trains locally: on the settings saved for it where the pattern check passes on them, which is open; else by a
full training at 6.4 Gb/s. Its failing lanes are repaired, and a stage below 6.4 is noticed (R305, R314, R476). -/
def trainStack (s : State) (t : Nat) : State :=
  let (s, d) := takeFree s
  let rate := match savedRate s t with
    | some r => if bitOf d 0 then r else 0
    | none => 0
  let s := rfSet (stackTrained (repairLanes s t) t) .hbmsStat t 60 2 rate
  if rate = 0 then s else hbmNotice s t 4 rate

/-- HBM: every stack is in RUN, those that RFW has not trained by their local state machines (R305, R476). -/
def execHbm (s : State) : Out :=
  if !inAction s 6 then .fault .notPossible
  else .next (actionDone ((List.range 8).foldl (fun s t => if (stack s t).trained then s else trainStack s t) s) 6)

/-! ## LINK and QUALIFY (R460, R478) -/

/-- LINK: every enabled fabric port is in QUAL, UP or HELD (R478). -/
def execLink (s : State) : Out :=
  let done := (List.range 12).all fun p =>
    !rbit s .lnkpCtl p 63 || decide (portState s p = 5 ∨ portState s p = 6 ∨ portState s p = 8)
  if !inAction s 7 || !done then .fault .notPossible else .next (actionDone s 7)

/-- The LINK limit in ns (R478): 0.5 s in a warm start. -/
def linkLimit (s : State) : Nat := if rbit s .bootStat 0 56 then 500000000 else rf s .bootCtl 0 48 16 * 100000000

/-- LINK_STEP_TIMEOUT: the limit has passed (R478). -/
def execLinkStepTimeout (s : State) : Out :=
  if !inAction s 7 then .fault .notPossible
  else .next (actionDone (dueR s (s.boot.goAt.toNat + linkLimit s)) 7)

/-- QUALIFY: no port that was in QUAL at entry remains in it (R460). -/
def execQualify (s : State) : Out :=
  let left := (List.range 12).any fun p => s.boot.qualAt.getLsbD p && decide (portState s p = 5)
  if !inAction s 8 || left then .fault .notPossible else .next (actionDone s 8)

/-! ## LOAD (R481-R485) -/

/-- The bay-space address of offset `o` of rafter `n`'s image (R116, R117). -/
def progAddr (s : State) (n o : Nat) : Nat := bayAddr n (offOf (rf s .rafnPbase n 12 28 * 4096) + o)

/-- Whether the image fits where RAFn_PBASE places it (R481). -/
def progFits (s : State) (n size : Nat) : Bool :=
  let a := rf s .rafnPbase n 12 28 * 4096
  let o := offOf a
  isBay a && decide (o + size ≤ 0x1800000) && !protectedRange s (bayAddr n o) 1 &&
  (decide (size = 0) || (decide (o + size ≤ 0x17C0000) &&
    (List.range ((o + size - 1) / 2 ^ 20 - o / 2 ^ 20 + 1)).all fun k => !isCacheWay s (o / 2 ^ 20 + k)))

/-- The next granule from `a` on that lies in a live bay (R481). -/
def liveGranule (s : State) (a : Nat) : Nat → Nat
  | 0 => a
  | f + 1 => if isBay a && retired s (bayOf a) then liveGranule s (a + 4096) f else a

/-- The granules of `n` pieces, from `a` on. -/
def granules (s : State) (a : Nat) : Nat → List Nat
  | 0 => []
  | n + 1 => let g := liveGranule s a 256; g :: granules s (g + 4096) n

/-- The pieces of an image. -/
def pieceCount (p : RProg) : Nat := (p.bytes.length + 4095) / 4096

/-- Piece `j` of an image. -/
def pieceBytes (p : RProg) (j : Nat) : List Byte := (p.bytes.drop (4096 * j)).take 4096

/-- Every piece, as (section, piece), in the order of the broadcast (R482). -/
def allPieces (s : State) : List (Nat × Nat) :=
  (s.boot.progs.zip (List.range s.boot.progs.length)).flatMap fun p =>
    (List.range (pieceCount p.1)).map fun j => (p.2, j)

/-- Section `k` among the RPROG sections. -/
def progAt (s : State) (k : Nat) : RProg := nth s.boot.progs k { sect := 0, mask := 0, pre := [], bytes := [], digest := 0 }

/-- The staging address of a piece: the place in `staged` of its number in the broadcast. -/
def stageAddr (s : State) (k j : Nat) : Nat :=
  nth s.boot.staged (((s.boot.progs.take k).map pieceCount).sum + j) 0

/-- A granule in scratch (R481). -/
def granuleOk (s : State) (g : Nat) : Bool := isBay g && !isCacheWay s (wayOf g)

/-- The Ridge controller stages section `k` as it reads it now, `got` its bytes: a digest or a granule that fails ends the
step (R481). -/
def stageSection (s : State) (k : Nat) (got : List Byte) : State × Option (Nat × Nat) :=
  let p := { progAt s k with pre := got.take 64, bytes := got.drop 64, meas := digestOf got }
  let from_ := match s.boot.staged.getLast? with
    | some g => g + 4096
    | none => s.boot.lstage.toNat / 4096 * 4096
  let gs := granules s from_ (pieceCount p)
  if p.meas ≠ p.digest then (s, some (0x40, p.sect))
  else if gs.any fun g => !granuleOk s g then (s, some (0x41, 0xFFFF))
  else
    let s := (gs.zip (List.range gs.length)).foldl (fun s e => devWrite s e.1 (pieceBytes p e.2) {}) s
    ({ s with boot := { s.boot with
      staged := s.boot.staged ++ gs, loadAt := s.boot.loadAt + 1, progs := s.boot.progs.set k p } }, none)

/-- The bytes of section `k`, its prefix with them. -/
def sectLen (s : State) (k : Nat) : Nat := 64 + (progAt s k).bytes.length

/-- Sections are staged from the flash, one after another (R481). -/
def stageFlash (s : State) : List Nat → State × Option (Nat × Nat)
  | [] => (s, none)
  | k :: ks =>
    match stageSection s k (slotRead s s.boot.slot (progAt s k).off (sectLen s k)) with
    | (s, none) => stageFlash s ks
    | (s, some e) => (s, some e)

/-- The next section is staged from the host image: it is fetched by MRDs, whose size is open, and taken once it has come
whole (R399, R400, R481, assumption log 69). -/
def stageHost (s : State) : State × Option (Nat × Nat) :=
  let k := s.boot.loadAt
  match fetchFor s 17 with
  | none =>
    let (s, d) := takeFree s
    (startFetch s 17 (s.boot.imgAt + BitVec.ofNat 64 (progAt s k).off) (sectLen s k) (Fin.ofNat 4096 d.toNat), none)
  | some x =>
    if (fetchBytes x).length = x.len then stageSection (setFetch s 17 none) k (fetchBytes x) else (s, none)

/-- Every section is staged, so that the broadcast may go on. -/
def loadStaged (s : State) : Bool := decide (s.boot.progs.length ≤ s.boot.loadAt)

/-- A named rafter whose image does not fit its place, at LOAD entry (R481). -/
def badPlace (s : State) : Option Nat :=
  (loading s).find? fun n => match progOf s n with
    | some (p, _) => !progFits s n p.bytes.length
    | none => false

/-- LOAD: placements are checked and the sections staged, from the flash or, in attended mode, section by section from the
host image (R481). -/
def execLoad (s : State) : Out :=
  if !inAction s 9 || loadStaged s then .fault .notPossible
  else
    match (if s.boot.loadAt = 0 ∧ fetchFor s 17 = none then badPlace s else none) with
    | some n => .next (bootFail s 0x41 n)
    | none =>
      let (s, bad) := if attended s then stageHost s
        else stageFlash s ((List.range s.boot.progs.length).drop s.boot.loadAt)
      match bad with
      | some (e, d) => .next (bootFail s e d)
      | none => .next { s with boot := { s.boot with goAt := nowR s } }

/-- A piece as its source holds it: the flash, or what LOAD fetched of the host image (R484, assumption log 69). -/
def sourcePiece (s : State) (k j : Nat) : List Byte :=
  let bs := pieceBytes (progAt s k) j
  if attended s then bs else slotRead s s.boot.slot ((progAt s k).off + 64 + 4096 * j) bs.length

/-- A piece read from its staging copy; one that is uncorrectable is written again from its source, once (R484). The
flag says whether it was uncorrectable. -/
def readPiece (s : State) (k j : Nat) : State × List Byte × Bool :=
  let bs := pieceBytes (progAt s k) j
  let a := stageAddr s k j
  let (s, got, bad) := devRead s a bs.length {}
  if bad.isNone then (s, got, false)
  else if s.boot.rewrote.contains (k, j) then (s, got, true)
  else
    let src := sourcePiece s k j
    (devWrite { s with boot := { s.boot with rewrote := s.boot.rewrote ++ [(k, j)] } } a src {}, src, true)

/-- The load engine of rafter `n` writes a piece (R482). -/
def takePiece (s : State) (n j : Nat) (bs : List Byte) : State :=
  let x := tget {} s.boot.loaders n
  let s := devWrite s (progAddr s n (4096 * j)) bs { raf := n }
  let x : Loader := { x with have_ := if x.have_.contains j then x.have_ else x.have_ ++ [j] }
  { s with boot := { s.boot with loaders := tput {} s.boot.loaders n x } }

/-- PIECE_BROADCAST: the next piece reaches every named rafter but those whose stop drops it or whose bay is in reset
(R482, R484). -/
def execPieceBroadcast (dropped : List Nat) (s : State) : Out :=
  match (allPieces s)[s.boot.cast]? with
  | none => .fault .notPossible
  | some (k, j) =>
    if !inAction s 9 || !loadStaged s || s.boot.marked then .fault .notPossible
    else
      let s := dueR s (s.boot.goAt.toNat + 2000)
      let (s, bs, _) := readPiece s k j
      let ns := (loading s).filter fun n =>
        decide ((progOf s n).map Prod.snd = some k) && !dropped.contains n && decide (bayState s n ≠ 1)
      let s := ns.foldl (fun s n => takePiece s n j bs) s
      .next { s with boot := { s.boot with cast := s.boot.cast + 1, goAt := nowR s } }

/-- The bytes that an image's place holds now, and whether a word of them is uncorrectable. -/
def imageNow (s : State) (n len : Nat) : State × List Byte × Bool :=
  (List.range ((len + 4095) / 4096)).foldl (fun x j =>
    let (s, bs, bad) := devRead x.1 (progAddr x.1 n (4096 * j)) (min 4096 (len - 4096 * j)) { raf := n }
    (s, x.2.1 ++ bs, x.2.2 || bad.isSome)) (s, [], false)

/-- A load engine checks its image: every piece held, and the digest (R483). The section's digest covers the prefix
(R491), so the prefix is hashed with it. -/
def checkImage (s : State) (n : Nat) : State :=
  match progOf s n with
  | none => s
  | some (p, _) =>
    let x := tget {} s.boot.loaders n
    if (List.range (pieceCount p)).all fun j => x.have_.contains j then
      let (s, bs, bad) := imageNow s n p.bytes.length
      let ok := !bad && decide (digestOf (p.pre ++ bs) = p.digest)
      let y : Loader := { x with ok := ok, have_ := if ok then x.have_ else [] }
      { s with boot := { s.boot with loaders := tput {} s.boot.loaders n y } }
    else s

/-- END_MARK: after the last piece each load engine checks its image (R482, R483). -/
def execEndMark (s : State) : Out :=
  if !inAction s 9 || !loadStaged s || s.boot.marked || decide (s.boot.cast < (allPieces s).length) then
    .fault .notPossible
  else
    let s := (loading s).foldl checkImage s
    .next (loadDone { s with boot := { s.boot with marked := true } })

/-- The pair of a rafter whose third repair round failed is retired at once (R483, R496). -/
def retireAtLoad (s : State) (n : Nat) : State :=
  let s := setBay s n { bay s n with reason := 6 }
  let s := finishRetire (modRaf s n fun r => { r with st := .retired }) n
  { s with boot := { s.boot with now_ := s.boot.now_ ||| BitVec.ofNat 264 (2 ^ (66 * (n / 64) + physOf s n)) } }

/-- REPAIR_ROUND_DONE: a load engine has fetched what it lacked and checks again; `ok` is false where the round failed by
itself. The third failed round retires the pair (R483). -/
def execRepairRoundDone (n : Fin 256) (ok : Bool) (s : State) : Out :=
  if !inAction s 9 || !s.boot.marked || !(unverified s).contains n.val then .fault .notPossible
  else
    match progOf s n with
    | none => .fault .notPossible
    | some (p, k) =>
      let x := tget {} s.boot.loaders n
      let (s, ue) := ((List.range (pieceCount p)).filter fun j => !x.have_.contains j).foldl (fun y j =>
        let (s, bs, bad) := readPiece y.1 k j
        if bad then (s, true) else (takePiece s n j bs, y.2)) (s, false)
      let s := if ok && !ue then checkImage s n else s
      let y := tget {} s.boot.loaders n
      if y.ok then .next (loadDone s)
      else
        let z : Loader := { y with rounds := x.rounds + 1 }
        let s := { s with boot := { s.boot with loaders := tput {} s.boot.loaders n z } }
        .next (loadDone (if 3 ≤ z.rounds then retireAtLoad s n else s))

/-! ## SEAL (R486, R487, R506, R522) -/

/-- A range wholly in scratch ways of live bays, outside the session table region (R38, R39). -/
def scratchOk (s : State) (a n : Nat) : Bool := decide (n = 0) || (decide (a + n ≤ 0x180000000) && !protectedRange s a n)

/-- A range wholly in HBM. -/
def hbmOk (a n : Nat) : Bool := decide (0x1000000000 ≤ a ∧ a + n ≤ 0x4000000000)

/-- Bytes of the KV pool and of the page-list area (R87). -/
def kvAreas (s : State) : (Nat × Nat) × (Nat × Nat) :=
  ((pageAddr s 0, 65536 * rf s .sesKvcount 0 0 22), (plistAddr s 0, 4194304 * rf s .sesKvmax 0 0 13))

/-- Check 0x01: KV pool, page lists, hot pool (R87). -/
def kvBad (s : State) : Bool :=
  let (kv, pl) := kvAreas s
  (decide (rf s .sesKvcount 0 0 22 ≠ 0) &&
    (!hbmOk kv.1 kv.2 || !hbmOk pl.1 pl.2 || overlaps kv.1 kv.2 pl.1 pl.2)) ||
  !scratchOk s (rf s .sesHotbase 0 0 17 * 65536) (rf s .sesHotcount 0 0 17 * 65536)

/-- A live bay in which a report area is misplaced: an offset past the session table's start, or a cache way (R195). -/
def reportBad (s : State) : Option Nat :=
  let o := rf s .gateRaoff 0 12 13 * 4096
  let bad := decide (0x17C0000 < o + 0x12000) ||
    (List.range ((o + 0x11FFF) / 2 ^ 20 - o / 2 ^ 20 + 1)).any fun k => isCacheWay s (o / 2 ^ 20 + k)
  if bad then (List.range 256).find? fun n => !retired s n else none

/-- Check 0x02: report areas and inbox pool (R195, R209). -/
def areasBad (s : State) : Option Nat :=
  match reportBad s with
  | some n => some n
  | none =>
    let n := rf s .gateIctl 0 16 14 * (rf s .gateIctl 0 0 12 * 64)
    if scratchOk s (rf s .gateIbase 0 6 34 * 64) n then none else some 0

/-- Check 0x04: the draft area (R211); the lowest class that verifies drafts. -/
def draftBad (s : State) : Option Nat :=
  match (List.range 8).find? fun c => decide (rf s .batcSpec c 0 4 ≠ 0) with
  | none => none
  | some c =>
    let (kv, pl) := kvAreas s
    let a := rf s .sesDrbase 0 7 33 * 128
    if decide (rf s .sesKvcount 0 0 22 ≠ 0) &&
        (overlaps a 0x8000000 kv.1 kv.2 || overlaps a 0x8000000 pl.1 pl.2) then some c else none

/-- Check 0x06: the thermal thresholds' order (R357). -/
def orderBad (s : State) : Bool :=
  let t := fun (lo : Nat) => rf s .thmTlim 0 lo 8
  let r := fun (lo : Nat) => rf s .thmRlim 0 lo 8
  !decide (t 56 < t 48 ∧ t 48 < t 40 ∧ t 40 < t 32 ∧ r 56 < r 48 ∧ r 48 < r 40)

/-- An enabled placement pair that breaks R370. -/
def placePairBad (s : State) (k : Nat) : Bool :=
  let v := plPair s k
  let a := lgrp s (fld v 48 14)
  let b := lgrp s (fld v 34 14)
  bitOf v 63 &&
    (if bitOf v 62 then !isExpertGroup s (fld v 48 14) || !isExpertGroup s (fld v 34 14)
     else !(a.valid && b.valid && a.first && b.first && decide (a.tokkv = b.tokkv)))

/-- An enabled stand-in entry that breaks R437. -/
def standInBad (s : State) (n : Nat) : Bool :=
  let v := tget 0 s.bat.sitab n
  let sub := fld v 48 8
  bitOf v 63 && (retired s sub || decide (sub = n) || s.ses.lgt.any fun d => d.2.valid && d.2.rafters.getLsbD sub)

/-- The first check of SEAL that fails, with the lowest failing index (R486, R506, R522). -/
def sealBad (s : State) : Option (Nat × Nat) :=
  let first := fun (n : Nat) (p : Nat → Bool) => (List.range n).find? p
  if kvBad s then some (0x01, 0)
  else match areasBad s with
  | some n => some (0x02, n)
  | none => match first 128 fun t => rbit s .gateThdrt t 63 && decide (rf s .gateThdrt t 33 12 = 0) with
    | some t => some (0x03, t)
    | none => match draftBad s with
      | some c => some (0x04, c)
      | none =>
        if 4718 < ((List.range 16).map (qosFloor s)).sum then some (0x05, 0)
        else if orderBad s then some (0x06, 0)
        else match first 256 (placePairBad s) with
        | some k => some (0x07, k)
        | none =>
          if rf s .vlyDevid 0 0 16 = 0xFFFF then some (0x08, 0)
          else match first 256 (standInBad s) with
          | some n => some (0x09, n)
          | none =>
            if !rbit s .secStat 0 62 then some (0x0A, 0)
            else if rbit s .monLctl 0 63 && !scratchOk s (logBase s) 0x20000 then some (0x0B, 0)
            else none

/-- The held notices are written in order, each with its own SEQ and TIME (R471, R487, R517, R523). -/
def releaseHeld (s : State) : State :=
  let ms := s.notices.held
  let s := rfSet { s with notices := { s.notices with held := [] } } .bootStat 0 8 8 0
  ms.zipIdx.foldl (fun s e => emitNotice (lostNotice s) (BitVec.ofNat 31 e.2) e.1) s

/-- The memory regulator starts: SUST, effective floors and targets, and every controller's first window (R316, R325). -/
def startRegulator (s : State) : State :=
  let s := qosUpdate s
  let ts := (List.range 16).map fun c => rf s .qosStatc c 48 16
  (List.range 8).foldl (fun s t => setStack s t { stack s t with window := nowT s, targets := ts, bytes := [] }) s

/-- Session slots, valley ends, balances and hold times at SEAL (R93, R97, R454, R487 step 2). The seeds of step 1 are
drawn as free values where they are used. -/
def sealTables (s : State) : State :=
  let (s, g) := takeFree s
  let (s, v) := takeFree s
  let ses : SesSt := { s.ses with sess := [], genBase := BitVec.ofNat 12 (1 + g.toNat % 4095) }
  let vly : VlySt := { s.vly with ends := [], vgenBase := BitVec.ofNat 16 (1 + v.toNat % 65535) }
  let s := { s with ses := ses, vly := vly, bat := { s.bat with bal := [], lastPub := nowT s } }
  (List.range 8).foldl (fun s c => rfSet s .batcClass c 0 12 (rf s .batcClass c 28 12)) s

/-- The bits of a register that count since SEAL (R298-R300, R304, R323, R404). -/
def sinceSeal : Reg → Word
  | .eccbStat => 0xFFFFFFFFFFFFFF00
  | .baybStat => 0x0000FFFF00000000
  | .baybScrub => 0x00000000FFFF0000
  | .lnkpErr | .qosRdbc | .qosWrbc => 0xFFFFFFFFFFFFFFFF
  | _ => 0

/-- The counts that run since SEAL start at 0. A register that `regs` does not list holds none. -/
def clearCounts (s : State) : State :=
  (s.regs.map Prod.fst).foldl (fun s o =>
    match regAt o with
    | some a => if sinceSeal a.reg = 0 then s else rgSet s a.reg a.i a.j (rg s a.reg a.i a.j &&& ~~~(sinceSeal a.reg))
    | none => s) s

/-- SEAL succeeds (R487); in autonomous mode the rollback counter is raised to the image's SVN (R505). -/
def sealDevice (s : State) : State :=
  let s := setErr (setBoot (clearCounts (sealTables s)) 11 3) 0 0
  let s := startRegulator (releaseHeld s)
  let s := rfSet (rfSet s .sysState 0 0 2 1) .sesStat 0 63 1 1
  if !attended s && decide (rollCount s < s.boot.svn.toNat) then
    { s with sec := { s.sec with roll := min 64 s.boot.svn.toNat } }
  else s

/-- SEAL: a check that fails leaves the step incomplete in attended mode and fails bring-up in autonomous mode (R464,
R486, R487). -/
def execSeal (s : State) : Out :=
  if !inAction s 10 then .fault .notPossible
  else
    match sealBad s with
    | none => .next (sealDevice s)
    | some (c, i) =>
      let d := 256 * c + i % 256
      .next (if attended s then setBoot (setErr s 0x50 d) 10 0 else bootFail s 0x50 d)

/-! ## The stage list (R467-R469) -/

/-- The entry of operation `op` that the Ridge controller carries out now; none while a wait runs. -/
def stageOp (s : State) (op : Nat) : Option StageEnt :=
  if booting s && s.boot.until_.isNone then (curEntry s).filter fun e => decide (e.op.toNat = op) else none

/-- The entry of a wait in progress, and its end. -/
def stageWait (s : State) (op : Nat) : Option (StageEnt × Word) :=
  if booting s then
    match curEntry s, s.boot.until_ with
    | some e, some t => if e.op.toNat = op then some (e, t) else none
    | _, _ => none
  else none

/-- The list goes on with the next entry. -/
def stageNext (s : State) : State := { s with boot := { s.boot with pos := s.boot.pos + 1, until_ := none } }

/-- A wait of TMO microseconds begins. -/
def stageHold (s : State) (e : StageEnt) : State :=
  { s with boot := { s.boot with until_ := some (nowR s + BitVec.ofNat 64 (1000 * e.tmo.toNat)) } }

/-- A stage-list write of a register, which follows R14 and R15. -/
def stageWrite (s : State) (a : BitVec 40) (v : Word) : State := regWrite s .stage a.toNat 8 v

/-- WRITE: reg[ADDR] := VALUE (R468). -/
def execWrite (s : State) : Out :=
  match stageOp s 1 with
  | some e => .next (stageNext (stageWrite s e.addr e.value))
  | none => .fault .notPossible

/-- RMW (R468). -/
def execRmw (s : State) : Out :=
  match stageOp s 2 with
  | some e =>
    let (s, v) := regRead8 s .stage e.addr.toNat
    .next (stageNext (stageWrite s e.addr ((v &&& ~~~e.mask) ||| (e.value &&& e.mask))))
  | none => .fault .notPossible

/-- WAIT: the wait begins (R468). -/
def execWait (s : State) : Out :=
  match stageOp s 3 with
  | some e => .next (stageHold s e)
  | none => .fault .notPossible

/-- WAIT_MET: (reg[ADDR] and MASK) = VALUE (R468). -/
def execWaitMet (s : State) : Out :=
  match stageWait s 3 with
  | some (e, _) =>
    let (s, v) := regRead8 s .stage e.addr.toNat
    if v &&& e.mask = e.value then .next (stageNext s) else .fault .notPossible
  | none => .fault .notPossible

/-- STAGE_TIMEOUT: TMO has passed with the condition unmet (R465, R468). -/
def execStageTimeout (s : State) : Out :=
  match stageWait s 3 with
  | some (e, t) =>
    if (regRead8 s .stage e.addr.toNat).2 &&& e.mask = e.value then .fault .notPossible
    else .next (bootFail (dueR s t.toNat) 0x23 s.boot.pos)
  | none => .fault .notPossible

/-- DELAY: the delay begins (R468). -/
def execDelay (s : State) : Out :=
  match stageOp s 4 with
  | some e => .next (stageHold s e)
  | none => .fault .notPossible

/-- DELAY_END: TMO microseconds have passed (R468). -/
def execDelayEnd (s : State) : Out :=
  match stageWait s 4 with
  | some (_, t) => .next (stageNext (dueR s t.toNat))
  | none => .fault .notPossible

/-- BLOCK: COUNT words from DATA, one after another, to one register (R468). -/
def execBlock (s : State) : Out :=
  match stageOp s 5 with
  | some e =>
    .next (stageNext ((List.range e.count.toNat).foldl (fun s i =>
      stageWrite s e.addr (dataWord s.boot.data (e.value.toNat + 8 * i))) s))
  | none => .fault .notPossible

/-- COPY: reg[ADDR] := reg[VALUE] and MASK (R468). -/
def execCopy (s : State) : Out :=
  match stageOp s 6 with
  | some e =>
    let (s, v) := regRead8 s .stage e.value.toNat
    .next (stageNext (stageWrite s e.addr (v &&& e.mask)))
  | none => .fault .notPossible

/-! ## After SEAL (R477, R495) -/

/-- The repair summary's content as it is to stand (R475, R495), with a write count. -/
def summaryBytes (s : State) (count : Nat) : List Byte :=
  let b := s.boot
  let head := natBytes b.sumSeq.toNat 8 ++ natBytes count 8 ++ natBytes (b.pairs ||| b.now_).toNat 40 ++
    natBytes b.cellMap.toNat 72 ++ natBytes b.sticky.length 8 ++
    b.sticky.flatMap fun l => natBytes (l.1 * 2 ^ 17 + l.2) 4
  let body := head ++ List.replicate (0x1FFF8 - head.length) 0
  body ++ natBytes (crc32 body).toNat 8

/-- The write count of the summary's copy `c`; 0 where it is not valid. -/
def sumCount (s : State) (c : Nat) : Nat := if sumValid s c then fnum s (0x20008 + 0x20000 * c) 8 else 0

/-- The summary is written to the copy with the lower count where it has changed, and the housekeeping controller's copy of
the failed cells follows (R472, R477). -/
def writeSummary (s : State) : State :=
  let same := match sumPick s with
    | some c => decide (summaryBytes s (sumCount s c) = fbytes s (0x20000 + 0x20000 * c) 0x20000)
    | none => false
  if same then s
  else
    let c := if sumCount s 0 ≤ sumCount s 1 then 0 else 1
    let s := fprogram s (0x20000 + 0x20000 * c) (summaryBytes s (max (sumCount s 0) (sumCount s 1) + 1))
    { s with boot := { s.boot with cellCopy := s.boot.cellMap } }

/-- The training saves are written to the copy with the lower count where they have changed (R477). -/
def writeSaves (s : State) : State :=
  let n := match bestSave s with
    | some x => x.count
    | none => 0
  let x : TrainSave := { count := n + 1, serial := s.fuses.serial, rates := s.boot.rates, ports := s.boot.portSet }
  let same := match bestSave s with
    | some y => decide (y = { x with count := n })
    | none => false
  if same then s
  else
    let c0 := match s.flash.save0 with | some y => y.count | none => 0
    let c1 := match s.flash.save1 with | some y => y.count | none => 0
    if c0 ≤ c1 then { s with flash := { s.flash with save0 := some x } }
    else { s with flash := { s.flash with save1 := some x } }

/-- TRAINING_SAVE_WRITE: in service RFW writes what has changed; fault records come first, and while one waits the state
stays as it is (R477, assumption log 17). -/
def execTrainingSaveWrite (s : State) : Out :=
  if !inService s || stopped s then .fault .notPossible
  else if s.flash.waiting.isEmpty then .next (writeSaves (writeSummary s)) else .next s

end Sys2Proof.Machine
end

