-- ==== Sys2Proof/Machine/Dispatch.lean ====
section
/-! DEFINITION. One arm per command: a direct call of its meaning. -/

namespace Sys2Proof.Machine

/-- The effect of a command on everything but the queue. -/
def exec (i : Instr) (s : State) : Host.Outcome State Fault Refusal :=
  match i with
  | .registerWrite m addr size v => Sys2Proof.Machine.execRegisterWrite m addr size v s
  | .unmappedRegisterRead m addr => Sys2Proof.Machine.execUnmappedRegisterRead m addr s
  | .rclFieldRead m addr => Sys2Proof.Machine.execRclFieldRead m addr s
  | .hubSpareWrite m d v => Sys2Proof.Machine.execHubSpareWrite m d v s
  | .batEtdataWrite m v => Sys2Proof.Machine.execBatEtdataWrite m v s
  | .batPldataWrite m v => Sys2Proof.Machine.execBatPldataWrite m v s
  | .batSidataWrite m v => Sys2Proof.Machine.execBatSidataWrite m v s
  | .gateEdataWrite m v => Sys2Proof.Machine.execGateEdataWrite m v s
  | .vlyRtdataWrite m v => Sys2Proof.Machine.execVlyRtdataWrite m v s
  | .sesRctlWrite m r v => Sys2Proof.Machine.execSesRctlWrite m r v s
  | .doorbell m r v => Sys2Proof.Machine.execDoorbell m r v s
  | .sesKheadWrite m r v => Sys2Proof.Machine.execSesKheadWrite m r v s
  | .monNctlWrite m v => Sys2Proof.Machine.execMonNctlWrite m v s
  | .monNheadWrite m v => Sys2Proof.Machine.execMonNheadWrite m v s
  | .secPdataWrite m v => Sys2Proof.Machine.execSecPdataWrite m v s
  | .provisioningGo m v => Sys2Proof.Machine.execProvisioningGo m v s
  | .provisioningDone => Sys2Proof.Machine.execProvisioningDone s
  | .secIddataRead m => Sys2Proof.Machine.execSecIddataRead m s
  | .monLdataRead m => Sys2Proof.Machine.execMonLdataRead m s
  | .peekdRead m n => Sys2Proof.Machine.execPeekdRead m n s
  | .ylmPeekdRead m n => Sys2Proof.Machine.execYlmPeekdRead m n s
  | .bootGoAction m step => Sys2Proof.Machine.execBootGoAction m step s
  | .bootGoFin m step => Sys2Proof.Machine.execBootGoFin m step s
  | .bootFwdataWrite m v => Sys2Proof.Machine.execBootFwdataWrite m v s
  | .flashWriteDone => Sys2Proof.Machine.execFlashWriteDone s
  | .release m n v => Sys2Proof.Machine.execRelease m n v s
  | .vopenOpen m n v => Sys2Proof.Machine.execVopenOpen m n v s
  | .vopenClose m n v => Sys2Proof.Machine.execVopenClose m n v s
  | .requal m p v => Sys2Proof.Machine.execRequal m p v s
  | .flush m q v => Sys2Proof.Machine.execFlush m q v s
  | .counterSelectWrite m addr v => Sys2Proof.Machine.execCounterSelectWrite m addr v s
  | .monFreezeWrite m v => Sys2Proof.Machine.execMonFreezeWrite m v s
  | .sesOpen r e => Sys2Proof.Machine.execSesOpen r e s
  | .sesAppend r e cut => Sys2Proof.Machine.execSesAppend r e cut s
  | .sesRun r e => Sys2Proof.Machine.execSesRun r e s
  | .sesPark r e => Sys2Proof.Machine.execSesPark r e s
  | .sesClose r e => Sys2Proof.Machine.execSesClose r e s
  | .sesMigrate r e => Sys2Proof.Machine.execSesMigrate r e s
  | .shardLoadData r e cut => Sys2Proof.Machine.execShardLoadData r e cut s
  | .shardLoadTable r e cut => Sys2Proof.Machine.execShardLoadTable r e cut s
  | .vlyOpen r e => Sys2Proof.Machine.execVlyOpen r e s
  | .vlyClose r e => Sys2Proof.Machine.execVlyClose r e s
  | .regRead r e => Sys2Proof.Machine.execRegRead r e s
  | .thawRafter r e => Sys2Proof.Machine.execThawRafter r e s
  | .thawChannel r e => Sys2Proof.Machine.execThawChannel r e s
  | .thawValley r e => Sys2Proof.Machine.execThawValley r e s
  | .retireRafter r e => Sys2Proof.Machine.execRetireRafter r e s
  | .retireChannel r e => Sys2Proof.Machine.execRetireChannel r e s
  | .retireValley r e => Sys2Proof.Machine.execRetireValley r e s
  | .attest r e => Sys2Proof.Machine.execAttest r e s
  | .attestReportDone => Sys2Proof.Machine.execAttestReportDone s
  | .illegalOp r e => Sys2Proof.Machine.execIllegalOp r e s
  | .add at_ w => Sys2Proof.Machine.execAdd at_ w s
  | .sub at_ w => Sys2Proof.Machine.execSub at_ w s
  | .and at_ w => Sys2Proof.Machine.execAnd at_ w s
  | .or at_ w => Sys2Proof.Machine.execOr at_ w s
  | .xor at_ w => Sys2Proof.Machine.execXor at_ w s
  | .shl at_ w => Sys2Proof.Machine.execShl at_ w s
  | .shr at_ w => Sys2Proof.Machine.execShr at_ w s
  | .sra at_ w => Sys2Proof.Machine.execSra at_ w s
  | .mul at_ w => Sys2Proof.Machine.execMul at_ w s
  | .divs at_ w => Sys2Proof.Machine.execDivs at_ w s
  | .divu at_ w => Sys2Proof.Machine.execDivu at_ w s
  | .rems at_ w => Sys2Proof.Machine.execRems at_ w s
  | .remu at_ w => Sys2Proof.Machine.execRemu at_ w s
  | .slt at_ w => Sys2Proof.Machine.execSlt at_ w s
  | .sltu at_ w => Sys2Proof.Machine.execSltu at_ w s
  | .seq at_ w => Sys2Proof.Machine.execSeq at_ w s
  | .sel at_ w => Sys2Proof.Machine.execSel at_ w s
  | .addi at_ w => Sys2Proof.Machine.execAddi at_ w s
  | .subi at_ w => Sys2Proof.Machine.execSubi at_ w s
  | .andi at_ w => Sys2Proof.Machine.execAndi at_ w s
  | .ori at_ w => Sys2Proof.Machine.execOri at_ w s
  | .xori at_ w => Sys2Proof.Machine.execXori at_ w s
  | .shli at_ w => Sys2Proof.Machine.execShli at_ w s
  | .shri at_ w => Sys2Proof.Machine.execShri at_ w s
  | .srai at_ w => Sys2Proof.Machine.execSrai at_ w s
  | .slti at_ w => Sys2Proof.Machine.execSlti at_ w s
  | .sltui at_ w => Sys2Proof.Machine.execSltui at_ w s
  | .seqi at_ w => Sys2Proof.Machine.execSeqi at_ w s
  | .li at_ w ext => Sys2Proof.Machine.execLi at_ w ext s
  | .time at_ w => Sys2Proof.Machine.execTime at_ w s
  | .rafid at_ w => Sys2Proof.Machine.execRafid at_ w s
  | .ld at_ w => Sys2Proof.Machine.execLd at_ w s
  | .st at_ w => Sys2Proof.Machine.execSt at_ w s
  | .beq at_ w => Sys2Proof.Machine.execBeq at_ w s
  | .bne at_ w => Sys2Proof.Machine.execBne at_ w s
  | .blt at_ w => Sys2Proof.Machine.execBlt at_ w s
  | .bge at_ w => Sys2Proof.Machine.execBge at_ w s
  | .bltu at_ w => Sys2Proof.Machine.execBltu at_ w s
  | .bgeu at_ w => Sys2Proof.Machine.execBgeu at_ w s
  | .jmp at_ w => Sys2Proof.Machine.execJmp at_ w s
  | .jal at_ w => Sys2Proof.Machine.execJal at_ w s
  | .jr at_ w => Sys2Proof.Machine.execJr at_ w s
  | .jalr at_ w => Sys2Proof.Machine.execJalr at_ w s
  | .endp at_ w => Sys2Proof.Machine.execEndp at_ w s
  | .endpComplete n => Sys2Proof.Machine.execEndpComplete n s
  | .rtt at_ w => Sys2Proof.Machine.execRtt at_ w s
  | .frz at_ w => Sys2Proof.Machine.execFrz at_ w s
  | .brk at_ w => Sys2Proof.Machine.execBrk at_ w s
  | .ylaunch at_ w => Sys2Proof.Machine.execYlaunch at_ w s
  | .yealmStart n => Sys2Proof.Machine.execYealmStart n s
  | .yealmRetire n y => Sys2Proof.Machine.execYealmRetire n y s
  | .ywait at_ w => Sys2Proof.Machine.execYwait at_ w s
  | .ywaitComplete n => Sys2Proof.Machine.execYwaitComplete n s
  | .ykill at_ w => Sys2Proof.Machine.execYkill at_ w s
  | .slate at_ w => Sys2Proof.Machine.execSlate at_ w s
  | .slateCommandStart n sl => Sys2Proof.Machine.execSlateCommandStart n sl s
  | .kSlice n sl => Sys2Proof.Machine.execKSlice n sl s
  | .dwellEnd q => Sys2Proof.Machine.execDwellEnd q s
  | .slateCommandComplete n sl => Sys2Proof.Machine.execSlateCommandComplete n sl s
  | .str at_ w => Sys2Proof.Machine.execStr at_ w s
  | .strsm at_ w => Sys2Proof.Machine.execStrsm at_ w s
  | .stclr at_ w => Sys2Proof.Machine.execStclr at_ w s
  | .streamDescriptorStart n c => Sys2Proof.Machine.execStreamDescriptorStart n c s
  | .streamDataReturn n c => Sys2Proof.Machine.execStreamDataReturn n c s
  | .streamDescriptorEnd n c => Sys2Proof.Machine.execStreamDescriptorEnd n c s
  | .cadd at_ w => Sys2Proof.Machine.execCadd at_ w s
  | .caddPerform n => Sys2Proof.Machine.execCaddPerform n s
  | .cwatch at_ w => Sys2Proof.Machine.execCwatch at_ w s
  | .poll at_ w => Sys2Proof.Machine.execPoll at_ w s
  | .polli at_ w ext => Sys2Proof.Machine.execPolli at_ w ext s
  | .nclr at_ w => Sys2Proof.Machine.execNclr at_ w s
  | .pollWake n => Sys2Proof.Machine.execPollWake n s
  | .pollTimeout n => Sys2Proof.Machine.execPollTimeout n s
  | .fadd at_ w => Sys2Proof.Machine.execFadd at_ w s
  | .fmul at_ w => Sys2Proof.Machine.execFmul at_ w s
  | .fma at_ w => Sys2Proof.Machine.execFma at_ w s
  | .fmin at_ w => Sys2Proof.Machine.execFmin at_ w s
  | .fmax at_ w => Sys2Proof.Machine.execFmax at_ w s
  | .fcmp at_ w => Sys2Proof.Machine.execFcmp at_ w s
  | .fcvt at_ w => Sys2Proof.Machine.execFcvt at_ w s
  | .fsfu at_ w => Sys2Proof.Machine.execFsfu at_ w s
  | .yld at_ w => Sys2Proof.Machine.execYld at_ w s
  | .yst at_ w => Sys2Proof.Machine.execYst at_ w s
  | .yatom at_ w => Sys2Proof.Machine.execYatom at_ w s
  | .ycas at_ w => Sys2Proof.Machine.execYcas at_ w s
  | .yswap at_ w => Sys2Proof.Machine.execYswap at_ w s
  | .yfence at_ w => Sys2Proof.Machine.execYfence at_ w s
  | .yshfl at_ w => Sys2Proof.Machine.execYshfl at_ w s
  | .yred at_ w => Sys2Proof.Machine.execYred at_ w s
  | .yrand at_ w => Sys2Proof.Machine.execYrand at_ w s
  | .ybar at_ w => Sys2Proof.Machine.execYbar at_ w s
  | .yexit at_ w => Sys2Proof.Machine.execYexit at_ w s
  | .passTake n => Sys2Proof.Machine.execPassTake n s
  | .batcherSelect => Sys2Proof.Machine.execBatcherSelect s
  | .holdDue => Sys2Proof.Machine.execHoldDue s
  | .energyPublication => Sys2Proof.Machine.execEnergyPublication s
  | .publicationGap => Sys2Proof.Machine.execPublicationGap s
  | .placementRound => Sys2Proof.Machine.execPlacementRound s
  | .budgetReport => Sys2Proof.Machine.execBudgetReport s
  | .commitPoint slot => Sys2Proof.Machine.execCommitPoint slot s
  | .hotPageWritebackDone slot => Sys2Proof.Machine.execHotPageWritebackDone slot s
  | .sessionPagesReleased slot => Sys2Proof.Machine.execSessionPagesReleased slot s
  | .migrationPacket v => Sys2Proof.Machine.execMigrationPacket v s
  | .finalCommitRecord v => Sys2Proof.Machine.execFinalCommitRecord v s
  | .migrationAcceptance slot => Sys2Proof.Machine.execMigrationAcceptance slot s
  | .migrationRefusal slot => Sys2Proof.Machine.execMigrationRefusal slot s
  | .gateReport => Sys2Proof.Machine.execGateReport s
  | .gateDispatchReceived v => Sys2Proof.Machine.execGateDispatchReceived v s
  | .gateReturnReceived v => Sys2Proof.Machine.execGateReturnReceived v s
  | .gateReturnTimeout tag => Sys2Proof.Machine.execGateReturnTimeout tag s
  | .subarrayAccess b sub spar purlin => Sys2Proof.Machine.execSubarrayAccess b sub spar purlin s
  | .correctionWriteback b sub => Sys2Proof.Machine.execCorrectionWriteback b sub s
  | .cacheFillReturn b bytes ue => Sys2Proof.Machine.execCacheFillReturn b bytes ue s
  | .scrubLine b sub => Sys2Proof.Machine.execScrubLine b sub s
  | .lateScrub b => Sys2Proof.Machine.execLateScrub b s
  | .bucketLeak => Sys2Proof.Machine.execBucketLeak s
  | .bayWatchdog b => Sys2Proof.Machine.execBayWatchdog b s
  | .bayInternalError b => Sys2Proof.Machine.execBayInternalError b s
  | .baySelfCheckDone b pass => Sys2Proof.Machine.execBaySelfCheckDone b pass s
  | .bayResetOverrun b => Sys2Proof.Machine.execBayResetOverrun b s
  | .bayDrainComplete b => Sys2Proof.Machine.execBayDrainComplete b s
  | .retirementComplete n => Sys2Proof.Machine.execRetirementComplete n s
  | .purlinFlitArrival stop f => Sys2Proof.Machine.execPurlinFlitArrival stop f s
  | .parityRefusal h => Sys2Proof.Machine.execParityRefusal h s
  | .controlHandshakeError n => Sys2Proof.Machine.execControlHandshakeError n s
  | .laneTestEnd n bonds => Sys2Proof.Machine.execLaneTestEnd n bonds s
  | .sparResponse n idx withdrawn => Sys2Proof.Machine.execSparResponse n idx withdrawn s
  | .eavesLockLoss e => Sys2Proof.Machine.execEavesLockLoss e s
  | .eavesTakeoverComplete e => Sys2Proof.Machine.execEavesTakeoverComplete e s
  | .timeBeacon => Sys2Proof.Machine.execTimeBeacon s
  | .beaconTimeout reader => Sys2Proof.Machine.execBeaconTimeout reader s
  | .referenceLoss => Sys2Proof.Machine.execReferenceLoss s
  | .referenceReturn => Sys2Proof.Machine.execReferenceReturn s
  | .holdoverExpiry => Sys2Proof.Machine.execHoldoverExpiry s
  | .monitorReading q at_ margin stepPs => Sys2Proof.Machine.execMonitorReading q at_ margin stepPs s
  | .monitorFail q at_ => Sys2Proof.Machine.execMonitorFail q at_ s
  | .queueWordWrite q w parity endm vb => Sys2Proof.Machine.execQueueWordWrite q w parity endm vb s
  | .queueWordRead q => Sys2Proof.Machine.execQueueWordRead q s
  | .packItem q item endm => Sys2Proof.Machine.execPackItem q item endm s
  | .queueTimeout q => Sys2Proof.Machine.execQueueTimeout q s
  | .hbmRequestAccept st r => Sys2Proof.Machine.execHbmRequestAccept st r s
  | .hbmSchedule st pc => Sys2Proof.Machine.execHbmSchedule st pc s
  | .hbmReadReturn st pc parityBad ue ce tctl => Sys2Proof.Machine.execHbmReadReturn st pc parityBad ue ce tctl s
  | .hbmWriteAge st pc => Sys2Proof.Machine.execHbmWriteAge st pc s
  | .perBankRefresh st pc => Sys2Proof.Machine.execPerBankRefresh st pc s
  | .hbmPowerDown st pc => Sys2Proof.Machine.execHbmPowerDown st pc s
  | .hbmWindowBoundary st => Sys2Proof.Machine.execHbmWindowBoundary st s
  | .hbmRetrainDone st ok => Sys2Proof.Machine.execHbmRetrainDone st ok s
  | .feedUndervoltage f v => Sys2Proof.Machine.execFeedUndervoltage f v s
  | .feedOvervoltage f v => Sys2Proof.Machine.execFeedOvervoltage f v s
  | .feedReclose f v => Sys2Proof.Machine.execFeedReclose f v s
  | .phaseFailure ph => Sys2Proof.Machine.execPhaseFailure ph s
  | .busCollapse vbus => Sys2Proof.Machine.execBusCollapse vbus s
  | .cellFailure c cause => Sys2Proof.Machine.execCellFailure c cause s
  | .powerOnRequest q => Sys2Proof.Machine.execPowerOnRequest q s
  | .deferTimeout => Sys2Proof.Machine.execDeferTimeout s
  | .headerStageClose => Sys2Proof.Machine.execHeaderStageClose s
  | .courseLive q => Sys2Proof.Machine.execCourseLive q s
  | .voltageLoopTick pmod meas => Sys2Proof.Machine.execVoltageLoopTick pmod meas s
  | .courseIdle q => Sys2Proof.Machine.execCourseIdle q s
  | .hkChannelRead r => Sys2Proof.Machine.execHkChannelRead r s
  | .housekeepingLapEnd => Sys2Proof.Machine.execHousekeepingLapEnd s
  | .faultRecordProgrammed => Sys2Proof.Machine.execFaultRecordProgrammed s
  | .sectorEraseDone => Sys2Proof.Machine.execSectorEraseDone s
  | .slateSweepStart n sl => Sys2Proof.Machine.execSlateSweepStart n sl s
  | .slateSweepEnd n sl pass => Sys2Proof.Machine.execSlateSweepEnd n sl pass s
  | .frameReceived p f => Sys2Proof.Machine.execFrameReceived p f s
  | .flitTransmit p => Sys2Proof.Machine.execFlitTransmit p s
  | .nakRepeat p => Sys2Proof.Machine.execNakRepeat p s
  | .nak p busy sq => Sys2Proof.Machine.execNak p busy sq s
  | .notReady p us => Sys2Proof.Machine.execNotReady p us s
  | .portPauseEnd p => Sys2Proof.Machine.execPortPauseEnd p s
  | .depart p w1 w2 w3 => Sys2Proof.Machine.execDepart p w1 w2 w3 s
  | .txeq p arg => Sys2Proof.Machine.execTxeq p arg s
  | .retrainDone p ok => Sys2Proof.Machine.execRetrainDone p ok s
  | .linkLockLoss p => Sys2Proof.Machine.execLinkLockLoss p s
  | .detect p => Sys2Proof.Machine.execDetect p s
  | .level p gen maxlvl dev pport => Sys2Proof.Machine.execLevel p gen maxlvl dev pport s
  | .eq p => Sys2Proof.Machine.execEq p s
  | .align p => Sys2Proof.Machine.execAlign p s
  | .qual p => Sys2Proof.Machine.execQual p s
  | .trainingTimeout p => Sys2Proof.Machine.execTrainingTimeout p s
  | .rrd tag addr => Sys2Proof.Machine.execRrd tag addr s
  | .rwr addr v => Sys2Proof.Machine.execRwr addr v s
  | .mcpl tag bytes last => Sys2Proof.Machine.execMcpl tag bytes last s
  | .mrdTimeout tag => Sys2Proof.Machine.execMrdTimeout tag s
  | .mrdRetry tag => Sys2Proof.Machine.execMrdRetry tag s
  | .connect c => Sys2Proof.Machine.execConnect c s
  | .connack c => Sys2Proof.Machine.execConnack c s
  | .connectRepeat v => Sys2Proof.Machine.execConnectRepeat v s
  | .joinTimeout v => Sys2Proof.Machine.execJoinTimeout v s
  | .credit c => Sys2Proof.Machine.execCredit c s
  | .done c => Sys2Proof.Machine.execDone c s
  | .gap c => Sys2Proof.Machine.execGap c s
  | .close c => Sys2Proof.Machine.execClose c s
  | .refuse c => Sys2Proof.Machine.execRefuse c s
  | .creditTimer v => Sys2Proof.Machine.execCreditTimer v s
  | .valleyRto v => Sys2Proof.Machine.execValleyRto v s
  | .valleyPacketSend v => Sys2Proof.Machine.execValleyPacketSend v s
  | .streamPacket p => Sys2Proof.Machine.execStreamPacket p s
  | .put p => Sys2Proof.Machine.execPut p s
  | .get p => Sys2Proof.Machine.execGet p s
  | .getdata p => Sys2Proof.Machine.execGetdata p s
  | .reducePacket p => Sys2Proof.Machine.execReducePacket p s
  | .departRepeat => Sys2Proof.Machine.execDepartRepeat s
  | .resetRelease => Sys2Proof.Machine.execResetRelease s
  | .deviceReset => Sys2Proof.Machine.execDeviceReset s
  | .standbyUp => Sys2Proof.Machine.execStandbyUp s
  | .feedSwitchClose f v => Sys2Proof.Machine.execFeedSwitchClose f v s
  | .feed failed busOk path0 path1 => Sys2Proof.Machine.execFeed failed busOk path0 path1 s
  | .feedRetry => Sys2Proof.Machine.execFeedRetry s
  | .ridge locked badFuse idok => Sys2Proof.Machine.execRidge locked badFuse idok s
  | .image cut => Sys2Proof.Machine.execImage cut s
  | .truss o => Sys2Proof.Machine.execTruss o s
  | .eavesTrainTimeout e => Sys2Proof.Machine.execEavesTrainTimeout e s
  | .spar o => Sys2Proof.Machine.execSpar o s
  | .hbm => Sys2Proof.Machine.execHbm s
  | .firmwareTraining st rate => Sys2Proof.Machine.execFirmwareTraining st rate s
  | .link => Sys2Proof.Machine.execLink s
  | .linkStepTimeout => Sys2Proof.Machine.execLinkStepTimeout s
  | .qualify => Sys2Proof.Machine.execQualify s
  | .load => Sys2Proof.Machine.execLoad s
  | .pieceBroadcast dropped => Sys2Proof.Machine.execPieceBroadcast dropped s
  | .endMark => Sys2Proof.Machine.execEndMark s
  | .repairRoundDone n ok => Sys2Proof.Machine.execRepairRoundDone n ok s
  | .seal => Sys2Proof.Machine.execSeal s
  | .write => Sys2Proof.Machine.execWrite s
  | .rmw => Sys2Proof.Machine.execRmw s
  | .wait => Sys2Proof.Machine.execWait s
  | .waitMet => Sys2Proof.Machine.execWaitMet s
  | .stageTimeout => Sys2Proof.Machine.execStageTimeout s
  | .delay => Sys2Proof.Machine.execDelay s
  | .delayEnd => Sys2Proof.Machine.execDelayEnd s
  | .block => Sys2Proof.Machine.execBlock s
  | .copy => Sys2Proof.Machine.execCopy s
  | .trainingSaveWrite => Sys2Proof.Machine.execTrainingSaveWrite s
  | .rollbackBitBlown fuses => Sys2Proof.Machine.execRollbackBitBlown fuses s
  | .rbgHealthFail => Sys2Proof.Machine.execRbgHealthFail s
  | .sidebandRefresh inlet outlet conv flash => Sys2Proof.Machine.execSidebandRefresh inlet outlet conv flash s
  | .smbStatus => Sys2Proof.Machine.execSmbStatus s
  | .smbFeedCause => Sys2Proof.Machine.execSmbFeedCause s
  | .smbFeedAttempts => Sys2Proof.Machine.execSmbFeedAttempts s
  | .smbFeed0Voltage => Sys2Proof.Machine.execSmbFeed0Voltage s
  | .smbFeed1Voltage => Sys2Proof.Machine.execSmbFeed1Voltage s
  | .smbModulePower => Sys2Proof.Machine.execSmbModulePower s
  | .smbFaultRecord => Sys2Proof.Machine.execSmbFaultRecord s
  | .smbBlockSelect n => Sys2Proof.Machine.execSmbBlockSelect n s
  | .smbTemperatures => Sys2Proof.Machine.execSmbTemperatures s
  | .smbDeviceId => Sys2Proof.Machine.execSmbDeviceId s
  | .smbFru => Sys2Proof.Machine.execSmbFru s
  | .bypass => Sys2Proof.Machine.execBypass s
  | .idcode => Sys2Proof.Machine.execIdcode s
  | .samplePreload => Sys2Proof.Machine.execSamplePreload s
  | .extest => Sys2Proof.Machine.execExtest s
  | .clamp => Sys2Proof.Machine.execClamp s
  | .highz => Sys2Proof.Machine.execHighz s
  | .hbmWriteParityFailure st pc => Sys2Proof.Machine.execHbmWriteParityFailure st pc s
  | .hbmPhyFailure st => Sys2Proof.Machine.execHbmPhyFailure st s
  | .codewordLockLoss p lane => Sys2Proof.Machine.execCodewordLockLoss p lane s

end Sys2Proof.Machine
end

