-- ==== Sys2Proof/Machine/Fec.lean ====
section
/-! DEFINITION. What a port drives onto its lanes: the RS(544,514) code of IEEE 802.3 over the frames it sends, the dealing of
symbols to lanes, and the PAM4 mapping (R372, R373). What the receiving FEC found of a set (symbols corrected, codewords
uncorrectable) comes with FRAME_RECEIVED. The field, the generator and the order of bits are those of IEEE 802.3, which R373
names and does not repeat (PRESUMED, assumption log 88). -/

namespace Sys2Proof.Machine

/-- A symbol of the code: an element of GF(2^10), with x^10 + x^3 + 1. -/
abbrev Sym := BitVec 10

/-- An element times x. -/
def symShift (a : Sym) : Sym := if a.getLsbD 9 then (a <<< 1) ^^^ 0x009 else a <<< 1

/-- The product of two elements. -/
def symMul (a b : Sym) : Sym :=
  ((List.range 10).foldl (fun (x : Sym × Sym) i => (if b.getLsbD i then x.1 ^^^ x.2 else x.1, symShift x.2)) (0, a)).1

/-- A polynomial, highest coefficient first, times (x + r). -/
def polyRoot (g : List Sym) (r : Sym) : List Sym :=
  List.zipWith (fun a b => a ^^^ symMul b r) (g ++ [0]) (0 :: g)

/-- The powers 0-29 of the field's generator x. -/
def rsRoots : List Sym := (List.range 30).map fun i => (List.range i).foldl (fun a _ => symShift a) 1

/-- The generator polynomial, with the 30 roots of `rsRoots`, highest coefficient first. -/
def rsGen : List Sym := rsRoots.foldl polyRoot [1]

/-- One step of the division by a generator `g` without its leading 1: `reg` is the remainder so far, `d` the next symbol. -/
def rsStep (g reg : List Sym) (d : Sym) : List Sym :=
  let f := d ^^^ nth reg 0 0
  List.zipWith (fun a b => a ^^^ symMul f b) (reg.drop 1 ++ [0]) g

/-- The 30 parity symbols of a message. -/
def rsParity (msg : List Sym) : List Sym :=
  let g := rsGen.drop 1
  msg.foldl (rsStep g) (List.replicate 30 0)

/-- The bytes of a frame: its 32 words, first byte lowest, and its tag. -/
def frameBytes (f : List Word × Byte) : List Byte := wordsBytes f.1 ++ [f.2]

/-- Symbol `j` of a set's bits, lowest bit first; the bits are a number, bit 0 first. -/
def symAt (bits j : Nat) : Sym := BitVec.ofNat 10 (bits / 2 ^ (10 * j))

/-- The message symbols that lane `l` of `n` lanes carries: every symbol j with j mod n = l (R373). -/
def laneMsg (bits n l : Nat) : List Sym := (List.range 514).map fun i => symAt bits (n * i + l)

/-- The codeword set of a set's frames: one codeword of 544 symbols for each of `n` lanes (R373). -/
def codewordSet (fs : List (List Word × Byte)) (n : Nat) : List (List Sym) :=
  let bits := bytesNat (fs.flatMap frameBytes)
  (List.range n).map fun l => let m := laneMsg bits n l; m ++ rsParity m

/-- Codeword set `k` of the frames that port `p` has sent, lane by lane (R372, R373); none before it is complete. -/
def setSent (s : State) (p k : Nat) : Option (List (List Sym)) :=
  let m := setFrames s p
  let fs := ((port s p).out.drop (m * k)).take m
  if fs.length = m then some (codewordSet fs (if portLevel s p = 1 then 4 else 8)) else none

/-- The PAM4 levels of a symbol, lowest two bits first, in Gray mapping without precoding (R373). -/
def pam4 (a : Sym) : List (Fin 4) :=
  (List.range 5).map fun i =>
    match fld (a.setWidth 64) (2 * i) 2 with
    | 0 => 0
    | 1 => 1
    | 3 => 2
    | _ => 3

end Sys2Proof.Machine
end

