-- ==== Sys2Proof/Safety.lean ====
section
/-! DEFINITION. What counts as a safe step and a safe run of the block. -/

namespace Sys2Proof

open Machine

/-- A step that answers a next state: no fault and no refusal. -/
def safeStep (s : State) : Bool :=
  match step s with
  | .next _ => true
  | .fault _ => false
  | .refused _ => false

/-- The state after a step that answers one. -/
def after (s : State) : Option State :=
  match step s with
  | .next t => some t
  | .fault _ => none
  | .refused _ => none

/-- A run that carries out every command that waits, each with a next state. -/
def safeRun : Nat → State → Bool
  | 0, _ => true
  | k + 1, s => match after s with
    | some t => safeRun k t
    | none => false

end Sys2Proof
end

