-- ==== Sys2Proof/Certificates/Slice0/Obligations.lean ====
section
/-! DEFINITION. The statements for the provers. Each is a Prop named in OBLIGATIONS.json; the few helper
definitions name what several statements share. -/

open Sys2Proof Sys2Proof.Machine

namespace Sys2Proof.Claim

/-- A master whose write of the register at a device address the block takes: a rafter may write only RW
registers of its own block (R528). -/
def mayWrite (m : Master) (addr : Nat) : Bool :=
  match m with
  | .rafter n => isRegs addr && ownRw n.val ((addr - 0xF000000000) / 8 * 8)
  | _ => true

/-- The register that an 8-byte-aligned device address names, if any. -/
def named (addr : Nat) : Option RegAt := if isRegs addr then regAt (addr - 0xF000000000) else none

/-- Every byte of bay space and HBM reads as before. -/
def sameBytes (s t : State) : Prop := ∀ a, readByte t.mem a = readByte s.mem a

end Sys2Proof.Claim

open Sys2Proof.Claim

/-! ## The block -/

/-- The step carries out the command at the front of the queue, first in, first out, with the rest of the queue; an
empty queue lets the duration counter count while the Ridge course is powered, and the beacons with it, each of which arrives
within 64 ns of the multiple of 64 that it carries (R54); it does nothing else. The idle step is the model's choice (assumption log 19). -/
def Obligations.StepRunsFrontCommand : Prop :=
  (∀ (c : Instr) (rest : List Instr) (s : State), s.pending = c :: rest → step s = exec c { s with pending := rest }) ∧
  (∀ s : State, s.pending = [] → s.boot.ridgeOn = true →
    step s = .next (advanceTo s (s.time.dcnt.toNat + 1))) ∧
  (∀ (t : Nat) (s : State), t < 2 ^ 64 → s.time.dcnt.toNat ≤ t →
    advanceTo s t = { s with time := { s.time with dcnt := (advanceTo s t).time.dcnt, beacon := (advanceTo s t).time.beacon } } ∧
    (nowR (advanceTo s t)).toNat = t ∧ t < (nowT (advanceTo s t)).toNat + 128 ∧
    (nowT (advanceTo s t)).toNat = max (nowT s).toNat ((t - 64) / 64 * 64)) ∧
  (∀ s : State, s.pending = [] → s.boot.ridgeOn = false → step s = .next s)

/-- What reset leaves: every register at its reset value, no byte of memory listed, no command waiting, every session
slot FREE, every rafter IDLE. The values that the spec does not state are the model's (assumption log 1-8). -/
def Obligations.ResetState : Prop :=
  (∀ r i j, rg State.reset r i j = regReset r i) ∧ (∀ a, readByte State.reset.mem a = 0) ∧
  Memory.wf State.reset.mem = true ∧ State.reset.pending = [] ∧ nowR State.reset = 0 ∧
  bootStep State.reset = 1 ∧ inService State.reset = false ∧
  (∀ i, (ses State.reset i).st = .free) ∧ (∀ n, (raf State.reset n).st = .idle) ∧
  (∀ i, (vend State.reset i).st = .free) ∧ (∀ q, (queue State.reset q).words = [])

/-! ## Register commands -/

/-- R15: a read of an unmapped register address returns all ones and writes an access notice of kind 1; a write to one
is discarded with an access notice of kind 2. An address outside register space that R11 leaves unmapped is judged as R126
gives for a rafter; for the host and the stage list, of which R126 does not speak, the model answers as in register space
(assumption log 62). Register writes that change no register (R14, R15, R526, R528): after SEAL, a write to a register that holds SW
fields and no RW, W1C or WO field gives an access notice of kind 3; a write narrower than 8 bytes within a register one of
kind 5; a write by a running rafter of anything in register space but an RW register of its own block traps with cause
PROTECTED. -/
def Obligations.RegisterAccessRefused : Prop :=
  (∀ (m : Master) (addr : BitVec 40) (s : State), named addr.toNat = none → ((∀ n, m ≠ .rafter n) ∨ isRegs addr.toNat = true) →
    regWaits s m addr.toNat = false →
    exec (.unmappedRegisterRead m addr) s =
      .next { accessNotice s m 1 addr.toNat 0 with rdata := 0xFFFFFFFFFFFFFFFF } ∧
    ∀ (size : Nat) (v : Word), sizeOk size = true → (∀ n, m ≠ .rafter n) →
      named (if size = 8 then addr.toNat else addr.toNat / 8 * 8) = none →
      exec (.registerWrite m addr size v) s = .next (accessNotice s m 2 addr.toNat v)) ∧
  (∀ (n : Fin 256) (addr : BitVec 40) (size : Nat) (v : Word) (s : State), isRegs addr.toNat = false → sizeOk size = true →
    (checkAccess s n addr.toNat 8 false ≠ .ok →
      exec (.unmappedRegisterRead (.rafter n) addr) s = .next (regTrap s n (violCause (checkAccess s n addr.toNat 8 false)) addr.toNat)) ∧
    (checkAccess s n addr.toNat size true ≠ .ok →
      exec (.registerWrite (.rafter n) addr size v) s =
        .next (regTrap s n (violCause (checkAccess s n addr.toNat size true)) addr.toNat))) ∧
  ((∀ (m : Master) (addr : BitVec 40) (v : Word) (a : RegAt) (s : State), (∀ n, m ≠ .rafter n) →
    named addr.toNat = some a → regDark s a = false → sealed s = true → (regRow a.reg).sw ≠ 0 →
    (regRow a.reg).rw = 0 → (regRow a.reg).w1c = 0 → (regRow a.reg).wo = 0 →
    exec (.registerWrite m addr 8 v) s = .next (accessNotice s m 3 addr.toNat v)) ∧
  (∀ (m : Master) (addr : BitVec 40) (size : Nat) (v : Word) (a : RegAt) (s : State), (∀ n, m ≠ .rafter n) →
    isRegs addr.toNat = true → named (addr.toNat / 8 * 8) = some a → sizeOk size = true → size ≠ 8 →
    exec (.registerWrite m addr size v) s = .next (accessNotice s m 5 addr.toNat v)) ∧
  (∀ (n : Fin 256) (addr : BitVec 40) (size : Nat) (v : Word) (s : State), sizeOk size = true →
    isRegs addr.toNat = true → mayWrite (.rafter n) addr.toNat = false →
    exec (.registerWrite (.rafter n) addr size v) s = .next (regTrap s n 0x11 addr.toNat))) ∧
  (∀ (n c a : Nat) (s : State), ((raf s n).st = .run ∨ (raf s n).st = .handler) →
    regTrap s n c a = takeTrap s n {
      cause := c, pc := (raf s n).pc, addr := BitVec.ofNat 64 a, insn := (insnAt s n (raf s n).pc.toNat).1, insnh := (insnAt s n (raf s n).pc.toNat).2 })

/-- Register writes that only store (R14, R516): each RW bit takes the value, every other bit keeps its own, and
nothing else changes but the model's count of free values. A write of a counter select (R147, R512, R514) stores its RW bits
and clears COUNT; where its bank has no such source it produces an access notice, whose kind the spec does not name. -/
def Obligations.RegisterWriteStores : Prop :=
  (∀ (m : Master) (addr : BitVec 40) (v : Word) (a : RegAt) (s : State), mayWrite m addr.toNat = true →
    named addr.toNat = some a → regDark s a = false →
    a.reg ∈ [Reg.bootLsrc, .bootFwaddr, .secIdidx, .lnkpHidx, .vlyEidx, .vlyRtidx, .monCtl, .monLidx, .gateEidx,
      .rafnPeek, .rafnSkip, .ylmnPeek] →
    exec (.registerWrite m addr 8 v) s =
      .next { rgSet s a.reg a.i a.j ((rg s a.reg a.i a.j &&& ~~~(regRow a.reg).rw) ||| (v &&& (regRow a.reg).rw)) with
        free := s.free + 1 }) ∧
  (∀ (m : Master) (v : Word) (s : State), (∀ n, m ≠ .rafter n) →
    exec (.monFreezeWrite m v) s =
      .next { rgSet s .monCtl 0 0 ((rg s .monCtl &&& ~~~0x8000000000000000) ||| (v &&& 0x8000000000000000)) with
        free := s.free + 1 }) ∧
  (∀ (m : Master) (addr : BitVec 40) (v : Word) (a : RegAt) (s t : State), mayWrite m addr.toNat = true →
    named addr.toNat = some a → regDark s a = false → a.reg ∈ [Reg.monnSelk, .monTselk, .monRselk, .monHselj] →
    t = rgSet (rgSet s a.reg a.i a.j ((rg s a.reg a.i a.j &&& ~~~(regRow a.reg).rw) ||| (v &&& (regRow a.reg).rw)))
      (countOf a.reg) a.i a.j (setFld (rg s (countOf a.reg) a.i a.j) 0 48 0) →
    (srcListed a.reg (fld (rg t a.reg a.i a.j) 0 10) (fld (rg t a.reg a.i a.j) 16 16) = true →
      exec (.counterSelectWrite m addr v) s = .next t) ∧
    (srcListed a.reg (fld (rg t a.reg a.i a.j) 0 10) (fld (rg t a.reg a.i a.j) 16 16) = false →
      exec (.counterSelectWrite m addr v) s =
        .next (accessNotice { t with free := s.free + 1 } m (fld (Config.free s.free) 0 8) (regAddr a.reg a.i a.j) v)))

/-- Reads of registers (R14, R137, R253, R528): a register with an RCL field answers what it shows, and its RCL fields return
to their reset value; RAFn_PEEKD of a frozen rafter answers the store word, the scalar register or the two accumulators that
RAFn_PEEK selects, where the slate is enabled, and YLMn_PEEKD of a trapped or stopped slot the register, PC or status that
YLMn_PEEK selects; a peek that selects nothing, one of a rafter or a slot in another state, and one of a dark rafter return all ones with an access notice of kind 6.
What an accumulator of a slate that is not enabled reads as is open (a free value). -/
def Obligations.RegisterReads : Prop :=
  (∀ (m : Master) (addr : BitVec 40) (a : RegAt) (s : State), named addr.toNat = some a → (regRow a.reg).rcl ≠ 0 →
    regWaits s m addr.toNat = false →
    exec (.rclFieldRead m addr) s =
      .next { rgSet s a.reg a.i a.j
          ((rg s a.reg a.i a.j &&& ~~~(regRow a.reg).rcl) ||| ((regRow a.reg).reset &&& (regRow a.reg).rcl)) with
        rdata := regView s a }) ∧
  (∀ (m : Master) (n : Fin 256) (s : State) (sp a : Nat), sp = fld (rg s .rafnPeek n) 62 2 → a = fld (rg s .rafnPeek n) 0 20 →
    ((courseDark s (courseOf s n) = true ∨ (raf s n).st ≠ .frozen ∨ sp = 3 ∨ (sp = 0 ∧ a % 8 ≠ 0) ∨ (sp = 1 ∧ 63 < a) ∨
        (sp = 2 ∧ 8191 < a)) →
      exec (.peekdRead m n) s =
        .next { accessNotice s m 6 (regAddr .rafnPeekd n) 0 with rdata := 0xFFFFFFFFFFFFFFFF }) ∧
    (courseDark s (courseOf s n) = false → (raf s n).st = .frozen → sp = 0 → a % 8 = 0 →
      exec (.peekdRead m n) s = .next { s with rdata := bytesWord (readBytes (raf s n).store a 8) }) ∧
    (courseDark s (courseOf s n) = false → (raf s n).st = .frozen → sp = 1 → a < 64 →
      exec (.peekdRead m n) s = .next { s with rdata := sreg (raf s n) a }) ∧
    (courseDark s (courseOf s n) = false → (raf s n).st = .frozen → sp = 2 → a < 8192 →
      (∀ p, (enPhys s n)[a / 512 % 8]? = some p → ∀ t, t = (if a < 4096 then (slate (raf s n) p).acc0 else (slate (raf s n) p).acc1) →
        exec (.peekdRead m n) s = .next { s with
          rdata := mkWord [(0, 32, (tget 0 t (64 * (a / 32 % 16) + 2 * (a % 32))).toNat),
            (32, 32, (tget 0 t (64 * (a / 32 % 16) + 2 * (a % 32) + 1)).toNat)] }) ∧
      ((enPhys s n)[a / 512 % 8]? = none →
        exec (.peekdRead m n) s = .next { s with free := s.free + 1, rdata := Config.free s.free }))) ∧
  (∀ (m : Master) (n : Fin 256) (s : State) (y : YSlot) (k i : Nat), y = yslot (raf s n) (fld (rg s .ylmnPeek n) 60 4) →
    k = fld (rg s .ylmnPeek n) 55 5 → i = fld (rg s .ylmnPeek n) 49 6 →
    ((courseDark s (courseOf s n) = true ∨ (y.st ≠ .trapped ∧ y.st ≠ .stopped)) →
      exec (.ylmPeekdRead m n) s =
        .next { accessNotice s m 6 (regAddr .ylmnPeekd n) 0 with rdata := 0xFFFFFFFFFFFFFFFF }) ∧
    (courseDark s (courseOf s n) = false → (y.st = .trapped ∨ y.st = .stopped) →
      ∀ v : Word, v = (if i < 32 then tget 0 (thr y k).regs i
        else if i = 32 then BitVec.ofNat 64 (thr y k).pc.toNat
        else if i = 33 then
          mkWord [(0, 1, b2n (thr y k).exited), (1, 1, b2n (thr y k).held), (2, 1, b2n (y.barred.getLsbD k))]
        else 0) → exec (.ylmPeekdRead m n) s = .next { s with rdata := v }))

/-- The data registers of index and data pairs (R96, R199, R370, R427, R437, R510): the entry at the index is written,
every other entry stays, and the index advances. A gate entry made LIVE whose group is none that an expert may have is stored
with LIVE 0, and an access notice of kind 4 says so (R200). A table that is written before SEAL alone keeps what it holds after
it: the write gives an access notice of kind 3 (R14). The registers of a command ring and of the notice ring (R104, R105, R520): writing EN from 0 to 1 sets the indices to 0
and the phase to 1; an index inside its ring is stored, one outside it is discarded with an access notice. -/
def Obligations.PortRegisterWrites : Prop :=
  (∀ (m : Master) (v : Word) (s : State), (∀ n, m ≠ .rafter n) → sealed s = false →
    exec (.batEtdataWrite m v) s = .next { rgSet s .batEtidx 0 0 (BitVec.ofNat 64 (((rg s .batEtidx).toNat + 1) % 4096)) with
      bat := { s.bat with etab := tput 0 s.bat.etab (rf s .batEtidx 0 0 12) (BitVec.ofNat 32 (fld v 0 32)) } } ∧
    (s.bat.blocked = [] → exec (.batPldataWrite m v) s = .next { rgSet s .batPlidx 0 0 (BitVec.ofNat 64 (((rg s .batPlidx).toNat + 1) % 256)) with
      bat := { s.bat with pltab := tput 0 s.bat.pltab (rf s .batPlidx 0 0 8) (v &&& 0xFFFFFFFC00000000) } }) ∧
    exec (.batSidataWrite m v) s = .next { rgSet s .batSiidx 0 0 (BitVec.ofNat 64 (((rg s .batSiidx).toNat + 1) % 256)) with
      bat := { s.bat with sitab := tput 0 s.bat.sitab (rf s .batSiidx 0 0 8) (v &&& 0x80FF000000000000) } } ∧
    exec (.vlyRtdataWrite m v) s = .next { rgSet s .vlyRtidx 0 0 (BitVec.ofNat 64 (((rg s .vlyRtidx).toNat + 1) % 65536)) with
      vly := { s.vly with rt := tput 0 s.vly.rt (rf s .vlyRtidx 0 0 16) (BitVec.ofNat 32 (fld v 0 32)) } } ∧
    (rf s .secPidx 0 0 6 < 54 → ∃ t, exec (.secPdataWrite m v) s = .next t ∧
      t = { s with regs := t.regs, sec := { s.sec with prov := tput 0 s.sec.prov (rf s .secPidx 0 0 6) v } } ∧
      rf t .secPidx 0 0 6 = (rf s .secPidx 0 0 6 + 1) % 54) ∧
    (s.gate.slots = [] → (rf s .gateEidx 0 0 17 % 2 = 1 ∨ bitOf v 63 = false ∨ bitOf v 62 = true ∨ isExpertGroup s (fld v 40 14) = true) →
      exec (.gateEdataWrite m v) s =
      .next { rgSet s .gateEidx 0 0 (BitVec.ofNat 64 (((rg s .gateEidx).toNat + 1) % 131072)) with
        gate := { s.gate with entries := tput 0 s.gate.entries (rf s .gateEidx 0 0 17) v } }) ∧
    (s.gate.slots = [] → rf s .gateEidx 0 0 17 % 2 = 0 → bitOf v 63 = true → bitOf v 62 = false → isExpertGroup s (fld v 40 14) = false →
      ∀ t : State, t = { rgSet s .gateEidx 0 0 (BitVec.ofNat 64 (((rg s .gateEidx).toNat + 1) % 131072)) with
          gate := { s.gate with entries := tput 0 s.gate.entries (rf s .gateEidx 0 0 17) (v &&& 0x7FFFFFFFFFFFFFFF) } } →
        ∃ u, exec (.gateEdataWrite m v) s = .next u ∧ u = accessNotice t m 4 (regAddr .gateEdata) v)) ∧
  (∀ (m : Master) (v : Word) (s : State), (∀ n, m ≠ .rafter n) → sealed s = true →
    exec (.batEtdataWrite m v) s = .next (accessNotice s m 3 (regAddr .batEtdata) v) ∧
    exec (.batPldataWrite m v) s = .next (accessNotice s m 3 (regAddr .batPldata) v) ∧
    exec (.batSidataWrite m v) s = .next (accessNotice s m 3 (regAddr .batSidata) v) ∧
    exec (.secPdataWrite m v) s = .next (accessNotice s m 3 (regAddr .secPdata) v)) ∧
  (∀ (m : Master) (v : Word) (s : State), (∀ n, m ≠ .rafter n) →
    (∀ r : Fin 16, ringOn s r = false → bitOf v 63 = true → s.host.comps = [] →
      ∃ t, exec (.sesRctlWrite m r v) s = .next t ∧ ringOn t r = true ∧ t.host.phases.getLsbD r = true ∧
        rg t .sesrCtail r = 0 ∧ rg t .sesrChead r = 0 ∧ rg t .sesrKhead r = 0 ∧ rg t .sesrKtail r = 0) ∧
    (∀ r : Fin 16, 2 ^ rf s .sesrRctl r 58 5 ≤ fld v 0 16 →
      exec (.doorbell m r v) s = .next (accessNotice s m 5 (regAddr .sesrCtail r) v)) ∧
    (∀ r : Fin 16, fld v 0 16 < 2 ^ rf s .sesrRctl r 58 5 →
      ∃ t, exec (.doorbell m r v) s = .next t ∧ rf t .sesrCtail r 0 16 = fld v 0 16 ∧
        t = { s with regs := t.regs, host := t.host } ∧ t.host.comps = s.host.comps) ∧
    (∀ r : Fin 16, 2 ^ rf s .sesrRctl r 53 5 ≤ fld v 0 16 →
      exec (.sesKheadWrite m r v) s = .next (accessNotice s m 5 (regAddr .sesrKhead r) v)) ∧
    (∀ r : Fin 16, fld v 0 16 < 2 ^ rf s .sesrRctl r 53 5 →
      ∃ t, exec (.sesKheadWrite m r v) s = .next t ∧ rf t .sesrKhead r 0 16 = fld v 0 16 ∧
        t = { s with regs := t.regs, host := t.host }) ∧
    (rbit s .monNctl 0 63 = false → bitOf v 63 = true → 6 ≤ fld v 58 5 → fld v 58 5 ≤ 16 →
      ∃ t, exec (.monNctlWrite m v) s = .next t ∧ rbit t .monNctl 0 63 = true ∧ rf t .monNctl 0 58 5 = fld v 58 5 ∧
        rg t .monNhead = 0 ∧ rg t .monNtail = 0 ∧ t.notices.phase = true) ∧
    (2 ^ rf s .monNctl 0 58 5 ≤ fld v 0 16 →
      exec (.monNheadWrite m v) s = .next (accessNotice s m 5 (regAddr .monNhead) v)) ∧
    (fld v 0 16 < 2 ^ rf s .monNctl 0 58 5 → s.notices.dropFirst = none →
      exec (.monNheadWrite m v) s =
        .next (rgSet s .monNhead 0 0 ((rg s .monNhead &&& ~~~0xFFFF) ||| (v &&& 0xFFFF)))))

/-- BOOT_GO (R461): the write that names the present step in its PRE phase starts the step's action, the write with
FIN = 1 in the POST phase completes it, and a write that the step and phase do not await is discarded with an access
notice. That BOOT_GO clears ERR and that PHASE shows PRE of the next step are the model's reading (assumption log 24). FIN of
SPAR sets LIVE, opens header switches, retires the failed positions that no spare serves, and fails the step where too few
rafters are left (R28, R475). HUB_SPARE is written while the bays are tested; before and after that a write is discarded, which
is the model's reading of R29 (assumption log 23). An enable of a failed spare is forced off, and so is that of spare 65 where
both name one position, with an access notice of kind 4 (R29). BOOT_FWDATA and the flash (R488, R494): a write outside the protected ranges programs 8 bytes
at ADDR and advances ADDR by 8; one into the slot in use or the device's own ranges is discarded. The program's end
shows in BOOT_FWADDR.BUSY. -/
def Obligations.BringupRegisterWrites : Prop :=
  ((∀ (m : Master) (k : Fin 16) (s : State), (∀ n, m ≠ .rafter n) → goAwaited s m k false = true →
    ∃ t, exec (.bootGoAction m k) s = .next t ∧ bootStep t = k ∧ bootPhase t = 1 ∧ t.boot.goAt = nowR s ∧
      rf t .bootStat 0 40 8 = 0 ∧ sameBytes s t) ∧
  (∀ (m : Master) (k : Fin 16) (s : State), (∀ n, m ≠ .rafter n) → goAwaited s m k true = true → k ≠ 5 →
    ∃ t, exec (.bootGoFin m k) s = .next t ∧ bootStep t = k + 1 ∧ bootPhase t = 0 ∧ sameBytes s t) ∧
  (∀ (m : Master) (s : State), (∀ n, m ≠ .rafter n) → goAwaited s m 5 true = true →
    ∃ t, exec (.bootGoFin m 5) s = .next t ∧ t.boot.live = true ∧
      (∀ k, k < 264 → t.boot.openHdr.getLsbD k = (openPairs s).contains k) ∧
      (∀ n, n < 256 → retired t n = (retired s n || (unserved s).contains n)) ∧
      (rf s .bootCtl 0 0 16 ≤ liveCount t → bootStep t = 6 ∧ bootPhase t = 0 ∧ rf t .sysState 0 0 2 = 0) ∧
      (liveCount t < rf s .bootCtl 0 0 16 → bootStep t = 5 ∧ rf t .bootStat 0 40 8 = 0x22 ∧ rf t .sysState 0 0 2 = 2) ∧
      sameBytes s t) ∧
  (∀ (m : Master) (k : Fin 16) (s : State), (∀ n, m ≠ .rafter n) → sealed s = false →
    (goAwaited s m k false = false →
      exec (.bootGoAction m k) s = .next (accessNotice s m 5 (regAddr .bootGo) (BitVec.ofNat 64 k))) ∧
    (goAwaited s m k true = false →
      exec (.bootGoFin m k) s = .next (accessNotice s m 5 (regAddr .bootGo) (BitVec.ofNat 64 (16 + k))))) ∧
  (∀ (m : Master) (d : Fin 4) (v : Word) (s : State), (∀ n, m ≠ .rafter n) → sealed s = false →
    (bootStep s < 4 ∨ 6 ≤ bootStep s →
      exec (.hubSpareWrite m d v) s = .next (accessNotice s m 5 (regAddr .hubSpared d) v)) ∧
    (4 ≤ bootStep s → bootStep s < 6 → ∀ (bad : Nat → Bool) (v1 v2 v3 : Word) (t : State),
      (∀ p, bad p = (s.boot.pairs.getLsbD (66 * d + p) || s.boot.now_.getLsbD (66 * d + p))) →
      v1 = (if bad 64 then v &&& ~~~0x8000 else v) → v2 = (if bad 65 then v1 &&& ~~~0x80000000 else v1) →
      v3 = (if bitOf v2 15 = true ∧ bitOf v2 31 = true ∧ fld v2 8 6 = fld v2 24 6 then v2 &&& ~~~0x80000000 else v2) →
      t = { rgSet s .hubSpared d 0 ((rg s .hubSpared d &&& ~~~0xBF00BF00) ||| (v3 &&& 0xBF00BF00)) with
          free := s.free + 1 } →
      exec (.hubSpareWrite m d v) s = .next (if v3 = v then t else accessNotice t m 4 (regAddr .hubSpared d) v)))) ∧
  ((∀ (m : Master) (v : Word) (s : State) (a : Nat), (∀ n, m ≠ .rafter n) → a = rf s .bootFwaddr 0 0 27 / 8 * 8 →
    rbit s .bootFwaddr 0 63 = false →
    ((slotOfOff a = some (rf s .bootStat 0 55 1) ∨ (0x10000 ≤ a ∧ a < 0x100000)) →
      exec (.bootFwdataWrite m v) s = .next (accessNotice s m 5 (regAddr .bootFwdata) v)) ∧
    (¬ (slotOfOff a = some (rf s .bootStat 0 55 1) ∨ (0x10000 ≤ a ∧ a < 0x100000)) →
      ∃ t, exec (.bootFwdataWrite m v) s = .next t ∧ fbytes t a 8 = wordBytes v ∧ rbit t .bootFwaddr 0 63 = true ∧
        rf t .bootFwaddr 0 0 27 = (a + 8) % 2 ^ 27 ∧ t = { s with regs := t.regs, flash := t.flash } ∧
        (a % 4096 ≠ 0 → ∀ b, b < a ∨ a + 8 ≤ b → fbyte t b = fbyte s b) ∧
        (a % 4096 = 0 → ∀ b, a + 8 ≤ b → b < a + 4096 → fbyte t b = 0xFF))) ∧
  (∀ s : State, rbit s .bootFwaddr 0 63 = true →
    ∃ t, exec .flashWriteDone s = .next t ∧ rbit t .bootFwaddr 0 63 = false ∧ t = { s with regs := t.regs } ∧
      rf t .bootFwaddr 0 0 27 = rf s .bootFwaddr 0 0 27))

/-- Register writes that act on a session, a valley, a port, a queue or the log. RELEASE lets a session that waits for one go
on, and is discarded with an access notice of kind 5 where the handle names no session, or one that does not wait for a
release (R554). RAFn_VOPEN serves the request in the store and says in the notice word, which comes over the spar channel, what
came of it: the handle of an opened or closed end, or status 2 with the code of R111 (R413, R415). REQUAL takes a HELD port to
DETECT with FAILS 0 (R391, R402). FLUSH writes the partial word of a packing queue into its store (R66); where the store is
full the word follows as soon as there is room (R60), which is the model's reading (assumption log 46). MON_LDATA reads the log word at IDX and advances IDX: all ones in a retired bay, else what the bay holds
(R522). -/
def Obligations.ActingRegisterWrites : Prop :=
  (∀ (m : Master) (n : Fin 256) (v : Word) (s : State), mayWrite m (regAddr .rafnWrel n) = true →
    courseDark s (courseOf s n) = false →
    (∀ i, sesOfHandle s (BitVec.ofNat 32 (fld v 0 32)) = some i → (ses s i).st = .waiting → (ses s i).wait = .release →
      ∃ t, exec (.release m n v) s = .next t ∧ ses t i = { ses s i with st := .ready, wait := .none, readyT := nowT s } ∧
        (∀ j, j ≠ i → ses t j = ses s j) ∧ rg t .rafnWrel n = BitVec.ofNat 64 (fld v 0 32) ∧
        t = { s with regs := t.regs, ses := t.ses }) ∧
    (∀ i, sesOfHandle s (BitVec.ofNat 32 (fld v 0 32)) = some i → ((ses s i).st ≠ .waiting ∨ (ses s i).wait ≠ .release) →
      exec (.release m n v) s = .next (accessNotice s m 5 (regAddr .rafnWrel n) v)) ∧
    (sesOfHandle s (BitVec.ofNat 32 (fld v 0 32)) = none →
      exec (.release m n v) s = .next (accessNotice s m 5 (regAddr .rafnWrel n) v))) ∧
  (∀ (m : Master) (n : Fin 256) (v : Word) (s u : State) (e : Entry), mayWrite m (regAddr .rafnVopen n) = true →
    courseDark s (courseOf s n) = false → u = rgSet s .rafnVopen n 0 (v &&& 0x1FFFFFFF) →
    e = storeEntry (raf s n) (fld v 0 20) →
    ((fld v 20 9 < 2 ∨ fld v 0 20 % 64 ≠ 0) →
      exec (.vopenOpen m n v) s = .next (accessNotice s m 5 (regAddr .rafnVopen n) v) ∧
      exec (.vopenClose m n v) s = .next (accessNotice s m 5 (regAddr .rafnVopen n) v)) ∧
    (2 ≤ fld v 20 9 → fld v 0 20 % 64 = 0 →
      (fld e.w0 56 8 = 0x20 → fld e.w0 48 8 = 0 → ∀ (t : State) (c : Nat) (h : BitVec 32), openEnd u e none = (t, c, h) →
        exec (.vopenOpen m n v) s =
          .next (if c = 0 then notifyOver t n (fld v 20 9) 0 h.toNat else notifyOver t n (fld v 20 9) 2 c)) ∧
      (fld e.w0 56 8 = 0x21 → fld e.w0 48 8 = 0 → (∀ k, 1 ≤ k → k < 8 → storeWord (raf s n) (fld v 0 20 + 8 * k) = 0) →
        ∀ (t : State) (c : Nat), closeByHandle u (BitVec.ofNat 32 (fld e.w0 0 32)) = (t, c) →
        exec (.vopenClose m n v) s =
          .next (if c = 0 then notifyOver t n (fld v 20 9) 0 (fld e.w0 0 32) else notifyOver t n (fld v 20 9) 2 c)) ∧
      (fld e.w0 56 8 ≠ 0x20 → fld e.w0 56 8 ≠ 0x21 →
        exec (.vopenOpen m n v) s = .next (notifyOver u n (fld v 20 9) 2 0x02) ∧
        exec (.vopenClose m n v) s = .next (notifyOver u n (fld v 20 9) 2 0x02)))) ∧
  (∀ (m : Master) (p : Fin 13) (v : Word) (s : State), (∀ n, m ≠ .rafter n) →
    (sealed s = false ∨ (v ^^^ rg s .lnkpCtl p) &&& (regRow .lnkpCtl).sw = 0) →
    bitOf v 63 = true → bitOf v 60 = true → fld v 61 2 ≠ 0 → portState s p = 8 →
    ∃ t, exec (.requal m p v) s = .next t ∧ portState t p = 1 ∧ rf t .lnkpStat p 8 8 = 0 ∧
      t = { s with regs := t.regs, free := t.free }) ∧
  (∀ (m : Master) (q : Fin 60) (v : Word) (s : State), (∀ n, m ≠ .rafter n) → bitOf v 26 = true →
    ∃ t, exec (.flush m q v) s = .next t ∧ (∀ k : Fin 60, k ≠ q → queue t k = queue s k) ∧
      (qPacks s q = true → (queue s q).part ≠ [] → (queue s q).words.length < qDepth s q →
        (queue t q).part = [] ∧ (queue t q).words = (queue s q).words ++ [packWord (queue s q).part false]) ∧
      (qPacks s q = true → (queue s q).part ≠ [] → qDepth s q ≤ (queue s q).words.length →
        queue t q = { queue s q with due := true }) ∧
      (((queue s q).part = [] ∨ qPacks s q = false) → queue t q = queue s q) ∧ qPack t q = qPack s q) ∧
  (∀ (m : Master) (s : State) (a : Nat), regWaits s m (regAddr .monLdata) = false → isBay (logBase s) = true →
    a = logBase s + 8 * rf s .monLidx 0 0 14 →
    (retired s (bayOf a) = true →
      exec (.monLdataRead m) s =
        .next { rfSet s .monLidx 0 0 14 ((rf s .monLidx 0 0 14 + 1) % 16384) with rdata := 0xFFFFFFFFFFFFFFFF }) ∧
    (retired s (bayOf a) = false → ∃ t, exec (.monLdataRead m) s = .next t ∧
      rf t .monLidx 0 0 14 = (rf s .monLidx 0 0 14 + 1) % 16384 ∧ (badAt s a = false → t.rdata = wordAt s a) ∧
      (badWords s (lineOf a) = [] → ceWords s (lineOf a) = [] → sameBytes s t)))

/-! ## Instructions: what issues, and what an issued instruction leaves -/

namespace Sys2Proof.Claim

/-- The words of an instruction at an image offset are fetched, for the sequencer or for yealm slot `y`, the second where it
is `long`: the state then. None where a fetch waits or meets an uncorrectable word (R116, R254). -/
def fetchWords (s : State) (n : Nat) (y : Option Nat) (o : Nat) (long : Bool) : Option State :=
  match fetch s n y o with
  | .ok t => if long then (match fetch t n y (o + 8) with | .ok u => some u | _ => none) else some t
  | _ => none

/-- The sequencer of rafter `n` issues an instruction of form `f`, word `w`, from its PC: it runs, the fetch lies in
the image and leaves the state `u`, and the word is legal (R116, R121, R123, R254, R257). -/
abbrev seqIssues (s u : State) (n : Nat) (w : Word) (f : Form) : Prop :=
  seqReady s n = true ∧ (raf s n).pc.toNat < (raf s n).size.toNat ∧
  (f.long = true → (raf s n).pc.toNat + 8 < (raf s n).size.toNat) ∧
  fetchWords s n none (raf s n).pc.toNat f.long = some u ∧ legalForm f false w = true

/-- Rafter `n` changed by `f`, and its count of issued instructions one more where a counter selects it; nothing else
is changed but the time at which a rafter with work last had it (R347). -/
def seqNext (s : State) (n : Nat) (f : Rafter → Rafter) : State := countR (modRaf s n f) n 0x002 1

/-- A yealm slot issues an instruction of form `f`, word `w`, the fetch leaving the state `u`: `x` is the slot as the
scheduler leaves it, `live` its live threads, `sub` the subset picked, `pc` its program counter (R227, R254, R257). -/
abbrev thrIssues (s u : State) (n y : Nat) (w : Word) (f : Form) (x : YSlot) (live sub : List Nat) (pc : BitVec 20) : Prop :=
  yRuns s n y = true ∧ yPick (yslot (raf s n) y) = some (x, live, sub, pc) ∧
  pc.toNat < (raf s n).size.toNat ∧ (f.long = true → pc.toNat + 8 < (raf s n).size.toNat) ∧
  fetchWords s n (some y) pc.toNat f.long = some u ∧ legalForm f true w = true

/-- What an issued thread instruction leaves that made the slot `x`: the scheduler's bookkeeping for the subset with
the threads `back` that branched backward, one instruction more issued, and a barrier released if it is complete
(R221, R227, R230). Only rafter `n` and its counters are changed. -/
def thrNext (s : State) (n y : Nat) (x : YSlot) (live sub : List Nat) (pc : BitVec 20) (back : List Nat) : State :=
  barrier (countR (modRaf s n fun r =>
    { setYslot r y { afterIssue x live sub pc back with issued := satAdd 32 x.issued 1 } with ylast := y }) n 0x007 1) n y

/-- What an operation computes from its word and a register reader. -/
abbrev Alu := Word → (Nat → Word) → Word

/-- The sequencer's form of an operation: rd takes the result (s0 discards it), and the PC moves past. -/
def seqAlu (c : Issuer → Word → Instr) (cls op : Nat) (f : Form) (g : Alu) : Prop :=
  ∀ (n : Fin 256) (w : Word) (s u : State), opIs cls op w = true → seqIssues s u n w f →
    exec (c (.seq n) w) s =
      .next (seqNext u n fun r => { setSreg r (iRd w) (g w (sreg r)) with pc := r.pc + 8 })

/-- The threads' form: rd of each thread of the subset takes the result of its own registers (t0 discards it), and the
subset moves past. -/
def thrAlu (c : Issuer → Word → Instr) (cls op : Nat) (f : Form) (bad : Word → Bool) (g : Alu) : Prop :=
  ∀ (n : Fin 256) (y : Fin 16) (w : Word) (s u : State) (x : YSlot) (live sub : List Nat) (pc : BitVec 20),
    opIs cls op w = true → bad w = false → thrIssues s u n y w f x live sub pc →
    exec (c (.thr n y) w) s = .next (thrNext u n y
      (subPast (subWrite x (iRd w) (sub.map fun k => (k, g w (treg (thr x k))))) sub (pc + 8)) live sub pc [])

/-- An operation of both issuers. -/
def bothAlu (c : Issuer → Word → Instr) (cls op : Nat) (f : Form) (g : Alu) : Prop :=
  seqAlu c cls op f g ∧ thrAlu c cls op f (fun _ => false) g

end Sys2Proof.Claim

/-- R259 and R260: the scalar operations on registers, for both issuers. -/
def Obligations.ScalarRegisterOps : Prop :=
  bothAlu .add 1 0x00 formR3 (fun w q => q (iRa w) + q (iRb w)) ∧
  bothAlu .sub 1 0x01 formR3 (fun w q => q (iRa w) - q (iRb w)) ∧
  bothAlu .and 1 0x02 formR3 (fun w q => q (iRa w) &&& q (iRb w)) ∧
  bothAlu .or 1 0x03 formR3 (fun w q => q (iRa w) ||| q (iRb w)) ∧
  bothAlu .xor 1 0x04 formR3 (fun w q => q (iRa w) ^^^ q (iRb w)) ∧
  bothAlu .shl 1 0x05 formR3 (fun w q => q (iRa w) <<< ((q (iRb w)).toNat % 64)) ∧
  bothAlu .shr 1 0x06 formR3 (fun w q => q (iRa w) >>> ((q (iRb w)).toNat % 64)) ∧
  bothAlu .sra 1 0x07 formR3 (fun w q => (q (iRa w)).sshiftRight ((q (iRb w)).toNat % 64)) ∧
  bothAlu .mul 1 0x08 formR3 (fun w q => q (iRa w) * q (iRb w)) ∧
  bothAlu .slt 1 0x0D formR3 (fun w q => if (q (iRa w)).toInt < (q (iRb w)).toInt then 1 else 0) ∧
  bothAlu .sltu 1 0x0E formR3 (fun w q => if (q (iRa w)).toNat < (q (iRb w)).toNat then 1 else 0) ∧
  bothAlu .seq 1 0x0F formR3 (fun w q => if q (iRa w) = q (iRb w) then 1 else 0) ∧
  bothAlu .sel 1 0x10 formR4 (fun w q => if q (iRc w) ≠ 0 then q (iRa w) else q (iRb w))

/-- R259 and R260: the scalar operations with an immediate, for both issuers. LI, TIME and RAFID (R54, R259), for both
issuers: rd takes the extension word, the beacon value that is held, or the rafter's logical number. -/
def Obligations.ScalarImmediates : Prop :=
  (bothAlu .addi 1 0x20 formImm (fun w q => q (iRa w) + iImm w) ∧
  bothAlu .subi 1 0x21 formImm (fun w q => q (iRa w) - iImm w) ∧
  bothAlu .andi 1 0x22 formImm (fun w q => q (iRa w) &&& iImm w) ∧
  bothAlu .ori 1 0x23 formImm (fun w q => q (iRa w) ||| iImm w) ∧
  bothAlu .xori 1 0x24 formImm (fun w q => q (iRa w) ^^^ iImm w) ∧
  bothAlu .shli 1 0x25 formShift (fun w q => q (iRa w) <<< fld w 0 6) ∧
  bothAlu .shri 1 0x26 formShift (fun w q => q (iRa w) >>> fld w 0 6) ∧
  bothAlu .srai 1 0x27 formShift (fun w q => (q (iRa w)).sshiftRight (fld w 0 6)) ∧
  bothAlu .slti 1 0x2D formImm (fun w q => if (q (iRa w)).toInt < (iImm w).toInt then 1 else 0) ∧
  bothAlu .sltui 1 0x2E formImm (fun w q => if (q (iRa w)).toNat < (iImm w).toNat then 1 else 0) ∧
  bothAlu .seqi 1 0x2F formImm (fun w q => if q (iRa w) = iImm w then 1 else 0)) ∧
  ((∀ (n : Fin 256) (w ext : Word) (s u : State), opIs 1 0x30 w = true →
    seqIssues s u n w (mkForm [45] 0 true true true) →
    exec (.li (.seq n) w ext) s = .next (seqNext u n fun r => { setSreg r (iRd w) ext with pc := r.pc + 16 })) ∧
  (∀ (n : Fin 256) (y : Fin 16) (w ext : Word) (s u : State) (x : YSlot) (live sub : List Nat) (pc : BitVec 20),
    opIs 1 0x30 w = true → thrIssues s u n y w (mkForm [45] 0 true true true) x live sub pc →
    exec (.li (.thr n y) w ext) s = .next (thrNext u n y
      (subPast (subWrite x (iRd w) (sub.map fun k => (k, ext))) sub (pc + 16)) live sub pc [])) ∧
  (∀ (n : Fin 256) (w : Word) (s u : State), opIs 1 0x31 w = true → seqIssues s u n w (mkForm [45] 0 true true) →
    exec (.time (.seq n) w) s = .next (seqNext u n fun r => { setSreg r (iRd w) u.time.beacon with pc := r.pc + 8 })) ∧
  (∀ (n : Fin 256) (y : Fin 16) (w : Word) (s u : State) (x : YSlot) (live sub : List Nat) (pc : BitVec 20),
    opIs 1 0x31 w = true → thrIssues s u n y w (mkForm [45] 0 true true) x live sub pc →
    exec (.time (.thr n y) w) s = .next (thrNext u n y
      (subPast (subWrite x (iRd w) (sub.map fun k => (k, u.time.beacon))) sub (pc + 8)) live sub pc [])) ∧
  (∀ (n : Fin 256) (w : Word) (s u : State), opIs 1 0x32 w = true → seqIssues s u n w (mkForm [45] 0 true true) →
    exec (.rafid (.seq n) w) s =
      .next (seqNext u n fun r => { setSreg r (iRd w) (BitVec.ofNat 64 n) with pc := r.pc + 8 })) ∧
  (∀ (n : Fin 256) (y : Fin 16) (w : Word) (s u : State) (x : YSlot) (live sub : List Nat) (pc : BitVec 20),
    opIs 1 0x32 w = true → thrIssues s u n y w (mkForm [45] 0 true true) x live sub pc →
    exec (.rafid (.thr n y) w) s = .next (thrNext u n y
      (subPast (subWrite x (iRd w) (sub.map fun k => (k, BitVec.ofNat 64 n))) sub (pc + 8)) live sub pc [])))

namespace Sys2Proof.Claim

/-- A division for both issuers: with a divisor that is not zero rd takes the result; a sequencer's division by zero
takes the trap DIV0, and in a yealm the slot traps with DIV0 and the threads that divide by zero. -/
def bothDiv (c : Issuer → Word → Instr) (op : Nat) (g : Word → Word → Word) : Prop :=
  (∀ (n : Fin 256) (w : Word) (s u : State), opIs 1 op w = true → seqIssues s u n w formR3 →
    (sreg (raf u n) (iRb w) ≠ 0 → exec (c (.seq n) w) s = .next (seqNext u n fun r =>
      { setSreg r (iRd w) (g (sreg r (iRa w)) (sreg r (iRb w))) with pc := r.pc + 8 })) ∧
    (sreg (raf u n) (iRb w) = 0 →
      exec (c (.seq n) w) s = .next (takeTrap u n { cause := 0x06, pc := (raf u n).pc, insn := w }))) ∧
  (∀ (n : Fin 256) (y : Fin 16) (w : Word) (s u : State) (x : YSlot) (live sub : List Nat) (pc : BitVec 20),
    opIs 1 op w = true → thrIssues s u n y w formR3 x live sub pc →
    ((∀ k ∈ sub, treg (thr x k) (iRb w) ≠ 0) → exec (c (.thr n y) w) s = .next (thrNext u n y
      (subPast (subWrite x (iRd w) (sub.map fun k => (k, g (treg (thr x k) (iRa w)) (treg (thr x k) (iRb w)))))
        sub (pc + 8)) live sub pc [])) ∧
    ((∃ k ∈ sub, treg (thr x k) (iRb w) = 0) → exec (c (.thr n y) w) s =
      .next (yTrap u n y x 0x06 (sub.filter fun k => treg (thr x k) (iRb w) = 0) pc 0)))

end Sys2Proof.Claim

/-- R260: divisions and remainders for both issuers, DIV0 where rb is 0, and the signed corner. -/
def Obligations.ScalarDivision : Prop :=
  bothDiv .divs 0x09 (fun a b => a.sdiv b) ∧ bothDiv .divu 0x0A (fun a b => a / b) ∧
  bothDiv .rems 0x0B (fun a b => a.srem b) ∧ bothDiv .remu 0x0C (fun a b => a % b) ∧
  (BitVec.sdiv (BitVec.intMin 64) (-1 : Word) = BitVec.intMin 64 ∧ BitVec.srem (BitVec.intMin 64) (-1 : Word) = 0)

namespace Sys2Proof.Claim

/-- An operation that only the sequencer may issue traps with ILLEGAL in a yealm, with the whole subset (R248, R257). -/
def thrBarred (c : Issuer → Word → Instr) (cls op : Nat) : Prop :=
  ∀ (n : Fin 256) (y : Fin 16) (w : Word) (s u : State) (x : YSlot) (live sub : List Nat) (pc : BitVec 20),
    opIs cls op w = true → yRuns s n y = true → yPick (yslot (raf s n) y) = some (x, live, sub, pc) →
    pc.toNat < (raf s n).size.toNat → fetch s n (some y) pc.toNat = .ok u →
    exec (c (.thr n y) w) s = .next (yTrap u n y x 0x01 sub pc 0)

/-- An operation that only threads may issue traps with ILLEGAL at the sequencer (R231, R257). -/
def seqBarred (c : Issuer → Word → Instr) (cls op : Nat) : Prop :=
  ∀ (n : Fin 256) (w : Word) (s u : State), opIs cls op w = true → seqReady s n = true →
    (raf s n).pc.toNat < (raf s n).size.toNat → fetch s n none (raf s n).pc.toNat = .ok u →
    exec (c (.seq n) w) s = .next (takeTrap u n { cause := 0x01, pc := (raf u n).pc, insn := w })

end Sys2Proof.Claim

/-- R116 and R145: an instruction word whose line the instruction buffer holds is fetched without a change; one whose line it does not
hold brings the line, which changes no register of the rafter and no other rafter; while the spar port or the bay cannot serve it, or the
request table is full, the read stands in the table where it has room, and the instruction waits (shown on ADD). R131: a fetch at SIZE or above traps with FETCH_RANGE, and one of an uncorrectable word with UE_FETCH
(shown on ADD); the bits of an instruction that could not be fetched are open. R231 and R257: an ADD with a bit or a register that its form
does not allow, an ST with SX, every sequencer operation in a yealm, and every thread operation at the sequencer trap with ILLEGAL without issuing:
the sequencer takes the trap at its PC, a yealm's slot becomes TRAPPED with the whole subset. R121 and R131: a handler cause in RUN
writes the trap frame and enters HANDLER at TRAP; without a handler, or with a freeze cause, the rafter freezes with
that cause after the frame; a trap in HANDLER writes SECOND and freezes the rafter with DOUBLE. What the trapping instruction had asked for leaves the request
table. -/
def Obligations.TrapsAndIllegal : Prop :=
  ((∀ (s : State) (n : Nat) (y : Option Nat) (o : Nat), buffered s n o = true → fetch s n y o = .ok s) ∧
  (∀ (s : State) (n : Nat) (y : Option Nat) (o : Nat), buffered s n o = false →
    (readHeld s n (rafAcc s n).cls [codeReq s n y o] = true ∨ tableRoom (raf s n) [codeReq s n y o] = false) →
    fetch s n y o = .hold (askRead s n [codeReq s n y o]) ∧
    (tableRoom (raf s n) [codeReq s n y o] = true → codeReq s n y o ∈ (raf (askRead s n [codeReq s n y o]) n).reads) ∧
    (tableRoom (raf s n) [codeReq s n y o] = false → askRead s n [codeReq s n y o] = s)) ∧
  (∀ (s u : State) (n : Nat) (y : Option Nat) (o : Nat), buffered s n o = false →
    readHeld s n (rafAcc s n).cls [codeReq s n y o] = false → tableRoom (raf s n) [codeReq s n y o] = true →
    u = fetchMiss (endRead s n (.code y)) n o →
    fetch s n y o = (if badAt s (imgAddr s n o) then .bad u else .ok u) ∧
    raf u n = { raf s n with ibuf := (raf u n).ibuf, reads := (dropReads (raf s n) (.code y)).reads } ∧
    (∀ m, m ≠ n → raf u m = raf s m) ∧ u.ses = s.ses ∧ u.vly = s.vly) ∧
  (∀ (n : Fin 256) (w : Word) (s : State), opIs 1 0x00 w = true → seqReady s n = true →
    ((raf s n).size.toNat ≤ (raf s n).pc.toNat → exec (.add (.seq n) w) s = .next (takeTrap { s with free := s.free + 1 } n
      { cause := 0x02, pc := (raf s n).pc, insn := Config.free s.free })) ∧
    (∀ u, (raf s n).pc.toNat < (raf s n).size.toNat → fetch s n none (raf s n).pc.toNat = .hold u →
      exec (.add (.seq n) w) s = .next u) ∧
    (∀ u, (raf s n).pc.toNat < (raf s n).size.toNat → fetch s n none (raf s n).pc.toNat = .bad u →
      exec (.add (.seq n) w) s = .next (takeTrap { u with free := u.free + 1 } n {
        cause := 0x03, pc := (raf u n).pc, addr := BitVec.ofNat 64 (imgAddr s n (raf s n).pc.toNat), insn := Config.free u.free })))) ∧
  ((∀ (n : Fin 256) (w : Word) (s u : State), seqReady s n = true → (raf s n).pc.toNat < (raf s n).size.toNat →
    fetch s n none (raf s n).pc.toNat = .ok u →
    (opIs 1 0x00 w = true → legalForm formR3 false w = false →
      exec (.add (.seq n) w) s = .next (takeTrap u n { cause := 0x01, pc := (raf u n).pc, insn := w })) ∧
    (opIs 1 0x41 w = true → bitOf w 35 = true →
      exec (.st (.seq n) w) s = .next (takeTrap u n { cause := 0x01, pc := (raf u n).pc, insn := w }))) ∧
  (∀ (n : Fin 256) (y : Fin 16) (w : Word) (s u : State) (x : YSlot) (live sub : List Nat) (pc : BitVec 20),
    yRuns s n y = true → yPick (yslot (raf s n) y) = some (x, live, sub, pc) →
    pc.toNat < (raf s n).size.toNat → fetch s n (some y) pc.toNat = .ok u → opIs 1 0x00 w = true → legalForm formR3 true w = false →
    exec (.add (.thr n y) w) s = .next (yTrap u n y x 0x01 sub pc 0)) ∧
  (thrBarred .ld 1 0x40 ∧ thrBarred .st 1 0x41 ∧ thrBarred .endp 2 0x10 ∧ thrBarred .rtt 2 0x11 ∧ thrBarred .frz 2 0x12 ∧
    thrBarred .ylaunch 3 0x00 ∧ thrBarred .ywait 3 0x01 ∧ thrBarred .ykill 3 0x02 ∧ thrBarred .slate 4 0x00 ∧
    thrBarred .str 5 0x00 ∧ thrBarred .strsm 5 0x01 ∧ thrBarred .stclr 5 0x02 ∧ thrBarred .cadd 6 0x00 ∧
    thrBarred .cwatch 6 0x01 ∧ thrBarred .poll 7 0x00 ∧ (∀ ext, thrBarred (fun i w => .polli i w ext) 7 0x01) ∧
    thrBarred .nclr 7 0x02) ∧
  (seqBarred .fadd 8 0x00 ∧ seqBarred .fmul 8 0x01 ∧ seqBarred .fma 8 0x02 ∧ seqBarred .fmin 8 0x03 ∧ seqBarred .fmax 8 0x04 ∧
    seqBarred .fcmp 8 0x05 ∧ seqBarred .fcvt 8 0x06 ∧ seqBarred .fsfu 8 0x07 ∧ seqBarred .yld 8 0x10 ∧ seqBarred .yst 8 0x11 ∧
    seqBarred .yatom 8 0x14 ∧ seqBarred .ycas 8 0x15 ∧ seqBarred .yswap 8 0x16 ∧ seqBarred .yfence 8 0x17 ∧
    seqBarred .yshfl 8 0x18 ∧ seqBarred .yred 8 0x19 ∧ seqBarred .yrand 8 0x1A ∧ seqBarred .ybar 8 0x1B ∧ seqBarred .yexit 8 0x1C)) ∧
  ((∀ (n : Nat) (t : Trap) (s : State), (raf s n).st = .run → (raf s n).trap ≠ 0 → t.cause < 0x10 →
    takeTrap s n t = modRaf (writeFrame (countR (modRaf s n fun r => dropReads r .seq) n 0x00C 1) n t) n fun r =>
      { r with st := .handler, pc := r.trap, cause := BitVec.ofNat 8 t.cause, wait := .none }) ∧
  (∀ (n : Nat) (t : Trap) (s : State), (raf s n).st = .run → ((raf s n).trap = 0 ∨ 0x10 ≤ t.cause) →
    takeTrap s n t = freezeRafter (writeFrame (countR (modRaf s n fun r => dropReads r .seq) n 0x00C 1) n t) n t.cause) ∧
  (∀ (n : Nat) (t : Trap) (s : State), (raf s n).st = .handler →
    takeTrap s n t = freezeRafter (writeSecond (countR (modRaf s n fun r => dropReads r .seq) n 0x00C 1) n t) n 0x14) ∧
  (∀ (n : Nat) (t : Trap) (s : State), readBytes (raf (writeFrame s n t) n).store 0xEF008 8 = wordBytes (BitVec.ofNat 64 t.pc.toNat) ∧
    readBytes (raf (writeFrame s n t) n).store 0xEF010 8 = wordBytes t.addr ∧
    readBytes (raf (writeFrame s n t) n).store 0xEF018 8 = wordBytes t.insn ∧
    (∀ a, (a < 0xEF000 ∨ 0xEF100 ≤ a) → readByte (raf (writeFrame s n t) n).store a = readByte (raf s n).store a) ∧
    (∀ m, m ≠ n → raf (writeFrame s n t) m = raf s m)))

/-! ## Loads, stores, branches -/

/-- R123 and R216: s0 and t0 read as zero and discard what is written; every other register reads what was last
written to it, and a write changes no other register. Memory of bytes: a write is read back, every other byte stays,
and the canonical form is kept. -/
def Obligations.StorageLaws : Prop :=
  ((∀ r : Rafter, sreg r 0 = 0) ∧ (∀ (r : Rafter) (v : Word), setSreg r 0 v = r) ∧
  (∀ (r : Rafter) (i : Nat) (v : Word), i ≠ 0 → sreg (setSreg r i v) i = v) ∧
  (∀ (r : Rafter) (i j : Nat) (v : Word), j ≠ i → sreg (setSreg r i v) j = sreg r j) ∧
  (∀ t : Thread, treg t 0 = 0) ∧ (∀ (t : Thread) (v : Word), setTreg t 0 v = t) ∧
  (∀ (t : Thread) (i : Nat) (v : Word), i ≠ 0 → treg (setTreg t i v) i = v) ∧
  (∀ (t : Thread) (i j : Nat) (v : Word), j ≠ i → treg (setTreg t i v) j = treg t j) ∧
  (∀ (x : YSlot) (rd : Nat) (sub : List Nat) (g : Nat → Word) (pc : BitVec 20) (k : Nat), sub.Nodup →
    thr (subPast (subWrite x rd (sub.map fun k => (k, g k))) sub pc) k =
      if k ∈ sub then { setTreg (thr x k) rd (g k) with pc := pc } else thr x k)) ∧
  ((∀ (m : Memory) (a : Nat) (bs : List Byte), readBytes (writeBytes m a bs) a bs.length = bs) ∧
  (∀ (m : Memory) (a : Nat) (bs : List Byte) (b : Nat), (b < a ∨ a + bs.length ≤ b) →
    readByte (writeBytes m a bs) b = readByte m b) ∧
  (∀ (m : Memory) (a : Nat) (bs : List Byte), Memory.wf m = true → Memory.wf (writeBytes m a bs) = true))

/-- LD and ST of the store space (R115, R125, R259, R260): W bytes at ra + OFF, extended as SX says; a store changes
those bytes of the rafter's store and nothing else; an access outside its area takes STORE_RANGE, a misaligned one
ALIGN. LD and ST of the device space (R126, R145, R259): a load answers the bytes that the device read, or the register, gives, and takes
UE_LOAD where a word is uncorrectable; it waits, asked for in the request table, while it cannot be served; a store is issued as a write
beat and kept until it is acknowledged, and waits while 64 are kept; a violation freezes the rafter with its
cause, and a misaligned access takes ALIGN. LD of 8 bytes with SX is illegal (R259). -/
def Obligations.LoadsAndStores : Prop :=
  (∀ (n : Fin 256) (w : Word) (s u : State), opIs 1 0x40 w = true → seqIssues s u n w (formMem true false true) →
    fld w 37 2 = 3 → bitOf w 35 = true →
    exec (.ld (.seq n) w) s = .next (takeTrap u n { cause := 0x01, pc := (raf u n).pc, insn := w })) ∧
  (∀ (n : Fin 256) (w : Word) (s u : State) (a : Word), a = sreg (raf u n) (iRa w) + iOff w → bitOf w 36 = false →
    (opIs 1 0x40 w = true → seqIssues s u n w (formMem true false true) → (fld w 37 2 = 3 → bitOf w 35 = false) →
      (storeFault a (iWidth w) false = none → exec (.ld (.seq n) w) s = .next (seqNext u n fun r =>
        { setSreg r (iRd w) (loadExt w (readBytes r.store a.toNat (iWidth w))) with pc := r.pc + 8 })) ∧
      (∀ c, storeFault a (iWidth w) false = some c →
        exec (.ld (.seq n) w) s = .next (takeTrap u n { cause := c, pc := (raf u n).pc, addr := a, insn := w }))) ∧
    (opIs 1 0x41 w = true → seqIssues s u n w (formMem true false false) →
      (storeFault a (iWidth w) true = none → exec (.st (.seq n) w) s = .next (seqNext u n fun r =>
        { r with store := writeBytes r.store a.toNat ((wordBytes (sreg r (iRd w))).take (iWidth w)), pc := r.pc + 8 })) ∧
      (∀ c, storeFault a (iWidth w) true = some c →
        exec (.st (.seq n) w) s = .next (takeTrap u n { cause := c, pc := (raf u n).pc, addr := a, insn := w })))) ∧
  (∀ (n : Fin 256) (w : Word) (s u : State) (a : Word), a = sreg (raf u n) (iRa w) + iOff w → bitOf w 36 = true →
    opIs 1 0x40 w = true → seqIssues s u n w (formMem true false true) → (fld w 37 2 = 3 → bitOf w 35 = false) →
    (∀ c, deviceFault u n a (iWidth w) false = some c →
      exec (.ld (.seq n) w) s = .next (takeTrap u n { cause := c, pc := (raf u n).pc, addr := a, insn := w })) ∧
    (deviceFault u n a (iWidth w) false = none →
      (∀ t, readWaits u n (rafAcc u n).cls [{ src := .seq, addr := a.toNat, len := iWidth w }] = some t →
        exec (.ld (.seq n) w) s = .next t) ∧
      (readWaits u n (rafAcc u n).cls [{ src := .seq, addr := a.toNat, len := iWidth w }] = none →
        ∀ v, v = readBeats (endRead u n .seq) n (iWidth w) →
        (isRegs a.toNat = true → ∀ t x, regRead v (.rafter n) a.toNat (iWidth w) = (t, x) →
          exec (.ld (.seq n) w) s = .next (seqNext t n fun r =>
            { setSreg r (iRd w) (loadExt w ((wordBytes x).take (iWidth w))) with pc := r.pc + 8 })) ∧
        (isRegs a.toNat = false → ∀ t bs bad, devRead v a.toNat (iWidth w) (rafAcc v n) = (t, bs, bad) →
          (bad = none → exec (.ld (.seq n) w) s = .next (seqNext t n fun r =>
            { setSreg r (iRd w) (loadExt w bs) with pc := r.pc + 8 })) ∧
          (bad ≠ none → exec (.ld (.seq n) w) s =
            .next (takeTrap t n { cause := 0x07, pc := (raf u n).pc, addr := a, insn := w })))))) ∧
  (∀ (n : Fin 256) (w : Word) (s u : State) (a : Word), a = sreg (raf u n) (iRa w) + iOff w → bitOf w 36 = true →
    opIs 1 0x41 w = true → seqIssues s u n w (formMem true false false) →
    (deviceFault u n a (iWidth w) true = none →
      ((raf u n).beats.length < 64 → exec (.st (.seq n) w) s = .next (seqNext (issueBeat u n
        { runs := [(a.toNat, (wordBytes (sreg (raf u n) (iRd w))).take (iWidth w))], done := true }) n fun r =>
        { r with pc := r.pc + 8 })) ∧
      (64 ≤ (raf u n).beats.length → exec (.st (.seq n) w) s = .next u)) ∧
    (∀ c, deviceFault u n a (iWidth w) true = some c →
      exec (.st (.seq n) w) s = .next (takeTrap u n { cause := c, pc := (raf u n).pc, addr := a, insn := w })))

namespace Sys2Proof.Claim

/-- A conditional branch: `p` says whether it is taken; it changes nothing but the program counters. -/
def condBranch (c : Issuer → Word → Instr) (op : Nat) (p : Word → Word → Bool) : Prop :=
  (∀ (n : Fin 256) (w : Word) (s u : State), opIs 2 op w = true → seqIssues s u n w formBr →
    exec (c (.seq n) w) s = .next (seqNext u n fun r =>
      { r with pc := if p (sreg r (iRa w)) (sreg r (iRb w)) then iTgt w else r.pc + 8 })) ∧
  (∀ (n : Fin 256) (y : Fin 16) (w : Word) (s u : State) (x : YSlot) (live sub : List Nat) (pc : BitVec 20),
    opIs 2 op w = true → thrIssues s u n y w formBr x live sub pc →
    ∀ go, go = sub.filter (fun k => p (treg (thr x k) (iRa w)) (treg (thr x k) (iRb w))) →
    exec (c (.thr n y) w) s = .next (thrNext u n y (subPast (subPast x sub (pc + 8)) go (iTgt w)) live sub pc
      (if (iTgt w).toNat < pc.toNat then go else [])))

/-- A jump of form `f` to the address that `tgt` makes of ra, for both issuers; `link` writes PC + 8 to rd. An address that
is not a multiple of 8 takes ALIGN (R262). -/
def jump (c : Issuer → Word → Instr) (op : Nat) (f : Form) (link : Bool) (tgt : Word → Word → Word) : Prop :=
  (∀ (n : Fin 256) (w : Word) (s u : State) (a : Word), opIs 2 op w = true → seqIssues s u n w f →
    a = tgt w (sreg (raf u n) (iRa w)) →
    (fld a 0 3 = 0 → exec (c (.seq n) w) s = .next (seqNext u n fun r =>
      { (if link then setSreg r (iRd w) (BitVec.ofNat 64 (r.pc + 8).toNat) else r) with pc := BitVec.ofNat 20 (fld a 0 20) })) ∧
    (fld a 0 3 ≠ 0 → exec (c (.seq n) w) s = .next (takeTrap u n { cause := 0x04, pc := (raf u n).pc, insn := w }))) ∧
  (∀ (n : Fin 256) (y : Fin 16) (w : Word) (s u : State) (x : YSlot) (live sub : List Nat) (pc : BitVec 20) (a : Nat → Word),
    opIs 2 op w = true → thrIssues s u n y w f x live sub pc → (∀ k, a k = tgt w (treg (thr x k) (iRa w))) →
    ((∀ k ∈ sub, fld (a k) 0 3 = 0) → exec (c (.thr n y) w) s = .next (thrNext u n y
      (sub.foldl (fun x k => setThr x k { thr x k with pc := BitVec.ofNat 20 (fld (a k) 0 20) })
        (if link then subWrite (subPast x sub (pc + 8)) (iRd w) (sub.map fun k => (k, BitVec.ofNat 64 (pc + 8).toNat))
          else subPast x sub (pc + 8))) live sub pc
      (sub.filter fun k => decide ((BitVec.ofNat 20 (fld (a k) 0 20)).toNat < pc.toNat)))) ∧
    ((∃ k ∈ sub, fld (a k) 0 3 ≠ 0) → exec (c (.thr n y) w) s =
      .next (yTrap u n y x 0x04 (sub.filter fun k => decide (fld (a k) 0 3 ≠ 0)) pc 0)))

end Sys2Proof.Claim

/-- R261 and R262: the conditional branches, for both issuers. R134, R261 and R262: jumps and links, for both issuers, and the return from a
trap; a register jump to an address that is not a multiple of 8 takes ALIGN; RTT goes back to RUN at the frame's PC,
or past the instruction there, and is illegal in RUN. That a link is taken in the 20 bits of the PC is the model's choice
(assumption log 38). -/
def Obligations.BranchesAndJumps : Prop :=
  (condBranch .beq 0x00 (fun a b => decide (a = b)) ∧ condBranch .bne 0x01 (fun a b => decide (a ≠ b)) ∧
  condBranch .blt 0x02 (fun a b => decide (a.toInt < b.toInt)) ∧
  condBranch .bge 0x03 (fun a b => decide (b.toInt ≤ a.toInt)) ∧
  condBranch .bltu 0x04 (fun a b => decide (a.toNat < b.toNat)) ∧
  condBranch .bgeu 0x05 (fun a b => decide (b.toNat ≤ a.toNat))) ∧
  (jump .jmp 0x08 (mkForm [] (maskOf 3 17) true true) false (fun w _ => (iTgt w).setWidth 64) ∧
  jump .jal 0x09 (mkForm [45] (maskOf 3 17) true true) true (fun w _ => (iTgt w).setWidth 64) ∧
  jump .jr 0x0A (mkForm [39] 0 true true) false (fun _ a => a) ∧
  jump .jalr 0x0B (mkForm [45, 39] 0 true true) true (fun _ a => a)) ∧
  (∀ (n : Fin 256) (w : Word) (s u : State), opIs 2 0x11 w = true → seqIssues s u n w (mkForm [] 1 true false) →
    ((raf s n).st = .handler → exec (.rtt (.seq n) w) s = .next (seqNext u n fun r => { r with
        st := .run,
        pc := BitVec.ofNat 20 (fld (storeWord r 0xEF008) 0 20) +
          (if bitOf w 0 then (if bitOf (storeWord r 0xEF018) 51 then 16 else 8) else 0) })) ∧
    ((raf s n).st = .run →
      exec (.rtt (.seq n) w) s = .next (takeTrap u n { cause := 0x01, pc := (raf u n).pc, insn := w })))

/-- R120, R131, R133, R225 and R261: FRZ writes the trap frame and freezes the rafter with SELF; BRK takes the trap
BREAK, for both issuers. ENDP takes the trap YEALM at the lowest TRAPPED slot in RUN, and in HANDLER discards the queued launches and
stops every slot; it then ends the pass at once where nothing is left to end, else it waits, and ENDP_COMPLETE ends the pass once
nothing is left, or takes that trap. The pass is failed where F is 1, in HANDLER, and where a channel is HALTED or FROZEN when ENDP is
reached. The rafter is then IDLE, and the pass is reported to the session engine. -/
def Obligations.PassEnds : Prop :=
  (∀ (n : Fin 256) (w : Word) (s u : State),
    (opIs 2 0x12 w = true → seqIssues s u n w (mkForm [] 0 true false) →
      exec (.frz (.seq n) w) s = .next (countR (freezeRafter (countR (writeFrame u n
        { cause := 0x15, pc := (raf u n).pc, insn := w }) n 0x00C 1) n 0x15) n 0x002 1)) ∧
    (opIs 2 0x13 w = true → seqIssues s u n w (mkForm [] (maskOf 0 16) true true) →
      exec (.brk (.seq n) w) s = .next (takeTrap u n { cause := 0x0A, pc := (raf u n).pc, insn := w }))) ∧
  (∀ (n : Fin 256) (y : Fin 16) (w : Word) (s u : State) (x : YSlot) (live sub : List Nat) (pc : BitVec 20),
    opIs 2 0x13 w = true → thrIssues s u n y w (mkForm [] (maskOf 0 16) true true) x live sub pc →
    exec (.brk (.thr n y) w) s = .next (yTrap u n y x 0x0A sub pc 0)) ∧
  (∀ (n : Fin 256) (w : Word) (s u : State), opIs 2 0x10 w = true → seqIssues s u n w (mkForm [] 1 true false) →
    (∀ y, (raf u n).st = .run → trappedSlot (raf u n) = some y →
      exec (.endp (.seq n) w) s = .next (takeTrap u n (yealmTrap u n y w))) ∧
    (((raf u n).st ≠ .run ∨ trappedSlot (raf u n) = none) →
      ∀ v, v = modRaf u n (fun r => starveStuck (if r.st = .handler then endpStops r else r)) →
      (endpReady (raf v n) = true → exec (.endp (.seq n) w) s =
        .next (countR (endPass v n (endpFails (raf u n) (bitOf w 0))) n 0x002 1)) ∧
      (endpReady (raf v n) = false → exec (.endp (.seq n) w) s =
        .next (seqNext v n fun r => { r with wait := .endp (endpFails (raf u n) (bitOf w 0)), insn := w })))) ∧
  (∀ (n : Fin 256) (s : State) (f : Bool), stopped s = false → (raf s n).wait = .endp f →
    (∀ y, (raf s n).st = .run → trappedSlot (raf s n) = some y →
      exec (.endpComplete n) s = .next (takeTrap s n (yealmTrap s n y (raf s n).insn))) ∧
    (((raf s n).st ≠ .run ∨ trappedSlot (raf s n) = none) → endpReady (raf s n) = true →
      exec (.endpComplete n) s = .next (endPass s n f))) ∧
  ((∀ (r : Rafter) (f : Bool), endpFails r f = true ↔
    (f = true ∨ r.st = .handler ∨ ∃ c, c < 16 ∧ ((chan r c).st = .halted ∨ (chan r c).st = .frozen))) ∧
  (∀ r : Rafter, (endpStops r).launch = [] ∧ ∀ y, y < 16 → yOwes r y = false →
    ((yslot r y).st = .run ∨ (yslot r y).st = .trapped) → (yslot (endpStops r) y).st = .free) ∧
  (∀ (n : Nat) (s : State) (f : Bool), (runningPass s n = none → (raf (endPass s n f) n).st = .idle) ∧
    (∀ p, runningPass s n = some p → ∃ v skip, endPass s n f = reportPass v p.id n f skip ∧
      (raf v n).st = .idle ∧ (raf v n).wait = .none ∧ v.ses = s.ses)))

/-! ## Yealms and threads -/

/-- The yealm-launch class (R216, R219-R223, R263): a launch enters the queue, waits while 16 are queued, and is illegal with no
thread, with more than 32, and with notice word 1; the launch at the queue's head starts in a FREE
slot with t1 the thread number, t2 the argument and t3 the slot; YWAIT completes once its slot is FREE and owes nothing, traps where it
is or becomes TRAPPED, and else waits; YKILL frees a slot with CLEARED in its notice word, a running one once its beats are acknowledged, and has no
effect on a FREE slot; a slot whose threads have exited, or that YKILL stopped, retires once its beats are
acknowledged, with DONE or CLEARED. -/
def Obligations.YealmLifecycle : Prop :=
  (∀ (n : Fin 256) (w : Word) (s u : State), opIs 3 0x00 w = true → seqIssues s u n w (mkForm [39] (maskOf 3 36) true false) →
    ((1 ≤ fld w 29 6 ∧ fld w 29 6 ≤ 32 ∧ fld w 20 9 ≠ 1) →
      ((raf u n).launch.length < 16 → exec (.ylaunch (.seq n) w) s = .next (seqNext u n fun r => { r with
        launch := r.launch ++ [{
          slot := fld w 35 4, entry := iTgt w, nthr := fld w 29 6, arg := sreg r (iRa w), notice := fld w 20 9 }],
        pc := r.pc + 8 })) ∧
      (16 ≤ (raf u n).launch.length → exec (.ylaunch (.seq n) w) s = .next u)) ∧
    ((fld w 29 6 = 0 ∨ 32 < fld w 29 6 ∨ fld w 20 9 = 1) →
      exec (.ylaunch (.seq n) w) s = .next (takeTrap u n { cause := 0x01, pc := (raf u n).pc, insn := w }))) ∧
  (∀ (n : Fin 256) (l : Launch) (ls : List Launch) (s : State), stopped s = false → (raf s n).launch = l :: ls →
    ((raf s n).st = .run ∨ (raf s n).st = .handler) → (yslot (raf s n) l.slot).st = .free → l.nthr ≤ 32 →
    ∃ t, exec (.yealmStart n) s = .next t ∧ t = { s with rafters := t.rafters, work := t.work } ∧ (raf t n).launch = ls ∧
      (yslot (raf t n) l.slot).st = .run ∧ (∀ y, y ≠ l.slot → yslot (raf t n) y = yslot (raf s n) y) ∧
      (∀ k, k < l.nthr → thr (yslot (raf t n) l.slot) k = startThread l k) ∧
      (∀ k, l.nthr ≤ k → (thr (yslot (raf t n) l.slot) k).exited = true) ∧ (∀ m, m ≠ n.val → raf t m = raf s m)) ∧
  (∀ (n : Fin 256) (w : Word) (s u : State), opIs 3 0x01 w = true → seqIssues s u n w (mkForm [] (maskOf 35 4) true false) →
    ((yslot (raf u n) (fld w 35 4)).st = .trapped →
      exec (.ywait (.seq n) w) s = .next (takeTrap u n (yealmTrap u n (fld w 35 4) w))) ∧
    ((yslot (raf u n) (fld w 35 4)).st ≠ .trapped →
      (ywaitDone (raf u n) (fld w 35 4) = true →
        exec (.ywait (.seq n) w) s = .next (seqNext u n fun r => { r with pc := r.pc + 8 })) ∧
      (ywaitDone (raf u n) (fld w 35 4) = false →
        exec (.ywait (.seq n) w) s = .next (seqNext u n fun r => { r with wait := .ywait (fld w 35 4), insn := w })))) ∧
  (∀ (n : Fin 256) (y : Nat) (s : State), stopped s = false → (raf s n).wait = .ywait y →
    ((yslot (raf s n) y).st = .trapped →
      exec (.ywaitComplete n) s = .next (takeTrap s n (yealmTrap s n y (raf s n).insn))) ∧
    (ywaitDone (raf s n) y = true →
      exec (.ywaitComplete n) s = .next (modRaf s n fun r => { r with wait := .none, pc := r.pc + 8 }))) ∧
  (∀ (n : Fin 256) (w : Word) (s u : State), opIs 3 0x02 w = true → seqIssues s u n w (mkForm [] (maskOf 35 4) true false) →
    exec (.ykill (.seq n) w) s = .next (seqNext u n fun r => { yKill r (fld w 35 4) with pc := r.pc + 8 })) ∧
  (∀ (r : Rafter) (y : Nat) (x : YSlot), x = yslot r y →
    ((x.st = .trapped ∨ (x.st = .run ∧ yOwes r y = false)) → yKill r y = yFree (dropYealm r y) y 0x03) ∧
    (x.st = .run → yOwes r y = true → yKill r y = setYslot (dropYealm r y) y { x with killed := true }) ∧
    (x.st = .free → yKill r y = dropYealm r y)) ∧
  (∀ (r : Rafter) (y status : Nat) (x : YSlot), x = yslot r y → yslot (yFree r y status) y = {} ∧
    (x.notice ≠ 0 → x.notice < 512 → storeWord (yFree r y status) (noticeOff x.notice) =
      noticeValue (storeWord r (noticeOff x.notice)) status (ylmValue x.nthr x.issued)) ∧
    (x.notice = 0 → (yFree r y status).store = r.store)) ∧
  (∀ (n : Fin 256) (y : Fin 16) (s : State) (x : YSlot), x = yslot (raf s n) y → stopped s = false →
    ((raf s n).st = .run ∨ (raf s n).st = .handler) → x.st = .run → (x.killed = true ∨ yAlive x = []) → yOwes (raf s n) y = false →
    exec (.yealmRetire n y) s = .next (setRaf s n (yFree (raf s n) y (if x.killed then 3 else 0))))

/-- R233, R268 and R269: the floating operations of a thread, each on the low 32 bits of its operands; FCVT's illegal forms trap. Thread
instructions that exchange, reduce, draw, wait or end (R230, R234-R237, R240, R268): YSHFL reads another thread's
register, YRED gives every thread the reduction, FSFU and YRAND take one free draw for each thread, YFENCE passes
where no beat of the yealm is outstanding and else waits, YBAR holds the subset, YEXIT ends its threads; a reserved function code of
YRED or FSFU is illegal. -/
def Obligations.ThreadOperations : Prop :=
  (thrAlu .fadd 8 0x00 (mkForm [45, 39, 33] 0 false true) (fun _ => false)
    (fun w q => up64 (add32 (lo32 (q (iRa w))) (lo32 (q (iRb w))))) ∧
  thrAlu .fmul 8 0x01 (mkForm [45, 39, 33] 0 false true) (fun _ => false)
    (fun w q => up64 (mul32 (lo32 (q (iRa w))) (lo32 (q (iRb w))))) ∧
  thrAlu .fma 8 0x02 (mkForm [45, 39, 33, 27] 0 false true) (fun _ => false)
    (fun w q => up64 (fma32 (lo32 (q (iRa w))) (lo32 (q (iRb w))) (lo32 (q (iRc w))))) ∧
  thrAlu .fmin 8 0x03 (mkForm [45, 39, 33] 0 false true) (fun _ => false)
    (fun w q => up64 (minMax32 false (lo32 (q (iRa w))) (lo32 (q (iRb w))))) ∧
  thrAlu .fmax 8 0x04 (mkForm [45, 39, 33] 0 false true) (fun _ => false)
    (fun w q => up64 (minMax32 true (lo32 (q (iRa w))) (lo32 (q (iRb w))))) ∧
  thrAlu .fcmp 8 0x05 (mkForm [45, 39, 33] 3 false true) (fun _ => false)
    (fun w q => if fRelation (fld w 0 2) (lo32 (q (iRa w))) (lo32 (q (iRb w))) then 1 else 0) ∧
  thrAlu .fcvt 8 0x06 (mkForm [45, 39] (maskOf 0 9) false true) cvtBad
    (fun w q => cvtOut (fld w 4 4) (bitOf w 8) (cvtIn (fld w 0 4) (q (iRa w))))) ∧
  (∀ (n : Fin 256) (y : Fin 16) (w : Word) (s u : State) (x : YSlot) (live sub : List Nat) (pc : BitVec 20),
    (opIs 8 0x18 w = true → thrIssues s u n y w (mkForm [45, 39, 33] 0 false true) x live sub pc →
      exec (.yshfl (.thr n y) w) s = .next (thrNext u n y (subPast (subWrite x (iRd w)
        (sub.map fun k => (k, treg (thr x ((treg (thr x k) (iRa w)).toNat % 32)) (iRb w)))) sub (pc + 8)) live sub pc [])) ∧
    (opIs 8 0x19 w = true → thrIssues s u n y w (mkForm [45, 39] (maskOf 0 3) false true) x live sub pc →
      (fld w 0 3 ≠ 7 → exec (.yred (.thr n y) w) s = .next (thrNext u n y (subPast (subWrite x (iRd w) (sub.map fun k =>
        (k, reduce (fld w 0 3) (sub.map fun j => (j, treg (thr x j) (iRa w)))))) sub (pc + 8)) live sub pc [])) ∧
      (fld w 0 3 = 7 → exec (.yred (.thr n y) w) s = .next (yTrap u n y x 0x01 sub pc 0))) ∧
    (opIs 8 0x1A w = true → thrIssues s u n y w (mkForm [45] 0 false true) x live sub pc →
      exec (.yrand (.thr n y) w) s = .next (thrNext { u with free := u.free + sub.length } n y
        (subPast (subWrite x (iRd w) ((sub.zip (List.range sub.length)).map fun k =>
          (k.1, (Config.free (u.free + k.2)) &&& 0xFFFFFFFF))) sub (pc + 8)) live sub pc [])) ∧
    (opIs 8 0x07 w = true → thrIssues s u n y w (mkForm [45, 39] (maskOf 0 3) false true) x live sub pc →
      (fld w 0 3 ≤ 5 → exec (.fsfu (.thr n y) w) s = .next (thrNext { u with free := u.free + sub.length } n y
        (subPast (subWrite x (iRd w) ((sub.zip (List.range sub.length)).map fun k =>
          (k.1, up64 (sfu (fld w 0 3) (lo32 (treg (thr x k.1) (iRa w))) (Config.free (u.free + k.2)).toNat))))
          sub (pc + 8)) live sub pc [])) ∧
      (5 < fld w 0 3 → exec (.fsfu (.thr n y) w) s = .next (yTrap u n y x 0x01 sub pc 0))) ∧
    (opIs 8 0x06 w = true → thrIssues s u n y w (mkForm [45, 39] (maskOf 0 9) false true) x live sub pc → cvtBad w = true →
      exec (.fcvt (.thr n y) w) s = .next (yTrap u n y x 0x01 sub pc 0)) ∧
    (opIs 8 0x17 w = true → thrIssues s u n y w (mkForm [] 0 false true) x live sub pc →
      ((∀ b ∈ (raf u n).beats, b.yslot ≠ some y.val) →
        exec (.yfence (.thr n y) w) s = .next (thrNext u n y (subPast x sub (pc + 8)) live sub pc [])) ∧
      ((∃ b ∈ (raf u n).beats, b.yslot = some y.val) → exec (.yfence (.thr n y) w) s = .next u)) ∧
    (opIs 8 0x1B w = true → thrIssues s u n y w (mkForm [] 0 false true) x live sub pc →
      exec (.ybar (.thr n y) w) s = .next (thrNext u n y
        (sub.foldl (fun x k => setThr x k { thr x k with held := true }) x) live sub pc [])) ∧
    (opIs 8 0x1C w = true → thrIssues s u n y w (mkForm [] 0 false true) x live sub pc →
      exec (.yexit (.thr n y) w) s = .next (thrNext u n y
        (sub.foldl (fun x k => setThr x k { thr x k with exited := true }) (subPast x sub (pc + 8))) live sub pc [])))

namespace Sys2Proof.Claim

/-- What a cause that threads `ts` meet does (R248, R250): the slot traps, or the rafter freezes. -/
def thrCause (s : State) (n y : Nat) (x : YSlot) (c : Nat) (ts : List Nat) (pc : BitVec 20) (a : Word) : State :=
  if 0x10 ≤ c then yFreeze s n y x c ts pc a else yTrap s n y x c ts pc a

/-- A thread atomic of 4 or 8 bytes, in the store space or the device space; `upd` is what a thread makes of the value it finds,
`comb` says whether threads that name one address are combined. An atomic of a form that `bad` refuses is illegal. -/
def thrAtomic (c : Issuer → Word → Instr) (op : Nat) (f : Form) (bad : Word → Bool) (comb : Bool)
    (upd : Word → Thread → Word → Word) : Prop :=
  ∀ (n : Fin 256) (y : Fin 16) (w : Word) (s u : State) (x : YSlot) (live sub : List Nat) (pc : BitVec 20) (b : Nat) (dev : Bool)
    (as : List (Nat × Word)) (cs : List (Nat × Word × Option Nat)) (qs : List RdReq),
    opIs 8 op w = true → thrIssues s u n y w f x live sub pc → b = (if bitOf w 5 then 8 else 4) → dev = bitOf w 6 →
    as = sub.map (fun k => (k, atomAddr w (thr x k))) → cs = as.map (fun a => (a.1, a.2, atomFault u n dev a.2 b)) →
    qs = as.map (fun a => { src := .ylm y, addr := a.2.toNat, len := b }) →
    (bad w = true → exec (c (.thr n y) w) s = .next (yTrap u n y x 0x01 sub pc 0)) ∧
    (bad w = false → ∀ e ts a, firstCause cs = some (e, ts, a) →
      exec (c (.thr n y) w) s = .next (thrCause u n y x e ts pc a)) ∧
    (bad w = false → firstCause cs = none →
      (∀ t, dev = true → readWaits u n (ylmAcc u n).cls qs = some t → exec (c (.thr n y) w) s = .next t) ∧
      ((dev = true → readWaits u n (ylmAcc u n).cls qs = none) → ∀ v ue,
        v = countR (if dev then endRead u n (.ylm y) else u) n 0x008 (sectorsOf as).length → ue = as.filter (fun a => dev && badAt v (a.2.toNat / 8 * 8)) →
        (∀ a l, ue = a :: l → exec (c (.thr n y) w) s = .next (thrCause
          (atomicMap v (a.2.toNat / 8 * 8) id (ylmAcc v n)).1 n y x 0x07 (ue.map Prod.fst) pc a.2)) ∧
        (ue = [] → ∀ t vs, execAtoms v n dev b (atomGroups comb as) (fun k => upd w (thr x k)) = (t, vs) →
          exec (c (.thr n y) w) s =
            .next (thrNext t n y (subPast (subWrite x (iRd w) vs) sub (pc + 8)) live sub pc []))))

end Sys2Proof.Claim

/-- Thread loads, stores and atomics (R238, R239, R241-R243, R268, R269): every thread loads the W
bytes at its own address, of the store or, a read of each 32-byte sector, of the device space; a store takes the bytes of all threads, the highest
thread winning, into the store or as one write beat for each sector. Where a thread's access has a cause, the slot traps, or the rafter freezes, with the
threads that meet it; a load that meets an uncorrectable word takes UE_LOAD; a load of 8 bytes with SX is illegal; an instruction that the spar
port cannot serve waits. An atomic of the store gives each thread the value just before its own, in ascending order. -/
def Obligations.ThreadMemory : Prop :=
  (∀ (n : Fin 256) (y : Fin 16) (w : Word) (s u : State) (x : YSlot) (live sub : List Nat) (pc : BitVec 20) (k : Nat)
    (as : List (Nat × Word)) (cs : List (Nat × Word × Option Nat)), k = iWidth w → opIs 8 0x10 w = true →
    thrIssues s u n y w (formMem false true true) x live sub pc → as = sub.map (fun t => (t, treg (thr x t) (iRa w) + iOff w)) →
    cs = as.map (fun a => (a.1, a.2, if bitOf w 36 then deviceFault u n a.2 k false else storeFault a.2 k false)) →
    (fld w 37 2 = 3 → bitOf w 35 = true → exec (.yld (.thr n y) w) s = .next (yTrap u n y x 0x01 sub pc 0)) ∧
    ((fld w 37 2 = 3 → bitOf w 35 = false) →
      (∀ e ts a, firstCause cs = some (e, ts, a) → exec (.yld (.thr n y) w) s = .next (thrCause u n y x e ts pc a)) ∧
      (firstCause cs = none → bitOf w 36 = false →
        exec (.yld (.thr n y) w) s = .next (thrNext (countR u n 0x008 (sectorsOf as).length) n y (subPast (subWrite x (iRd w)
          (as.map fun a => (a.1, loadExt w (readBytes (raf u n).store a.2.toNat k)))) sub (pc + 8)) live sub pc [])) ∧
      (firstCause cs = none → bitOf w 36 = true →
        (∀ t, readWaits u n (ylmAcc u n).cls (sectorReads y as) = some t → exec (.yld (.thr n y) w) s = .next t) ∧
        (readWaits u n (ylmAcc u n).cls (sectorReads y as) = none → ∀ t m bad hit,
          readSectors (endRead u n (.ylm y)) n as = (t, m, bad) → hit = as.filter (fun a => bad.contains (a.2.toNat / 32)) →
          (hit = [] → exec (.yld (.thr n y) w) s = .next (thrNext (countR t n 0x008 (sectorsOf as).length) n y
            (subPast (subWrite x (iRd w) (as.map fun a => (a.1, loadExt w (readBytes m a.2.toNat k)))) sub (pc + 8))
            live sub pc [])) ∧
          (∀ a l, hit = a :: l → exec (.yld (.thr n y) w) s = .next (thrCause
            (countR t n 0x008 (sectorsOf as).length) n y x 0x07 (hit.map Prod.fst) pc a.2)))))) ∧
  (∀ (n : Fin 256) (y : Fin 16) (w : Word) (s u : State) (x : YSlot) (live sub : List Nat) (pc : BitVec 20) (k : Nat)
    (vs : List (Nat × Word × List Byte)) (as : List (Nat × Word)) (cs : List (Nat × Word × Option Nat)), k = iWidth w →
    opIs 8 0x11 w = true → thrIssues s u n y w (formMem false true false) x live sub pc →
    vs = sub.map (fun t => (t, treg (thr x t) (iRa w) + iOff w, (wordBytes (treg (thr x t) (iRd w))).take k)) →
    as = vs.map (fun v => (v.1, v.2.1)) →
    cs = as.map (fun a => (a.1, a.2, if bitOf w 36 then deviceFault u n a.2 k true else storeFault a.2 k true)) →
    (∀ e ts a, firstCause cs = some (e, ts, a) → exec (.yst (.thr n y) w) s = .next (thrCause u n y x e ts pc a)) ∧
    (firstCause cs = none → bitOf w 36 = false →
      exec (.yst (.thr n y) w) s = .next (thrNext (modRaf (countR u n 0x008 (sectorsOf as).length) n
        fun r => { r with store := (storeBytes vs).foldl (fun m b => writeByte m b.1 b.2) r.store })
        n y (subPast x sub (pc + 8)) live sub pc [])) ∧
    (firstCause cs = none → bitOf w 36 = true →
      (64 < (raf u n).beats.length + (sectorsOf as).length → exec (.yst (.thr n y) w) s = .next u) ∧
      ((raf u n).beats.length + (sectorsOf as).length ≤ 64 → exec (.yst (.thr n y) w) s = .next (thrNext
        ((sectorsOf as).foldl (fun s q => issueBeat s n {
          runs := runsOf ((storeBytes vs).filter fun b => b.1 / 32 = q), done := true, yslot := some y.val })
          (countR u n 0x008 (sectorsOf as).length)) n y (subPast x sub (pc + 8)) live sub pc [])))) ∧
  (thrAtomic .yatom 0x14 (mkForm [45, 39, 33] (maskOf 5 22 ||| maskOf 0 4) false true)
    (fun w => decide (8 < fld w 0 4) || (decide (fld w 0 4 = 1) && bitOf w 5)) true
    (fun w t v => aop (fld w 0 4) (bitOf w 5) v (treg t (iRb w))) ∧
  thrAtomic .ycas 0x15 (mkForm [45, 39, 33, 27] (maskOf 5 22) false true) (fun _ => false) false
    (fun w t v => if v = atomVal w (treg t (iRb w)) then atomVal w (treg t (iRc w)) else v) ∧
  thrAtomic .yswap 0x16 (mkForm [45, 39, 33] (maskOf 5 22) false true) (fun _ => false) false
    (fun w t _ => atomVal w (treg t (iRb w)))) ∧
  (∀ (s : State) (n b a : Nat) (ts : List Nat) (upd : Nat → Word → Word) (old : Word),
    old = bytesWord (readBytes (raf s n).store a b) →
    execAtoms s n false b [(a, ts)] upd =
      (modRaf s n fun r => { r with
        store := writeBytes r.store a ((wordBytes (ts.foldl (fun v k => upd k v) old)).take b) },
       (ts.zip (List.range ts.length)).map fun k => (k.1, (ts.take k.2).foldl (fun v j => upd j v) old)))

namespace Sys2Proof.Claim

/-- What POLL and POLLI do at issue with the timeout `t` (R54, R130): the lowest named word that is set is answered; else the
sequencer waits, with a timeout that starts at the held time unless it is 0. -/
def polled (s : State) (n : Nat) (w : Word) (long : Bool) (t : Word) : State :=
  match pollSet (raf s n) (fld w 0 9) (fld w 9 3 + 1) with
  | some i => seqNext s n fun r =>
      { setSreg { r with wait := .none } (iRd w) (BitVec.ofNat 64 i) with pc := r.pc + (if long then 16 else 8) }
  | none =>
    let wait := fun (r : Rafter) => { r with
      wait := Wait.poll (BitVec.ofNat 6 (iRd w)) (fld w 0 9) (fld w 9 3 + 1) long (decide (t ≠ 0)) }
    if t = 0 then seqNext s n wait
    else seqNext { s with time := { s.time with
      timeouts := (s.time.timeouts.filter fun x => x.reader ≠ n) ++
        [{ reader := n, due := s.time.beacon.toNat + t.toNat + 64 }] } } n wait

end Sys2Proof.Claim

/-- Counters and notice words (R20, R130, R138, R139, R266, R267): a CADD waits at the spar port and is performed at its
bay's atomic unit, its addend, and the result that comes back, crossing the spar channel, the returning form while the sequencer waits, which takes UE_LOAD where the counter is uncorrectable
(R131, R288); a watch is registered; either takes the cause that its address meets; a poll answers the lowest named word that is set, or waits for one, with
a timeout unless it is 0, which answers all ones, or the word found set then; NCLR zeroes the named words. A notice word that is not
there, words 0 and 1 for a watch, and the returning form's register without it are illegal. -/
def Obligations.CountersAndNotices : Prop :=
  (∀ (n : Fin 256) (w : Word) (s u : State), opIs 6 0x00 w = true →
    seqIssues s u n w (mkForm [45, 39, 33] (maskOf 0 17) true false) →
    (bitOf w 16 = false → iRd w ≠ 0 →
      exec (.cadd (.seq n) w) s = .next (takeTrap u n { cause := 0x01, pc := (raf u n).pc, insn := w })) ∧
    ((bitOf w 16 = false → iRd w = 0) →
      (∀ c, counterFault u n (sreg (raf u n) (iRa w)) true = some c → exec (.cadd (.seq n) w) s =
        .next (takeTrap u n { cause := c, pc := (raf u n).pc, addr := sreg (raf u n) (iRa w), insn := w })) ∧
      (counterFault u n (sreg (raf u n) (iRa w)) true = none → exec (.cadd (.seq n) w) s = .next (seqNext u n fun r => { r with
        cadds := r.cadds ++ [{
          rd := if bitOf w 16 = true ∧ iRd w ≠ 0 then some (iRd w) else none,
          addr := (sreg r (iRa w)).toNat, addend := sreg r (iRb w),
          stores := (r.beats.filter seqStore).length,
          descs := (idxs 16 fun c => bitOf w c).map fun c => (c, (chan r c).queue.length), ret := bitOf w 16 }],
        pc := if bitOf w 16 then r.pc else r.pc + 8, wait := if bitOf w 16 then .cadd else r.wait,
        insn := if bitOf w 16 then w else r.insn })))) ∧
  (∀ (n : Fin 256) (m : CAdd) (ms : List CAdd) (s t : State) (old : Option Word), stopped s = false → (raf s n).cadds = m :: ms →
    m.stores = 0 → (∀ d ∈ m.descs, d.2 = 0) → portHeld s n = false → bayAway s m.addr = false →
    atomicAdd (writeBeats (modRaf s n fun r => { r with cadds := ms }) n 8) m.addr m.addend
      { rafAcc (modRaf s n fun r => { r with cadds := ms }) n with cons := if m.ret then 4 else 5 } = (t, old) →
    (m.ret = false → exec (.caddPerform n) s = .next t) ∧
    (m.ret = true → ∀ u, u = readBeats t n 8 →
      (∀ v, old = some v → exec (.caddPerform n) s = .next (modRaf u n fun r =>
        if r.wait = .cadd then { (match m.rd with | some d => setSreg r d v | none => r) with wait := .none, pc := r.pc + 8 }
        else (match m.rd with | some d => setSreg r d v | none => r))) ∧
      (old = none → exec (.caddPerform n) s = .next (if (raf u n).wait = .cadd then takeTrap u n {
        cause := 0x07, pc := (raf u n).pc, addr := BitVec.ofNat 64 m.addr, insn := (raf u n).insn } else u)))) ∧
  (∀ (n : Fin 256) (w : Word) (s u : State) (a : Word), opIs 6 0x01 w = true → a = sreg (raf u n) (iRa w) →
    seqIssues s u n w (mkForm [39, 33] (maskOf 0 9) true false) →
    (fld w 0 9 < 2 → exec (.cwatch (.seq n) w) s = .next (takeTrap u n { cause := 0x01, pc := (raf u n).pc, insn := w })) ∧
    (2 ≤ fld w 0 9 →
      (∀ c, counterFault u n a false = some c → exec (.cwatch (.seq n) w) s =
        .next (takeTrap u n { cause := c, pc := (raf u n).pc, addr := a, insn := w })) ∧
      (counterFault u n a false = none → (portHeld u n = true ∨ bayAway u a.toNat = true) →
        exec (.cwatch (.seq n) w) s = .next u) ∧
      (counterFault u n a false = none → portHeld u n = false → bayAway u a.toNat = false →
        exec (.cwatch (.seq n) w) s = .next (seqNext (addWatch u {
          addr := a.toNat, target := sreg (raf u n) (iRb w), raf := n, notice := fld w 0 9 }) n fun r =>
          { r with pc := r.pc + 8 })))) ∧
  ((∀ (n : Fin 256) (w : Word) (s u : State), opIs 7 0x00 w = true →
    seqIssues s u n w (mkForm [45, 39] (maskOf 0 12) true false) →
    (noticeBad w = true → exec (.poll (.seq n) w) s = .next (takeTrap u n { cause := 0x01, pc := (raf u n).pc, insn := w })) ∧
    (noticeBad w = false → exec (.poll (.seq n) w) s = .next (polled u n w false (sreg (raf u n) (iRa w))))) ∧
  (∀ (n : Fin 256) (w ext : Word) (s u : State), opIs 7 0x01 w = true → noticeBad w = false →
    seqIssues s u n w (mkForm [45] (maskOf 0 12) true false true) →
    exec (.polli (.seq n) w ext) s = .next (polled u n w true ext)) ∧
  (∀ (n : Fin 256) (w ext : Word) (s u : State), opIs 7 0x01 w = true → noticeBad w = true → seqReady s n = true →
    (raf s n).pc.toNat < (raf s n).size.toNat → fetch s n none (raf s n).pc.toNat = .ok u →
    exec (.polli (.seq n) w ext) s = .next (takeTrap u n { cause := 0x01, pc := (raf u n).pc, insn := w }))) ∧
  (∀ (n : Fin 256) (w : Word) (s u : State), opIs 7 0x02 w = true → seqIssues s u n w (mkForm [] (maskOf 0 12) true false) →
    (noticeBad w = true → exec (.nclr (.seq n) w) s = .next (takeTrap u n { cause := 0x01, pc := (raf u n).pc, insn := w })) ∧
    (noticeBad w = false → exec (.nclr (.seq n) w) s = .next (seqNext u n fun r => { r with
      store := writeBytes r.store (0xEE000 + 8 * fld w 0 9) (List.replicate (8 * (fld w 9 3 + 1)) 0), pc := r.pc + 8 }))) ∧
  (∀ (n : Fin 256) (rd : BitVec 6) (idx k i : Nat) (long timed : Bool) (s : State), stopped s = false →
    (raf s n).wait = .poll rd idx k long timed → pollSet (raf s n) idx k = some i →
    ∃ t, exec (.pollWake n) s = .next t ∧ t = { s with rafters := t.rafters, work := t.work, time := t.time } ∧
      t.time = { s.time with timeouts := t.time.timeouts } ∧
      raf t n = { setSreg { raf s n with wait := .none } rd.toNat (BitVec.ofNat 64 i) with
        pc := (raf s n).pc + (if long then 16 else 8) } ∧ (∀ m, m ≠ n.val → raf t m = raf s m)) ∧
  (∀ (n : Fin 256) (rd : BitVec 6) (idx k : Nat) (long : Bool) (x : BTimeout) (s : State), stopped s = false →
    (raf s n).wait = .poll rd idx k long true →
    s.time.timeouts.find? (fun x => x.reader = n.val) = some x → x.due + 64 < 2 ^ 64 →
    ∃ t, exec (.pollTimeout n) s = .next t ∧ t = { s with rafters := t.rafters, work := t.work, time := t.time } ∧
      raf t n = { setSreg { raf s n with wait := .none } rd.toNat
          (match pollSet (raf s n) idx k with | some i => BitVec.ofNat 64 i | none => BitVec.allOnes 64) with
        pc := (raf s n).pc + (if long then 16 else 8) } ∧ (∀ m, m ≠ n.val → raf t m = raf s m) ∧
      x.due ≤ t.time.beacon.toNat)

/-! ## Slates and streams -/

/-- R123, R131, R159, R160 and R264: SLATE queues the command that a well-formed descriptor of the store gives, on the
physical slates that serve the named ones, and waits while one of them has 4 queued; a malformed descriptor, one that is not aligned to 64 bytes and one
outside the data area freeze the rafter with SLATE_DESC, and a slate that is not enabled takes SLATE_INDEX. -/
def Obligations.SlateIssue : Prop :=
  ∀ (n : Fin 256) (w o : Word) (d : SlateDesc) (s u : State), opIs 4 0x00 w = true →
    seqIssues s u n w (mkForm [39] (maskOf 0 20) true false) →
    o = sreg (raf u n) (iRa w) + BitVec.ofNat 64 (fld w 0 20) →
    d = slateDesc (bytesWords (readBytes (raf u n).store o.toNat 64) 8) →
    ((o.toNat % 64 ≠ 0 ∨ inData o.toNat 64 = false ∨ slateBad d = true) →
      exec (.slate (.seq n) w) s = .next (takeTrap u n { cause := 0x12, pc := (raf u n).pc, insn := w })) ∧
    (o.toNat % 64 = 0 → inData o.toNat 64 = true → slateBad d = false →
      (∀ i, (namedSlates d).find? (fun i => decide ((enPhys u n).length ≤ i)) = some i →
        exec (.slate (.seq n) w) s = .next (takeTrap u n { cause := 0x08, detail := i, pc := (raf u n).pc, insn := w })) ∧
      ((∀ i ∈ namedSlates d, i < (enPhys u n).length) →
        ((∀ i ∈ namedSlates d, (onSlate (raf u n) (nth (enPhys u n) i 0)).length < 4) →
          exec (.slate (.seq n) w) s = .next (seqNext u n fun r => { r with
            scmds := r.scmds ++ [{ desc := d, phys := (namedSlates d).map fun i => nth (enPhys u n) i 0 }], pc := r.pc + 8 })) ∧
        ((∃ i ∈ namedSlates d, 4 ≤ (onSlate (raf u n) (nth (enPhys u n) i 0)).length) →
          exec (.slate (.seq n) w) s = .next u)))

/-- Slate commands at work (R149, R161, R165, R168, R177, R190): a start zeroes the bank of an initialising command on its slates; a
k-slice replaces the bank of one slate by the accumulators after it, or leaves it where all its operands are zero, passes over a block
whose share is wholly absent, and waits while a dwell holds the slate or its weights have not come; a
command that has finished on every slate leaves its queue, with DONE in its notice word; the end of a dwell releases
the slates of its course. No byte of bay space or HBM changes. That a start zeroes the whole bank, that VALUE is the whole command's K and
that a slate's oldest command completes first are the model's choices (assumption log 39). -/
def Obligations.SlateWork : Prop :=
  (∀ (n : Fin 256) (sl : Fin 8) (p : Nat) (before after : List SCmd) (m : SCmd) (s : State), stopped s = false →
    physSlate s n sl = some p → slatesRun (raf s n) = true →
    pickCmd (fun m => m.phys.contains p && !m.started) (raf s n).scmds = some (before, m, after) →
    (before.all fun e => e.phys.all fun q => !m.phys.contains q || doneOn e q) = true →
    ∃ t, exec (.slateCommandStart n sl) s = .next t ∧ t = { s with rafters := t.rafters, work := t.work } ∧
      (∀ k, k ≠ n.val → raf t k = raf s k) ∧ (raf t n).scmds.length = (raf s n).scmds.length ∧
      ((m.desc.mode = 1 ∨ m.desc.mode = 3) → ∀ q ∈ m.phys, bankOf_ (slate (raf t n) q) m.desc.bank = []) ∧
      (∀ q, q ∉ m.phys ∨ m.desc.mode = 0 ∨ m.desc.mode = 2 → slate (raf t n) q = slate (raf s n) q)) ∧
  (∀ (n : Fin 256) (sl : Fin 8) (p : Nat) (before after : List SCmd) (m : SCmd) (s : State), stopped s = false →
    physSlate s n sl = some p → slatesRun (raf s n) = true →
    pickCmd (fun m => m.started && m.phys.contains p && !doneOn m p) (raf s n).scmds = some (before, m, after) →
    ((slate (raf s n) p).dwell = true → exec (.kSlice n sl) s = .next s) ∧
    ((slate (raf s n) p).dwell = false → ∀ g, g = (if m.desc.wsrc then some (true, true) else (tget [] m.gates p).head?) →
      (g = none → exec (.kSlice n sl) s = .next s) ∧
      (g = some (false, false) → exec (.kSlice n sl) s = .next (putSlice s n p 32 before m after (slate (raf s n) p))) ∧
      (∀ h, g = some h → h ≠ (false, false) →
        (m.desc.wsrc = false → (tget [] m.bufs p).length < sliceBytes m.desc (tget 0 m.prog p % 32) →
          exec (.kSlice n sl) s = .next s) ∧
        ((m.desc.wsrc = false → sliceBytes m.desc (tget 0 m.prog p % 32) ≤ (tget [] m.bufs p).length) → ∀ rd blk,
          blk = blockOf m (m.phys.idxOf p) (tget 0 m.prog p / 32) →
          (∀ a, rd a = if m.desc.wsrc then readByte (raf s n).store (m.desc.woff +
              (if m.desc.split then blk else blk * m.phys.length + m.phys.idxOf p) *
                shareSize m.desc.fmtW.toNat m.desc.sparse.toNat + a) else nth (tget [] m.bufs p) a 0) →
          ∃ t, exec (.kSlice n sl) s = .next t ∧ t = { s with rafters := t.rafters, regs := t.regs, work := t.work } ∧
            (∀ k, k ≠ n.val → raf t k = raf s k) ∧ (∀ q, q ≠ p → slate (raf t n) q = slate (raf s n) q) ∧
            bankOf_ (slate (raf t n) p) m.desc.bank =
              ((sliceAcc (raf s n) m (m.phys.idxOf p) (tget 0 m.prog p) rd h
                (bankOf_ (slate (raf s n) p) m.desc.bank)).map Prod.fst).getD (bankOf_ (slate (raf s n) p) m.desc.bank))))) ∧
  (∀ (n : Fin 256) (sl : Fin 8) (p : Nat) (before after : List SCmd) (m : SCmd) (s v : State) (k : Nat), stopped s = false →
    physSlate s n sl = some p → slatesRun (raf s n) = true → m.started = true → allDone m = true →
    pickCmd (fun m => m.phys.contains p) (raf s n).scmds = some (before, m, after) →
    (v, k) = (if drains m.desc then drainAll s n m else (s, m.desc.k)) →
    ∃ t, exec (.slateCommandComplete n sl) s = .next t ∧ (raf t n).scmds = before ++ after ∧ sameBytes s t ∧
      (∀ k, k ≠ n.val → raf t k = raf s k) ∧
      (m.desc.notice ≠ 0 → storeWord (raf t n) (noticeOff m.desc.notice) =
        noticeValue (storeWord (raf v n) (noticeOff m.desc.notice)) 0 k) ∧
      (m.desc.notice = 0 → (raf t n).store = (raf v n).store)) ∧
  (∀ (q : Fin 64) (s : State), stopped s = false →
    (∃ n ∈ raftersOf s q, ∃ p, p < 8 ∧ (slate (raf s n) p).dwell = true) →
    ∃ t, exec (.dwellEnd q) s = .next t ∧ t = { s with rafters := t.rafters, regs := t.regs, work := t.work } ∧
      (∀ n ∈ raftersOf s q, ∀ p, p < 8 → (slate (raf t n) p).dwell = false))

/-- R143, R264 and R265: STR copies its descriptor into the channel's queue, one that is not aligned to 64 bytes or not in the data
area marked so that its check will fail, and waits while a BUSY or IDLE channel's queue is full; at a FROZEN channel the descriptor ends with FROZEN,
at a HALTED channel with a full queue with CLEARED. STRSM makes a HALTED channel BUSY, STCLR clears one, and both leave
every other channel as it is. That a descriptor is read modulo the store's size, and that the descriptor in progress is one of the 8, are the model's
choices (assumption log 40). -/
def Obligations.StreamIssue : Prop :=
  ∀ (n : Fin 256) (w : Word) (c : Nat) (s u : State), c = fld w 35 4 →
    (opIs 5 0x00 w = true → seqIssues s u n w (mkForm [39] (maskOf 35 4 ||| maskOf 0 20) true false) →
      ∀ (o : Word) (d : SDesc), o = sreg (raf u n) (iRa w) + BitVec.ofNat 64 (fld w 0 20) →
      d.offOk = (decide (o.toNat % 64 = 0) && inData o.toNat 64) →
      d.ws = bytesWords ((List.range 64).map fun k => readByte (raf u n).store ((o.toNat + k) % 2 ^ 20)) 8 →
      ((chan (raf u n) c).st ≠ .frozen → (chan (raf u n) c).queue.length < 8 →
        exec (.str (.seq n) w) s = .next (seqNext u n fun r =>
          { setChan r c { chan r c with queue := (chan r c).queue ++ [d] } with pc := r.pc + 8 })) ∧
      (((chan (raf u n) c).st = .idle ∨ (chan (raf u n) c).st = .busy) → 8 ≤ (chan (raf u n) c).queue.length →
        exec (.str (.seq n) w) s = .next u) ∧
      ((chan (raf u n) c).st = .frozen → exec (.str (.seq n) w) s = .next (seqNext u n fun r =>
          { descNotice r d 0x04 0 with pc := r.pc + 8 })) ∧
      ((chan (raf u n) c).st = .halted → 8 ≤ (chan (raf u n) c).queue.length →
        exec (.str (.seq n) w) s = .next (seqNext u n fun r => { descNotice r d 0x03 0 with pc := r.pc + 8 }))) ∧
    (opIs 5 0x01 w = true → seqIssues s u n w (mkForm [] (maskOf 35 4) true false) →
      exec (.strsm (.seq n) w) s = .next (seqNext u n fun r =>
        { (if (chan r c).st = .halted then setChan r c { chan r c with st := .busy, addr := 0 } else r) with
          pc := r.pc + 8 })) ∧
    (opIs 5 0x02 w = true → seqIssues s u n w (mkForm [] (maskOf 35 4) true false) →
      exec (.stclr (.seq n) w) s = .next (seqNext u n fun r =>
        { (if (chan r c).st = .halted then stclrIn r c else r) with pc := r.pc + 8 })) ∧
    (∀ r : Rafter, chan (stclrIn r c) c = { status := if (chan r c).queue = [] then (chan r c).status else 0x03 } ∧
      ∀ k, k ≠ c → chan (stclrIn r c) k = chan r k)

/-- Stream channels at work (R140-R142, R145, R190, R273, R274, R410, R417): an idle channel takes the descriptor at its queue's head; one whose check
fails freezes the channel, one of length 0 ends at once, one that names a valley end that is gone ends with BAD_VALLEY, a GET asks its partner, and any
other makes the channel BUSY. A return of source data is written to the destination, delivered to slates, or sent on a valley end, or halts
the channel on uncorrectable data; it waits while the source cannot be read, no packet has come or the replay buffer is full. A descriptor whose bytes have
all moved ends with DONE and the bytes moved, or the size of the packet that it took, whose ring space is freed. -/
def Obligations.StreamWork : Prop :=
  ∀ (n : Fin 256) (c : Fin 16) (d : SDesc) (q : List SDesc) (s : State) (x : Chan), stopped s = false →
    (chan (raf s n) c).queue = d :: q → x = chan (raf s n) c →
    (x.st = .idle → ((raf s n).st = .run ∨ (raf s n).st = .handler) →
      (∀ a k, streamFault s n d (fld (Config.free s.free) 0 8) = some (a, k) →
        exec (.streamDescriptorStart n c) s = .next (freezeChan { s with free := s.free + 1 } n c a k)) ∧
      (streamFault s n d (fld (Config.free s.free) 0 8) = none →
        (∀ h, sdValley d = some h → (∀ i, endOfHandle s h = some i → (vend s i).st = .closed) →
          exec (.streamDescriptorStart n c) s = .next (endDesc s n c 0x02 0)) ∧
        ((∀ h, sdValley d = some h → ∃ i, endOfHandle s h = some i ∧ (vend s i).st ≠ .closed) →
          (sdBsp d = false → sdLen d = 0 → exec (.streamDescriptorStart n c) s = .next (endDesc s n c 0 0)) ∧
          ((sdBsp d = true ∨ sdLen d ≠ 0) → ∀ v, v = modRaf s n (fun r => setChan r c {
              st := .busy, queue := d :: q, status := x.status }) →
            (¬ (sdSkind d = 4 ∧ sdVop d = 1) → exec (.streamDescriptorStart n c) s = .next v) ∧
            (sdSkind d = 4 → sdVop d = 1 → ∀ h i, sdValley d = some h → endOfHandle s h = some i →
              exec (.streamDescriptorStart n c) s = .next (pushSend
                (modVend v i fun e => { e with gets := e.gets ++ [(n.val, c.val, sdRoff d, sdBytes (raf s n) d)] })
                i (.bytes []) 1 false (mkWord [(62, 2, 1), (40, 17, sdBytes (raf s n) d), (0, 40, sdRoff d)]))))))) ∧
    (x.st = .busy → chansRun (raf s n) = true → ∀ v y,
      v = (if sdSkind d = 4 ∧ sdVop d ≠ 1 ∧ x.psize = none then takePacket s n c d else s) → y = chan (raf v n) c →
      (streamTotal (raf s n) y d = none → exec (.streamDataReturn n c) s = .next v) ∧
      (∀ k, streamTotal (raf s n) y d = some k →
        (sdDkind d = 3 → exec (.streamDataReturn n c) s = .next (streamFeed v n c y d k)) ∧
        (sdDkind d = 4 → y.moved < k → ¬ (sdSkind d = 4 ∧ sdVop d = 1) → ∀ h i, sdValley d = some h → endOfHandle v h = some i →
          exec (.streamDataReturn n c) s = .next (streamSend v n c i y d k)) ∧
        (sdDkind d ≠ 3 → sdDkind d ≠ 4 → y.moved < k → ¬ (sdSkind d = 4 ∧ sdVop d = 1) →
          (dstFull (raf v n) y d (min (k - y.moved) (256 - srcAt v y d % 256)) = true →
            exec (.streamDataReturn n c) s = .next v) ∧
          (dstFull (raf v n) y d (min (k - y.moved) (256 - srcAt v y d % 256)) = false →
            (∀ t, srcWaits v n c y d (k - y.moved) = some t → exec (.streamDataReturn n c) s = .next t) ∧
            (srcWaits v n c y d (k - y.moved) = none → ∀ t bs bad, srcLine v n c y d (k - y.moved) = (t, bs, bad) →
              (bad = none → exec (.streamDataReturn n c) s = .next (tookBytes (dstWrite t n c d y.moved bs) n c bs.length)) ∧
              (∀ a, bad = some a → exec (.streamDataReturn n c) s = .next (haltChan t n c a))))))) ∧
    (x.st = .busy → chansRun (raf s n) = true → streamDone s n c x d = true →
      (¬ (sdSkind d = 4 ∧ sdVop d ≠ 1) → exec (.streamDescriptorEnd n c) s = .next (endDesc s n c 0 x.moved)) ∧
      (sdSkind d = 4 → sdVop d ≠ 1 → ∀ h i, sdValley d = some h → endOfHandle s h = some i →
        exec (.streamDescriptorEnd n c) s = .next (endDesc (ringFree s i x.pseq) n c 0 (x.psize.getD 0))))

/-! ## Ring commands -/

namespace Sys2Proof.Claim

/-- A command of ring `r` passes the checks of R107 items 2 and 3: its bits are defined, and the device takes it in its
present phase; its ring's flow does not wait (R446), and it names no session bound to a fault (R449). -/
def ringTakes (s : State) (r : Fin 16) (e : Entry) (op : Nat) : Bool :=
  ringOp op e && ringOn s r && !stopped s && !flowWaits s (.ring r) && !namesBound s op e && (early s op e).isNone

/-- The state `s` after the CMD completion of an entry of ring `r`, and the device reading on. Only the host access logic
and the ring registers are changed. -/
def answered (s : State) (r : Fin 16) (e : Entry) (status : Nat) (h : BitVec 32) (w2 : Word := 0) : State :=
  ringFetch (cmdComp s r e status h w2)

/-- A command of a ring that spells `op` and that `mine` picks: it waits while its ring's flow or its session does, and is refused
with a CMD completion where R107 items 2 and 3 say so. -/
def refuses (c : Fin 16 → Entry → Instr) (op : Nat) (mine : Entry → Bool := fun _ => true) : Prop :=
  ∀ (r : Fin 16) (e : Entry) (s : State), mine e = true → ringOp op e = true → ringOn s r = true → stopped s = false →
    ((flowWaits s (.ring r) = true ∨ namesBound s op e = true) → exec (c r e) s = .next s) ∧
    (flowWaits s (.ring r) = false → namesBound s op e = false → ∀ k, early s op e = some k →
      exec (c r e) s = .next (answered (takeArrived s r e) r e k (entHandle e)))

/-- A command that names no session is refused with BAD_HANDLE (R107 item 4). -/
def noSession (c : Fin 16 → Entry → Instr) (op : Nat) : Prop :=
  ∀ (r : Fin 16) (e : Entry) (s : State), ringTakes s r e op = true → sesOfHandle s (entHandle e) = none →
    exec (c r e) s = .next (answered (takeArrived s r e) r e 0x03 (entHandle e))

end Sys2Proof.Claim

/-- R106, R107, R111, R446, R449 and R464: a command waits while its ring's flow is taken over, and while its session is bound to a fault; one with a reserved bit set is refused with BAD_OPERAND, one that the
device does not take in its present phase with NOT_READY (for REG_READ and ATTEST that is the model's choice, assumption log 63), one that names no session
with BAD_HANDLE, a park or a close that the session's state does not
allow with BAD_STATE, and an OP that is not listed with ILLEGAL_OP; nothing but the host access logic and the ring
registers is changed. -/
def Obligations.RingRefusals : Prop :=
  (refuses .sesOpen 0x01 ∧ (∀ cut, refuses (.sesAppend · · cut) 0x02) ∧ refuses .sesRun 0x03 ∧ refuses .sesPark 0x04 ∧ refuses .sesClose 0x05 ∧
    refuses .sesMigrate 0x06 ∧ (∀ cut, refuses (.shardLoadData · · cut) 0x10 (fun e => !bitOf e.w4 0)) ∧
    (∀ cut, refuses (.shardLoadTable · · cut) 0x10 (fun e => bitOf e.w4 0)) ∧ refuses .vlyOpen 0x20 ∧ refuses .vlyClose 0x21 ∧
    refuses .regRead 0x30 ∧ refuses .thawRafter 0x40 (unitOf 0) ∧ refuses .thawChannel 0x40 (unitOf 1) ∧
    refuses .thawValley 0x40 (unitOf 2) ∧ refuses .retireRafter 0x41 (unitOf 0) ∧ refuses .retireChannel 0x41 (unitOf 1) ∧
    refuses .retireValley 0x41 (unitOf 2) ∧ refuses .attest 0x50) ∧
  (∀ (s : State) (op : Nat) (e : Entry),
    (reservedSet op e = true → early s op e = some 0x06) ∧
    (reservedSet op e = false → op ≠ 0x30 → op ≠ 0x50 → early s op e = if inService s then none else some 0x01) ∧
    (reservedSet op e = false → (op = 0x30 ∨ op = 0x50) → early s op e =
      if bootStep s ≤ 3 ∧ rf s .sysState 0 0 2 ≠ 2 then some 0x01 else none)) ∧
  (∀ (s : State) (i : Nat) (op : Nat) (e : Entry), 2 ≤ op → op ≤ 6 → sesOfHandle s (entHandle e) = some i →
    (namesBound s op e = true ↔ i ∈ boundSlots s)) ∧
  (noSession .sesRun 0x03 ∧ noSession .sesPark 0x04 ∧ noSession .sesClose 0x05 ∧ noSession .sesMigrate 0x06 ∧
    (∀ (r : Fin 16) (e : Entry) (cut : Fin 4096) (s : State), ringTakes s r e 0x02 = true → sesOfHandle s (entHandle e) = none →
      exec (.sesAppend r e cut) s = .next (answered (setFetch (takeArrived s r e) r none) r e 0x03 (entHandle e)))) ∧
  (∀ (r : Fin 16) (e : Entry) (s : State) (i : Nat), sesOfHandle s (entHandle e) = some i →
    ((ses s i).st = .closing ∨ (ses s i).st = .migrating) →
    (ringTakes s r e 0x04 = true → exec (.sesPark r e) s = .next (answered (takeArrived s r e) r e 0x04 (entHandle e))) ∧
    (ringTakes s r e 0x05 = true → exec (.sesClose r e) s = .next (answered (takeArrived s r e) r e 0x04 (entHandle e)))) ∧
  (∀ (r : Fin 16) (e : Entry) (s : State), ringOn s r = true → stopped s = false → listedOp (fld e.w0 56 8) = false →
    (flowWaits s (.ring r) = true → exec (.illegalOp r e) s = .next s) ∧
    (flowWaits s (.ring r) = false →
      exec (.illegalOp r e) s = .next (answered (takeArrived s r e) r e 0x02 (entHandle e)))) ∧
  (∀ (r : Fin 16) (e : Entry) (s : State) (c : Nat) (h : BitVec 32) (w2 : Word),
    ∃ hs rs, answered (takeArrived s r e) r e c h w2 = { s with host := hs, regs := rs })

/-- R84, R85, R89, R107 and R400: the commands on sessions. OPEN initialises a FREE slot, or is refused for its layer group or for want of a slot; APPEND
fetches its prompt tokens and adds them, RUN makes the
session READY at START, PARK of a session between steps parks it, once its hot page is written back where it has one, CLOSE of a session between steps
closes it, and of one that waits on a release discards its step first; PARK and CLOSE inside a step are noted; a second CLOSE changes nothing; operands that
R107 does not allow and states that R84 does not are refused. Where the hot pool is not involved no other session is changed. That the prompt is fetched
in pieces of any size, the command waiting at its ring meanwhile, is the model's choice (assumption logs 33 and 69). A session opened into a blocked group
moves as its placement pair says (R438). -/
def Obligations.SessionCommands : Prop :=
  (∀ (r : Fin 16) (e : Entry) (s : State), ringTakes s r e 0x01 = true →
    ((lgrp s (fld e.w1 43 14)).valid = true → (lgrp s (fld e.w1 43 14)).first = true →
      ((s.ses.hbmLost = true ∨ freeSlot s = none) →
        exec (.sesOpen r e) s = .next (answered (takeArrived s r e) r e 0x05 0)) ∧
      (s.ses.hbmLost = false → ∀ i, freeSlot s = some i →
        ∃ t, exec (.sesOpen r e) s = .next (ringFetch (placeBlocked t)) ∧
          t = { s with ses := t.ses, host := t.host, regs := t.regs } ∧
          (s.bat.blocked = [] → placeBlocked t = t) ∧
          (ses t i).st = .open ∧ (ses t i).gen = (ses s i).gen ∧ (ses t i).pages = [] ∧ (ses t i).hot = none ∧
          (ses t i).start.toNat = fld e.w1 43 14 ∧ (ses t i).lgrp = (ses t i).start ∧ (ses t i).cls.val = fld e.w1 61 3 ∧
          (ses t i).ring.val = fld e.w1 57 4 ∧
          (ses t i).pos = 0 ∧ (ses t i).pend = 0 ∧ (ses t i).stoptok = BitVec.ofNat 32 (fld e.w2 0 32) ∧
          (∀ j, j ≠ i → ses t j = ses s j))) ∧
    (((lgrp s (fld e.w1 43 14)).valid = false ∨ (lgrp s (fld e.w1 43 14)).first = false) →
      exec (.sesOpen r e) s = .next (answered (takeArrived s r e) r e 0x06 0))) ∧
  (∀ (r : Fin 16) (e : Entry) (cut : Fin 4096) (i : Nat) (s : State), ringTakes s r e 0x02 = true → sesOfHandle s (entHandle e) = some i →
    (appendBad e = true →
      exec (.sesAppend r e cut) s = .next (answered (setFetch (takeArrived s r e) r none) r e 0x06 (entHandle e))) ∧
    (appendBad e = false →
      (((ses s i).st = .open ∨ (ses s i).st = .parked) →
        (fetchedFor s r (4 * fld e.w2 0 32) = none → exec (.sesAppend r e cut) s =
          .next (if (fetchFor s r).isNone then startFetch s r e.w1 (4 * fld e.w2 0 32) cut else s)) ∧
        (∀ bs, fetchedFor s r (4 * fld e.w2 0 32) = some bs →
          ∃ t, exec (.sesAppend r e cut) s = .next t ∧ t = { s with ses := t.ses, host := t.host, regs := t.regs } ∧
            ses t i = { ses s i with
              prompt := (ses s i).prompt ++ tokensOf bs, pend := (ses s i).pend + BitVec.ofNat 32 (fld e.w2 0 32) } ∧
            (∀ j, j ≠ i → ses t j = ses s j))) ∧
      ((ses s i).st ≠ .open → (ses s i).st ≠ .parked →
        exec (.sesAppend r e cut) s = .next (answered (setFetch (takeArrived s r e) r none) r e 0x04 (entHandle e)))) ∧
    (appendBad e = true ↔ (fld e.w2 0 32 = 0 ∨ 65536 < fld e.w2 0 32 ∨ fld e.w1 0 2 ≠ 0))) ∧
  (∀ (r : Fin 16) (e : Entry) (i : Nat) (s : State), ringTakes s r e 0x03 = true →
    sesOfHandle s (entHandle e) = some i →
    ((fld e.w2 0 32 = 0 ∨ fld e.w1 0 2 ≠ 0) →
      exec (.sesRun r e) s = .next (answered (takeArrived s r e) r e 0x06 (entHandle e))) ∧
    (fld e.w2 0 32 ≠ 0 → fld e.w1 0 2 = 0 →
      ((ses s i).st ≠ .open → (ses s i).st ≠ .parked →
        exec (.sesRun r e) s = .next (answered (takeArrived s r e) r e 0x04 (entHandle e))) ∧
      (((ses s i).st = .open ∨ (ses s i).st = .parked) →
        ∃ t, exec (.sesRun r e) s = .next t ∧ (ses t i).st = .ready ∧ (ses t i).lgrp = (ses s i).start ∧
          (ses t i).budget.toNat = fld e.w2 0 32 ∧ (ses t i).every.toNat = fld e.w2 32 8 ∧ (ses t i).dest = e.w1 ∧
          (ses t i).readyT = nowT s ∧ (∀ j, j ≠ i → ses t j = ses s j)))) ∧
  (∀ (r : Fin 16) (e : Entry) (i : Nat) (s u : State), u = takeArrived s r e → ringTakes s r e 0x04 = true →
    sesOfHandle s (entHandle e) = some i → (ses s i).st ≠ .migrating → (ses s i).st ≠ .closing →
    (((ses s i).st = .parked ∨ (ses s i).parking = true) →
      exec (.sesPark r e) s = .next (answered u r e 0 (entHandle e))) ∧
    ((ses s i).st ≠ .parked → (ses s i).parking = false →
      (inStep (ses s i) = true → exec (.sesPark r e) s =
        .next (answered (modSes u i fun x => { x with parkReq := true }) r e 0 (entHandle e))) ∧
      (inStep (ses s i) = false → exec (.sesPark r e) s = .next (answered (parkNow u i) r e 0 (entHandle e)) ∧
        ((ses s i).hot = none → (ses s i).wb = false → (ses s i).olds = [] →
          ∃ t, exec (.sesPark r e) s = .next t ∧ t = { s with ses := t.ses, host := t.host, regs := t.regs } ∧
            (ses t i).st = .parked ∧ (∀ j, j ≠ i → ses t j = ses s j)) ∧
        (∀ v, startWriteback u i = (v, false) → ((ses v i).wb = true ∨ (ses v i).olds ≠ []) →
          parkNow u i = modSes v i fun x => { x with parking := true })))) ∧
  (∀ (r : Fin 16) (e : Entry) (i : Nat) (s u : State), u = takeArrived s r e → ringTakes s r e 0x05 = true →
    sesOfHandle s (entHandle e) = some i → (ses s i).st ≠ .migrating → (ses s i).st ≠ .closing →
    ((ses s i).closeReq = true → exec (.sesClose r e) s = .next (answered u r e 0 (entHandle e))) ∧
    ((ses s i).closeReq = false →
      ((ses s i).st = .waiting → (ses s i).wait = .release → exec (.sesClose r e) s =
        .next (answered (giveHot (closeNow (discardSession u i) i)) r e 0 (entHandle e))) ∧
      (inStep (ses s i) = true → ((ses s i).st = .waiting → (ses s i).wait ≠ .release) → exec (.sesClose r e) s =
        .next (answered (modSes u i fun x => { x with closeReq := true }) r e 0 (entHandle e))) ∧
      (inStep (ses s i) = false →
        ∃ t, exec (.sesClose r e) s = .next t ∧ (ses t i).st = .closing ∧ (∀ j, j ≠ i → ses t j = ses s j) ∧
          ((ses s i).hot = none → t = { s with ses := t.ses, host := t.host, regs := t.regs }))))

/-- Ring commands on shards, valleys and registers, and migration (R92, R102, R108, R109, R302, R321, R400, R410, R412, R415): the bytes of a shard are
fetched, in pieces of any size (assumption log 69), and written where a rule lets a shard lie, once bay and controller take them; descriptors enter the
layer-group table and no other entry changes, or are refused where they misfit, break R108, or a session starts at one; a valley end is opened or closed
with the status of its check; a register is read as R15 says, with its value in the completion and RECOVERING where the device recovers; a session
between steps leaves over a live valley of CONS SESSION at both ends, its hot page written back first (assumption log 20), or is refused. What the partner's
CONS is, is a free value (assumption log 84). Bits W2[39:14] of a descriptor load are ignored, which is the model's choice (assumption log 58). -/
def Obligations.ShardValleyRegisterCommands : Prop :=
  ∀ (r : Fin 16) (e : Entry) (cut : Fin 4096) (s u v : State), u = takeArrived s r e → v = setFetch u r none →
    (ringTakes s r e 0x10 = true → bitOf e.w4 0 = false →
      (placeOk s (fld e.w2 0 40) e.w3.toNat = false →
        exec (.shardLoadData r e cut) s = .next (answered v r e 0x06 (entHandle e))) ∧
      (placeOk s (fld e.w2 0 40) e.w3.toNat = true →
        (fetchedFor s r e.w3.toNat = none → exec (.shardLoadData r e cut) s =
          .next (if (fetchFor s r).isNone then startFetch s r e.w1 e.w3.toNat cut else s)) ∧
        (∀ bs, fetchedFor s r e.w3.toNat = some bs →
          (rangeHeld s (fld e.w2 0 40) e.w3.toNat (hostAcc s r).cls = true → exec (.shardLoadData r e cut) s = .next s) ∧
          (rangeHeld s (fld e.w2 0 40) e.w3.toNat (hostAcc s r).cls = false → exec (.shardLoadData r e cut) s =
            .next (answered (devWrite v (fld e.w2 0 40) bs (hostAcc v r)) r e 0 (entHandle e)))))) ∧
    (∀ g n, ringTakes s r e 0x10 = true → bitOf e.w4 0 = true → g = fld e.w2 0 14 → n = e.w3.toNat / 64 →
      ((e.w3.toNat % 64 ≠ 0 ∨ 16384 < g + n) →
        exec (.shardLoadTable r e cut) s = .next (answered v r e 0x06 (entHandle e))) ∧
      (e.w3.toNat % 64 = 0 → g + n ≤ 16384 →
        (fetchedFor s r e.w3.toNat = none → exec (.shardLoadTable r e cut) s =
          .next (if (fetchFor s r).isNone then startFetch s r e.w1 e.w3.toNat cut else s)) ∧
        (∀ bs, fetchedFor s r e.w3.toNat = some bs →
          ((∃ k, k < n ∧ lgBad (lgOf (bytesWords (bs.drop (64 * k)) 8)) = true) →
            exec (.shardLoadTable r e cut) s = .next (answered v r e 0x06 (entHandle e))) ∧
          ((∀ k, k < n → lgBad (lgOf (bytesWords (bs.drop (64 * k)) 8)) = false) →
            ((∃ i ∈ usedSlots s, g ≤ (ses s i).start.toNat ∧ (ses s i).start.toNat < g + n) →
              exec (.shardLoadTable r e cut) s = .next (answered v r e 0x04 (entHandle e))) ∧
            ((∀ i ∈ usedSlots s, (ses s i).start.toNat < g ∨ g + n ≤ (ses s i).start.toNat) →
              ∃ t, exec (.shardLoadTable r e cut) s = .next (answered (placeBlocked t) r e 0 (entHandle e)) ∧
                t = { v with ses := t.ses } ∧ (s.bat.blocked = [] → placeBlocked t = t) ∧
                (∀ k, k < n → lgrp t (g + k) = lgOf (bytesWords (bs.drop (64 * k)) 8)) ∧
                (∀ j, (j < g ∨ g + n ≤ j) → lgrp t j = lgrp s j)))))) ∧
    (∀ t c h, ringTakes s r e 0x20 = true → openEnd u e (some r) = (t, c, h) →
      exec (.vlyOpen r e) s = .next (answered t r e c h)) ∧
    (∀ t c, ringTakes s r e 0x21 = true → closeByHandle u (entHandle e) = (t, c) →
      exec (.vlyClose r e) s = .next (answered t r e c (entHandle e))) ∧
    (∀ t x, ringTakes s r e 0x30 = true → regRead8 u (.ring r) (fld e.w1 0 40) = (t, x) →
      exec (.regRead r e) s = .next (answered t r e (if rbit s .sesStat 0 62 then 0x0E else 0) (entHandle e) x)) ∧
    (ringTakes s r e 0x06 = true → ∀ h, h = BitVec.ofNat 32 (fld e.w1 0 32) →
      (endOfHandle s h = none → exec (.sesMigrate r e) s = .next (answered u r e 0x03 (entHandle e))) ∧
      (∀ i k, sesOfHandle s (entHandle e) = some i → endOfHandle s h = some k →
        (((vend s k).kind ≠ 0 ∨ (vend s k).cons ≠ 2 ∨ ((vend s k).st = .live ∧ (vend s k).pcons ≠ 2)) →
          exec (.sesMigrate r e) s = .next (answered u r e 0x06 (entHandle e))) ∧
        ((vend s k).kind = 0 → (vend s k).cons = 2 → ((vend s k).st = .live → (vend s k).pcons = 2) →
          ((((ses s i).st ≠ .open ∧ (ses s i).st ≠ .parked) ∨ (vend s k).st ≠ .live) →
            exec (.sesMigrate r e) s = .next (answered u r e 0x04 (entHandle e))) ∧
          (((ses s i).st = .open ∨ (ses s i).st = .parked) → (vend s k).st = .live → ∀ y bad,
            startWriteback (cmdComp u r e 0 (entHandle e)) i = (y, bad) →
            (bad = true → exec (.sesMigrate r e) s = .next (ringFetch (endSession y i))) ∧
            (bad = false → exec (.sesMigrate r e) s = .next (ringFetch (sendSession (modSes y i fun x =>
                { x with st := .migrating, back := x.st, aux := h, parking := false }) i k)) ∧
              ((ses s i).hot = none → ∃ t, exec (.sesMigrate r e) s = .next t ∧ (ses t i).st = .migrating ∧
                (ses t i).back = (ses s i).st ∧ (∀ j, j ≠ i → ses t j = ses s j)))))))

/-- R136, R415, R435, R436 and R442: THAW makes a FROZEN rafter IDLE with empty batch slots and no slate command, a FROZEN
channel IDLE, a FROZEN end LIVE; RETIRE retires the rafter, or closes the end with cause LOCAL; a unit in another state is refused with BAD_STATE, a field
that the unit does not use with BAD_OPERAND, and a handle that names no end with BAD_HANDLE. -/
def Obligations.ThawRetire : Prop :=
  ∀ (r : Fin 16) (e : Entry) (s u : State), u = takeArrived s r e →
    (ringTakes s r e 0x40 = true → unitOf 0 e = true →
      (unitBad 0 e = true → exec (.thawRafter r e) s = .next (answered u r e 0x06 (entHandle e))) ∧
      (unitBad 0 e = false →
        ((raf s (entRaf e)).st = .frozen → ∃ t, exec (.thawRafter r e) s = .next t ∧
          (raf t (entRaf e)).st = .idle ∧ (raf t (entRaf e)).slot0 = none ∧ (raf t (entRaf e)).slot1 = none ∧
          (raf t (entRaf e)).scmds = [] ∧ (∀ m, m ≠ entRaf e → raf t m = raf s m) ∧
          ((∀ m ∈ s.bat.blocked, m = entRaf e) → sameBytes s t)) ∧
        ((raf s (entRaf e)).st ≠ .frozen → exec (.thawRafter r e) s = .next (answered u r e 0x04 (entHandle e))))) ∧
    (ringTakes s r e 0x40 = true → unitOf 1 e = true →
      (unitBad 1 e = true → exec (.thawChannel r e) s = .next (answered u r e 0x06 (entHandle e))) ∧
      (unitBad 1 e = false →
        ((raf s (entRaf e)).st ≠ .retired → (chan (raf s (entRaf e)) (entCh e)).st = .frozen →
          exec (.thawChannel r e) s = .next (ringFetch (modRaf (cmdComp u r e 0 (entHandle e)) (entRaf e)
            fun x => clearChanIn x (entCh e)))) ∧
        (((raf s (entRaf e)).st = .retired ∨ (chan (raf s (entRaf e)) (entCh e)).st ≠ .frozen) →
          exec (.thawChannel r e) s = .next (answered u r e 0x04 (entHandle e))))) ∧
    (ringTakes s r e 0x40 = true → fld e.w1 62 2 = 3 →
      exec (.thawValley r e) s = .next (answered u r e 0x06 (entHandle e))) ∧
    (ringTakes s r e 0x41 = true → fld e.w1 62 2 = 3 →
      exec (.retireValley r e) s = .next (answered u r e 0x06 (entHandle e))) ∧
    (ringTakes s r e 0x40 = true → fld e.w1 62 2 = 2 →
      (endOfHandle s (entHandle e) = none → exec (.thawValley r e) s = .next (answered u r e 0x03 (entHandle e))) ∧
      (∀ i, endOfHandle s (entHandle e) = some i →
        (unitBad 2 e = true → exec (.thawValley r e) s = .next (answered u r e 0x06 (entHandle e))) ∧
        (unitBad 2 e = false →
          ((vend s i).st ≠ .frozen → exec (.thawValley r e) s = .next (answered u r e 0x04 (entHandle e))) ∧
          ((vend s i).st = .frozen →
            ∃ t, exec (.thawValley r e) s = .next t ∧ vend t i = { vend s i with st := .live, cause := 0 } ∧
              (∀ j, j ≠ i → vend t j = vend s j) ∧ sameBytes s t)))) ∧
    (ringTakes s r e 0x41 = true → unitOf 0 e = true →
      (unitBad 0 e = true → exec (.retireRafter r e) s = .next (answered u r e 0x06 (entHandle e))) ∧
      (unitBad 0 e = false →
        ((raf s (entRaf e)).st ≠ .retired → retired s (entRaf e) = false →
          exec (.retireRafter r e) s = .next (ringFetch (retireRafter (cmdComp u r e 0 (entHandle e)) (entRaf e) 3))) ∧
        (((raf s (entRaf e)).st = .retired ∨ retired s (entRaf e) = true) →
          exec (.retireRafter r e) s = .next (answered u r e 0x04 (entHandle e))))) ∧
    (ringTakes s r e 0x41 = true → unitOf 1 e = true →
      (unitBad 1 e = true → exec (.retireChannel r e) s = .next (answered u r e 0x06 (entHandle e))) ∧
      (unitBad 1 e = false →
        ((chan (raf s (entRaf e)) (entCh e)).st = .frozen → exec (.retireChannel r e) s =
          .next (ringFetch (retireRafter (cmdComp u r e 0 (entHandle e)) (entRaf e) 3))) ∧
        ((chan (raf s (entRaf e)) (entCh e)).st ≠ .frozen → exec (.retireChannel r e) s =
          .next (answered u r e 0x04 (entHandle e))))) ∧
    (ringTakes s r e 0x41 = true → fld e.w1 62 2 = 2 →
      (endOfHandle s (entHandle e) = none → exec (.retireValley r e) s = .next (answered u r e 0x03 (entHandle e))) ∧
      (∀ i, endOfHandle s (entHandle e) = some i →
        (unitBad 2 e = true → exec (.retireValley r e) s = .next (answered u r e 0x06 (entHandle e))) ∧
        (unitBad 2 e = false →
          ((vend s i).st ≠ .frozen → exec (.retireValley r e) s = .next (answered u r e 0x04 (entHandle e))) ∧
          ((vend s i).st = .frozen →
            exec (.retireValley r e) s = .next (ringFetch (closeEnd (cmdComp u r e 0 (entHandle e)) i 1 true))))))

/-! ## The session engine and the gate unit -/

/-- R118, R119 and R121: an idle rafter takes the pass written first in a batch slot: its header and entry words are fetched, and it runs at the group's entry
with s1 the slot's offset, s2 FILL and s3 the group, SIZE and TRAP as the image header gives them; a group that the image has
no entry for freezes it with BAD_ENTRY, an uncorrectable word with UE_FETCH. R97: the batcher's selection. With nothing to choose it waits; what the first part
of the selection rule picks is dispatched, else what the second part picks; the end of the earliest hold lets it select again; a dispatch debits every course by its cost.
R95, R97, R98, R366 and R371: a publication refills every balance up to its capacity and answers
the report; the report reaches the heat and budget block; both wait while the flow is taken over (R446); 4.096 ms without a publication give one budget notice; a
placement round takes the 256 pairs in order, where one that is not enabled does nothing, and starts its counts again. -/
def Obligations.BatchesAndBudget : Prop :=
  ((∀ (n : Fin 256) (k : BitVec 32) (b off g ent : Nat) (s a : State), stopped s = false → (raf s n).st = .idle →
    chfrz (raf s n) = 0 →
    ((b = 0 ∧ (raf s n).slot0 = some k ∧ takeable s n 0 (some k) = true ∧
        (takeable s n 1 (raf s n).slot1 = false ∨ (raf s n).first1 = false)) ∨
      (b = 1 ∧ (raf s n).slot1 = some k ∧ takeable s n 1 (some k) = true ∧
        (takeable s n 0 (raf s n).slot0 = false ∨ (raf s n).first1 = true))) →
    off = 0xEC000 + 0x1000 * b → g = fld (storeWord (raf s n) off) 50 14 → ent = (lgrp s g).entry.toNat →
    a = modRaf (modRaf s n fun r => { r with cur := b, pass := k }) n (fun r => { r with ibuf := [] }) →
    (∀ t, fetch a n none 0 = .hold t → exec (.passTake n) s = .next (askRead s n [codeReq s n none 0])) ∧
    (∀ t, fetch a n none 0 = .bad t → exec (.passTake n) s = .next (dispatchFreeze t n 0x03 0 (imgAddr a n 0))) ∧
    (∀ t, fetch a n none 0 = .ok t →
      (∀ u, fetch t n none ((0x40 + 4 * ent) / 8 * 8) = .hold u →
        exec (.passTake n) s = .next (askRead s n [codeReq s n none (0x40 + 4 * ent)])) ∧
      (∀ u, fetch t n none ((0x40 + 4 * ent) / 8 * 8) = .bad u →
        exec (.passTake n) s = .next (dispatchFreeze u n 0x03 (0x40 + 4 * ent) (imgAddr a n (0x40 + 4 * ent)))) ∧
      (∀ u, fetch t n none ((0x40 + 4 * ent) / 8 * 8) = .ok u →
        (fld (imgWord a n 0) 20 12 < ent → exec (.passTake n) s = .next (dispatchFreeze u n 0x13 (0x40 + 4 * ent) 0)) ∧
        (ent ≤ fld (imgWord a n 0) 20 12 → exec (.passTake n) s = .next (modRaf u n fun r => {
          setSreg (setSreg (setSreg r 1 (BitVec.ofNat 64 off)) 2 (BitVec.ofNat 64 (fld (storeWord (raf s n) off) 45 5))) 3
            (BitVec.ofNat 64 g) with
          st := .run, wait := .none, sweep := none,
          pc := BitVec.ofNat 20 (fld (imgWord a n ((0x40 + 4 * ent) / 8 * 8)) (8 * ((0x40 + 4 * ent) % 8)) 20),
          size := BitVec.ofNat 32 (fld (imgWord a n 0) 32 32), trap := BitVec.ofNat 20 (fld (imgWord a n 0) 0 20) }))))) ∧
  ((∀ s : State, engineRuns s = true → choices s = [] → exec .batcherSelect s = .next s) ∧
  (∀ (s t : State) (x : Choice) (c : List Nat), engineRuns s = true → selectDue s = (t, some (x, c)) →
    exec .batcherSelect s = .next (if (sentFill t (dispatch t x c)).any (fun f => decide (f < 16)) then
      countT (dispatch t x c) 0x113 0 1 else dispatch t x c)) ∧
  (∀ (s t u : State), engineRuns s = true → selectDue s = (t, none) →
    (∀ x c, selectCheap t = (u, some (x, c)) → exec .batcherSelect s =
      .next (if (sentFill u (dispatch u x c)).isSome then countT (dispatch u x c) 0x115 0 1 else dispatch u x c)) ∧
    (selectCheap t = (u, none) → exec .batcherSelect s = .next u)) ∧
  (∀ (s : State) (k : Nat), engineRuns s = true →
    (∃ x ∈ choices s, x.fill < 16 ∧ (nowT s).toNat < dueOf s x ∧ dueOf s x = k) →
    (∀ x ∈ choices s, x.fill < 16 → (nowT s).toNat < dueOf s x → k ≤ dueOf s x) →
    exec .holdDue s = .next (select (dueT s k))) ∧
  (∀ (s : State) (x : Choice) (c : List Nat),
    dispatch s x c = if x.qs.isEmpty then dispatchSessions (debit s c) x c else dispatchRows (debit s c) x) ∧
  (∀ (s : State) (q : Nat) (c : List Nat), q < 80 → tget 0 (debit s c).bat.bal q = balOf s q - (nth c q 0 : Nat)) ∧
  (∀ (s : State) (c : List Nat), debit s c = { s with bat := (debit s c).bat }))) ∧
  ((∀ (p : Pub) (s : State), s.heat.pub = some p → engineRuns s = true →
    (flowWaits s .housekeeping = true → exec .energyPublication s = .next s) ∧
    (flowWaits s .housekeeping = false → ∃ t, exec .energyPublication s = .next t ∧
      t = { s with bat := t.bat, heat := t.heat, regs := t.regs, ses := t.ses } ∧
      (∀ q, q < 80 → tget 0 t.bat.bal q =
        min ((nth p.acct q {}).cap.toNat : Int) (tget 0 s.bat.bal q + ((nth p.acct q {}).refill.toNat : Int))) ∧
      (∀ q, q < 80 → tget {} t.bat.acct q = nth p.acct q {}) ∧ t.bat.debit = [] ∧ t.bat.pubs = s.bat.pubs + 1 ∧
      t.heat.report = some ((List.range 80).map fun q => (tget 0 s.bat.debit q, tget false s.bat.short q)) ∧
      t.heat.pub = none)) ∧
  (∀ (rep : List (Nat × Bool)) (s : State), s.heat.report = some rep →
    (flowWaits s .housekeeping = true → exec .budgetReport s = .next s) ∧
    (flowWaits s .housekeeping = false → ∃ t, exec .budgetReport s = .next t ∧ t = { s with heat := t.heat } ∧
      t.heat.report = none ∧
      (∀ q, q < 80 → tget 0 t.heat.debit q = (nth rep q (0, false)).1 ∧
        tget false t.heat.short q = (nth rep q (0, false)).2))) ∧
  (∀ s : State, engineRuns s = true → s.bat.gapSaid = false → ∀ u, u = dueT s (s.bat.lastPub.toNat + 4096000 + 64) →
    exec .publicationGap s = .next (raiseT { u with bat := { u.bat with gapSaid := true } } 0x0023 (srcOf 14 0) 2)) ∧
  (∀ (s t : State) (m w : Nat), engineRuns s = true → rbit s .batPlctl 0 63 = true → rf s .batPlctl 0 40 8 ≤ s.bat.pubs →
    (List.range 256).foldl placePair (s, 0, 0) = (t, m, w) → exec .placementRound s =
      .next { placeNotice t m w with bat := { (placeNotice t m w).bat with dry := [], pubs := 0 } }) ∧
  (∀ (x : State × Nat × Nat) (k : Nat), bitOf (plPair x.1 k) 63 = false → placePair x k = x))

/-- R78, R84, R89, R99, R100 and R438: the commit point writes the tokens to DEST, adds what the step took and generated, and gives the
session its next state: closed or parked as asked, OPEN again with a DONE completion where its budget is spent or its stop token has come, else READY; it moves
where its bay is being retired, and where its group is blocked goes as its placement pair says. A hot page written back, the copy of the oldest filled page
first, is free, parks a session that waits for its last one, and goes to a session without one; a CLOSING session whose pages are released leaves its slot
FREE with the next generation. -/
def Obligations.CommitAndRelease : Prop :=
  (∀ (slot : Fin 1048576) (s t : State) (x : Session), stopped s = false → engineRuns s = true →
    x = ses s slot → x.st = .running → x.ended = true →
    t = nextState (commitStep s slot) slot (decide (x.stoptok ≠ 0xFFFFFFFF) && (stepTokens x).contains x.stoptok) →
    (x.move = false → exec (.commitPoint slot) s = .next (placeBlocked t)) ∧
    (x.move = true → exec (.commitPoint slot) s =
      .next (placeBlocked (if (ses t slot).st = .closing then t else moveSession t slot)))) ∧
  (∀ s : State, s.bat.blocked = [] → placeBlocked s = s) ∧
  (∀ (i : Nat) (s t : State) (x : Session) (gen : List (BitVec 32)), x = ses s i → gen = x.gened.take x.budget.toNat →
    t = commitStep s i →
    (ses t i).cseq = x.cseq + 1 ∧ (ses t i).pos = x.pos + BitVec.ofNat 32 (x.took + gen.length) ∧
    (ses t i).budget = x.budget - BitVec.ofNat 32 gen.length ∧ (ses t i).pend = x.pend - BitVec.ofNat 32 x.took ∧
    (ses t i).prompt = x.prompt.drop x.took ∧ (ses t i).lgrp = x.start ∧
    (ses t i).dest = x.dest + BitVec.ofNat 64 (4 * gen.length) ∧
    (gen ≠ [] → (HostTxn.mwr x.dest (gen.flatMap fun k => natBytes k.toNat 4)) ∈ t.host.tx) ∧
    (∀ j, j ≠ i → ses t j = ses s j)) ∧
  (∀ (i : Nat) (s : State) (stop : Bool) (x : Session), x = ses s i →
    (x.closeReq = true → nextState s i stop = enterClosing (doneComp s i 0x0B) i) ∧
    (x.closeReq = false → x.parkReq = true →
      nextState s i stop = parkNow (modSes s i fun x => { x with st := .ready }) i) ∧
    (x.closeReq = false → x.parkReq = false →
      (x.budget = 0 → nextState s i stop = fillBack (modSes (doneComp s i 0x08) i fun x => { x with st := .open }) i) ∧
      (x.budget ≠ 0 → stop = true →
        nextState s i stop = fillBack (modSes (doneComp s i 0x09) i fun x => { x with st := .open }) i) ∧
      (x.budget ≠ 0 → stop = false → nextState s i stop = runOn s i))) ∧
  (∀ (slot : Fin 1048576) (s u : State), stopped s = false → backing (ses s slot) = true → u = modSes s slot writtenBack →
    (backHeld s (ses s slot) = true → exec (.hotPageWritebackDone slot) s = .next s) ∧
    (backHeld s (ses s slot) = false → exec (.hotPageWritebackDone slot) s =
      .next (giveHot (if (ses s slot).parking && !backing (ses u slot) then placeBlocked (toParked u slot) else u)))) ∧
  (∀ x : Session, (backing x = true ↔ (x.wb = true ∨ x.olds ≠ [])) ∧
    (x.olds = [] → writtenBack x = { x with hot := none, wb := false }) ∧
    (∀ p l, x.olds = p :: l → writtenBack x = { x with olds := l })) ∧
  (∀ (slot : Fin 1048576) (s : State), stopped s = false → (ses s slot).st = .closing → backing (ses s slot) = false →
    exec (.sessionPagesReleased slot) s = .next (giveHot (freeSession s slot)) ∧
    (ses (freeSession s slot) slot).st = .free ∧ (ses (freeSession s slot) slot).pages = [] ∧
    (ses (freeSession s slot) slot).gen = (if (ses s slot).gen = 4095 then 1 else (ses s slot).gen + 1) ∧
    (∀ j, j ≠ slot.val → ses (freeSession s slot) j = ses s j)) ∧
  (∀ (s : State) (j : Nat), ses (giveHot s) j =
    { ses s j with hot := (ses (giveHot s) j).hot, hotIx := (ses (giveHot s) j).hotIx, wb := (ses (giveHot s) j).wb,
                   olds := (ses (giveHot s) j).olds })

/-- R84, R102, R302, R410 and R442: a header or a chunk is taken from the ring of a migration end, once it can be read, and its space freed; a header takes a slot and the pages it
names, or is answered with a refusal; a final commit
record that matches makes the session PARKED, which moves on at once where its bay is being retired, one that does not frees what was taken; the source's session closes on an
acceptance and has its state back on a refusal. -/
def Obligations.Migration : Prop :=
  (∀ (v : Fin 65536) (p : VRing) (s t u : State) (bs : List Byte) (bad : Option Nat), stopped s = false →
    engineRuns s = true → nextPacket s v = some p → (vend s v).st = .live → (vend s v).cons = 2 →
    packetData s v p (sesAcc s) = (t, bs, bad) → u = ringFree t v p.pseq →
    (packetHeld s v p (sesAcc s) = true → exec (if p.size = 32 then .finalCommitRecord v else .migrationPacket v) s = .next s) ∧
    (packetHeld s v p (sesAcc s) = false → p.size ≠ 32 →
      (∀ i, arrivingOn u v = some i → exec (.migrationPacket v) s = .next (migChunk u i bs bad.isSome)) ∧
      (arrivingOn u v = none → exec (.migrationPacket v) s = .next (if p.size = 64 then migHeader u v bs else u))) ∧
    (packetHeld s v p (sesAcc s) = false → p.size = 32 →
      (arrivingOn u v = none → exec (.finalCommitRecord v) s = .next u) ∧
      (∀ i x, arrivingOn u v = some i → x = ses u i →
        ((bad ≠ none ∨ bytesNat ((bs.drop 4).take 4) ≠ x.cseq.toNat ∨ bytesNat ((bs.drop 8).take 4) ≠ x.pages.length ∨
            x.migPages ≠ 65536 * x.pages.length) →
          exec (.finalCommitRecord v) s = .next (migReply (freeTarget u i) v)) ∧
        (bad = none → bytesNat ((bs.drop 4).take 4) = x.cseq.toNat → bytesNat ((bs.drop 8).take 4) = x.pages.length →
          x.migPages = 65536 * x.pages.length → ∃ w, exec (.finalCommitRecord v) s =
              .next (placeBlocked (if x.move then moveSession w i else w)) ∧
            ses w i = { x with
              st := .parked, aux := 0, base := x.pages.length, migPages := 0, ent := (ses w i).ent } ∧
            (ses w i).ent.length = 8)))) ∧
  (∀ (s : State) (v : Nat) (bs : List Byte) (need : Nat), need = fld (nth (bytesWords bs 8) 3 0) 0 32 →
    ((s.ses.hbmLost = true ∨ freeSlot s = none ∨ kvFree s < need) → migHeader s v bs = migReply s v) ∧
    (∀ i, s.ses.hbmLost = false → freeSlot s = some i → need ≤ kvFree s → need ≤ rf s .sesKvmax 0 0 13 →
      (ses (migHeader s v bs) i).st = .migrating ∧ (ses (migHeader s v bs) i).back = .free ∧
      (ses (migHeader s v bs) i).aux = endHandle s v)) ∧
  (∀ (slot : Fin 1048576) (v : Nat) (p : VRing) (s u : State), stopped s = false → replyFor s slot = some (v, p) →
    u = ringFree s v p.pseq →
    (exec (.migrationAcceptance slot) s = .next (enterClosing (modSes (sesComp u slot 0x05 0x0C) slot fun x =>
      { x with aux := 0 }) slot)) ∧
    ((ses s slot).hot = none → ∃ t, exec (.migrationAcceptance slot) s = .next t ∧ (ses t slot).st = .closing ∧
      (ses t slot).aux = 0 ∧ (∀ j, j ≠ slot.val → ses t j = ses s j)) ∧
    exec (.migrationRefusal slot) s = .next (migFail u slot) ∧
    ((ses s slot).move = false → (ses (migFail u slot) slot).st = (ses s slot).back ∧
      (ses (migFail u slot) slot).aux = 0 ∧ (∀ j, j ≠ slot.val → ses (migFail u slot) j = ses s j)))

/-- R201, R206, R207, R208, R302 and R445: what cannot be read now waits; the oldest gate report is served and its batch slot freed, and one whose request is malformed or unreadable fails its pass; a
dispatch received goes into an
inbox slot, is refused where its group takes no experts or it is too large, and stays in the ring while no slot is free; a return under an
unknown tag is counted, one of success is written to its row block, one that says the expert is not there is redirected, and any other abandons its slot; a slot whose
return never came is abandoned with a notice. -/
def Obligations.GateUnit : Prop :=
  (∀ (id : Nat) (rest : List Nat) (s : State), stopped s = false → s.gate.reports = id :: rest →
    (s.ses.passes.find? (fun p => decide (p.id = id)) = none →
      exec .gateReport s = .next { s with gate := { s.gate with reports := rest } }) ∧
    (∀ p, s.ses.passes.find? (fun p => decide (p.id = id)) = some p → bayAway s (areaAddr s p.rep p.repSlot 0) = true →
      exec .gateReport s = .next s) ∧
    (∀ p t a u, s.ses.passes.find? (fun p => decide (p.id = id)) = some p → bayAway s (areaAddr s p.rep p.repSlot 0) = false →
      readArea s p = (t, a) →
      u = (match a with
        | none => rejectRequest t p 0
        | some (w, rblks, ls) =>
          if requestBad t p (bitOf w 63) (fld w 49 7) rblks then rejectRequest t p (fld w 49 7)
          else settleRows t p w rblks ls) →
      exec .gateReport s = .next (p.rows.foldl (fun s r => if sesHandle s r.slot = r.handle then gateReady s r.slot else s)
        (freeBatch (dropPass { u with gate := { u.gate with reports := rest } } id) p.rep p.repSlot p.repNum)))) ∧
  (∀ (v : Fin 65536) (p : VRing) (s t : State) (bs : List Byte) (bad : Option Nat) (fits : Prop), stopped s = false →
    gatePacket s v = some p → packetData s v p (gateAcc s) = (t, bs, bad) →
    (fits ↔ (isExpertGroup t (fld (nth (bytesWords bs 4) 1 0) 50 14) = true ∧
      2 + fld (nth (bytesWords bs 4) 3 0) 54 10 + fld (nth (bytesWords bs 4) 3 0) 44 10 ≤ rf t .gateIctl 0 0 12)) →
    (packetHeld s v p (gateAcc s) = true → exec (.gateDispatchReceived v) s = .next s) ∧
    (packetHeld s v p (gateAcc s) = false → ¬ fits → exec (.gateDispatchReceived v) s =
      .next (sendReturn (ringFree t v p.pseq) (BitVec.ofNat 32 (fld (nth (bytesWords bs 4) 2 0) 32 32))
        (BitVec.ofNat 32 (fld (nth (bytesWords bs 4) 0 0) 32 32)) 2 [])) ∧
    (fits → freeInbox s = none → exec (.gateDispatchReceived v) s = .next s) ∧
    (∀ b, packetHeld s v p (gateAcc s) = false → fits → freeInbox s = some b → ∃ u x, exec (.gateDispatchReceived v) s = .next u ∧ (b, x) ∈ u.gate.inbox ∧
        x.tag.toNat = fld (nth (bytesWords bs 4) 0 0) 32 32 ∧ x.egrp.toNat = fld (nth (bytesWords bs 4) 1 0) 50 14 ∧
        x.expert.toNat = fld (nth (bytesWords bs 4) 1 0) 38 9 ∧ x.inPass = false)) ∧
  (∀ (v : Fin 65536) (p : VRing) (s t u : State) (bs : List Byte) (bad : Option Nat) (g : Option GSlot), stopped s = false →
    gatePacket s v = some p → packetData s v p (gateAcc s) = (t, bs, bad) → u = ringFree t v p.pseq →
    g = u.gate.slots.find? (fun g => decide (g.tag.toNat = fld (bytesWord (bs.take 8)) 32 32 ∧ g.st = .remote) && !g.aband) →
    (packetHeld s v p (gateAcc s) = true → exec (.gateReturnReceived v) s = .next s) ∧
    (packetHeld s v p (gateAcc s) = false → g = none → exec (.gateReturnReceived v) s = .next (rfSat u .gateStat 0 16 16 1)) ∧
    (∀ k, packetHeld s v p (gateAcc s) = false → g = some k →
      (fld (bytesWord (bs.take 8)) 24 8 = 2 → exec (.gateReturnReceived v) s = .next (redirectSlot u k)) ∧
      (fld (bytesWord (bs.take 8)) 24 8 ≠ 0 → fld (bytesWord (bs.take 8)) 24 8 ≠ 2 →
        exec (.gateReturnReceived v) s = .next (afterDiscard (failSlot u k))) ∧
      (fld (bytesWord (bs.take 8)) 24 8 = 0 → ∀ x,
        x = devWrite u (yAddr u k.table k.rblk k.j) ((bs.drop 64).take (64 * yspan u k.table)) (gateAcc u) →
        exec (.gateReturnReceived v) s = .next (wakeSlots (gateReady (dropSlot (markDone x k) k) k.sess))))) ∧
  (∀ (tag : BitVec 32) (g : GSlot) (s u : State), stopped s = false →
    s.gate.slots.find? (fun g => decide (g.tag = tag ∧ g.st = .remote) && !g.aband) = some g →
    u = dueT s (g.sent.toNat + 1000 * rf s .gateCtl 0 48 16 + 64) →
    exec (.gateReturnTimeout tag) s =
      .next (afterDiscard (failSlot (gateNotice (rfSat u .gateStat 0 0 16 1) 2 g.expert g.valley) g)))

/-! ## Bays, mesh, spar channels and eaves links -/

namespace Sys2Proof.Claim
/-- Bay `b` is as before but for corrections and sticky words that a notice-log write has overwritten. -/
def sameBay (s t : State) (b : Nat) : Prop :=
  bay t b = { bay s b with sticky := (bay t b).sticky, fix := (bay t b).fix }
end Sys2Proof.Claim

/-- R276, R280, R285 and R290: each of the two sources of a sub-array presents one request, which waits there, or is refused where
a word's parity fails; the sub-array makes one access at a time, a correction's write-back before both sources and else the source whose turn it is; a bay
in reset takes none. R280, R282, R286, R303 and R312: a fill that returns is stored with the words poisoned that its controller flags, and the request that
waited for it is served; one of a fill that a reset abandoned is discarded; a draining bay stores none. R296 to R303, R282 and R442: the scrubber takes the lines of a lap in
order, on a step that neither source nor a correction needs, and starts the next lap after the last; a lap past LAPMAX is noticed once; every leaky bucket falls by one; a
watchdog or an internal error starts a bay reset, whose requests are kept and issued again when the bay reopens; a reset that fails its self-check, that takes too long, or that
is due again within 1 ms fails the bay; a drained bay's dirty
lines are written back, and the pair is then retired. What an access has brought about (assumption log 70) is settled with the event. -/
def Obligations.BayOperations : Prop :=
  ((∀ (b : Fin 256) (sub : Fin 2) (x y : Option BayReq) (s : State), retired s b = false → reqOk x = true → reqOk y = true →
    (∀ r, x = some r → reqFits s b sub r = true ∧ askedOf s b sub false = none) →
    (∀ r, y = some r → reqFits s b sub r = true ∧ askedOf s b sub true = none) →
    (x ≠ none → (sparOf s b).testing = none) → (x ≠ none ∨ y ≠ none ∨ subWaits s b sub = true) →
    (bayState s b = 1 → exec (.subarrayAccess b sub x y) s = .next s) ∧
    (bayState s b ≠ 1 → exec (.subarrayAccess b sub x y) s =
      .next (settle (arbitrate (present (present s b sub false x) b sub true y) b sub)))) ∧
  (∀ (b : Fin 256) (sub : Fin 2) (p : Bool) (r : BayReq) (s : State),
    (parityBad (opWords r.op) r.par = none → askedOf (present s b sub p (some r)) b sub p = some r ∧
      askedOf (present s b sub p (some r)) b sub (!p) = askedOf s b sub (!p) ∧ present s b sub p none = s) ∧
    (parityBad (opWords r.op) r.par = none → p = true → (present s b sub p (some r)).mesh =
      { s.mesh with arrived := dropFirst (fun x => decide (x.2.req = r)) s.mesh.arrived }) ∧
    (∀ i, parityBad (opWords r.op) r.par = some i → present s b sub p (some r) = hopRefuse s
      (if p then .purlin (Fin.ofNat 272 (stopAt (bayStop s b))) else .sparWrite b (Fin.ofNat 16 (writeLane s b i))))) ∧
  (∀ (b sub : Nat) (s : State),
    (∀ w l, fixesOf s b sub = w :: l → arbitrate s b sub = writeFix s b w) ∧
    (∀ r, fixesOf s b sub = [] → redoOf s b sub = some r → arbitrate s b sub =
      doReq (setBay s b { bay s b with redo := dropFirst (fun x => decide (x = r)) (bay s b).redo }) b r) ∧
    (fixesOf s b sub = [] → redoOf s b sub = none →
      (readyOf s b sub false = none → readyOf s b sub true = none → arbitrate s b sub = s) ∧
      (∀ x p, readyOf s b sub p = some x → (readyOf s b sub (!p) = none ∨ turnOf s b sub = p) →
        ∃ t, arbitrate s b sub = doReq t b x ∧ t = { s with bays := t.bays } ∧ askedOf t b sub p = none ∧
          askedOf t b sub (!p) = askedOf s b sub (!p) ∧ (readyOf s b sub (!p) ≠ none → turnOf t b sub = !p)))) ∧
  (∀ (b sub : Nat) (p : Bool) (r : BayReq) (s : State), (readyOf s b sub p = some r ↔
    (askedOf s b sub p = some r ∧ reqHeld s r = false)) ∧
    (redoOf s b sub = some r → r ∈ (bay s b).redo ∧ reqHeld s r = false)) ∧
  (∀ (b : Fin 256) (sub : Fin 2) (w : Nat) (l : List Nat) (s : State), fixesOf s b sub = w :: l → bayState s b ≠ 1 →
    exec (.correctionWriteback b sub) s = .next (writeFix s b w)) ∧
  (∀ (b : Nat) (s : State) (w : Nat), eccOf (synAt s (8 * w)) ≠ .bad → eccOf (synAt s (8 * w)) ≠ .ok →
    synAt (writeFix s b w) (8 * w) = 0 ∧ (∀ v, v ≠ w → synAt (writeFix s b w) (8 * v) = synAt s (8 * v)) ∧
    sameBytes s (writeFix s b w) ∧ w ∉ (bay (writeFix s b w) b).fix)) ∧
  ((∀ (b : Fin 256) (bytes : List Byte) (m : BitVec 32) (s : State), bytes.length = 256 → (bay s b).stale ≠ 0 →
    exec (.cacheFillReturn b bytes m) s = .next (setBay s b { bay s b with stale := (bay s b).stale - 1 })) ∧
  (∀ (b : Fin 256) (bytes : List Byte) (m : BitVec 32) (f : Fill) (fs : List Fill) (ue : List Nat) (s u v : State),
    bytes.length = 256 → (bay s b).stale = 0 → (bay s b).fills = f :: fs →
    v = (takeGiven (setBay s b { bay s b with fills := fs }) f.line (0xFFFF, 0)).1 →
    ue = idxs 32 (fun i => m.getLsbD i || badAt v (f.line + 8 * i)) → u = takeFlags v f.line →
    (f.done = true → exec (.cacheFillReturn b bytes m) s = .next v) ∧
    (f.done = false → bayState u b ≠ 2 → ∀ x w, fillWay u b f = (x, w) → exec (.cacheFillReturn b bytes m) s =
      .next (settle ((f.req :: f.more).foldl (fun t r => serveFilled t b w r) (storeFill x f.line b w bytes ue)))) ∧
    (f.done = false → bayState u b = 2 → exec (.cacheFillReturn b bytes m) s =
      .next (settle ((f.req :: f.more).foldl (fun t r => passFilled t f ue r) u)))) ∧
  (∀ (f : Fill) (ue : List Nat) (r : BayReq) (s : State),
    (opBytes r.op = [] → ue = [] → passFilled s f ue r = s) ∧
    (∀ i l, opBytes r.op = [] → ue = i :: l → passFilled s f ue r = hbmUe s (f.line + 8 * i) (orgAcc s r.org)) ∧
    (opBytes r.op ≠ [] → passFilled s f ue r = lineRuns s [(r.addr.toNat, opBytes r.op)] (orgAcc s r.org))) ∧
  (∀ (b : Nat) (f : Fill) (s : State), (cline s b (setOf f.line) f.way).valid = false → fillWay s b f =
    (setCline s b (setOf f.line) f.way { tag := tagOf f.line, valid := true }, f.way))) ∧
  ((∀ (b : Fin 256) (sub : Fin 2) (s u : State), retired s b = false → bayState s b ≠ 1 → (bay s b).scrub % 2 = sub.val →
    subWaits s b sub = false → fixesOf s b sub = [] →
    (∀ x ∈ s.mesh.arrived, x.1 = stopAt (bayStop s b) → reqPlace x.2.req.addr.toNat ≠ (b.val, sub.val)) →
    u = scrubAt s b (bayAddr b (256 * (bay s b).scrub)) →
    ((bay s b).scrub < 98303 → exec (.scrubLine b sub) s =
      .next (settle (setBay u b { bay u b with scrub := (bay s b).scrub + 1 }))) ∧
    ((bay s b).scrub = 98303 → exec (.scrubLine b sub) s = .next (settle (endLap u b)))) ∧
  (∀ (b : Nat) (s : State), (bay (endLap s b) b).scrub = 0 ∧ (bay (endLap s b) b).lapAt = nowT s ∧
    (bay (endLap s b) b).saidLate = false ∧
    rf (endLap s b) .baybScrub b 32 32 = min 0xFFFFFFFF (((nowT s).toNat - (bay s b).lapAt.toNat) / 1000) ∧
    rf (endLap s b) .baybScrub b 16 16 = min 65535 (rf s .baybScrub b 16 16 + 1)) ∧
  (∀ (b : Fin 256) (s u : State), retired s b = false → (bay s b).saidLate = false →
    u = dueT s ((bay s b).lapAt.toNat + 1000000 * rf s .bayCtl 0 16 16 + 64) →
    ∃ t, exec (.lateScrub b) s = .next t ∧ (bay t b).saidLate = true ∧ rbit t .baybScrub b 15 = true ∧ t.time = u.time ∧
      (∀ c, c ≠ b.val → sameBay s t c)) ∧
  (∀ s : State, ∃ t, exec .bucketLeak s = .next t ∧ t = { s with time := t.time, bays := t.bays, regs := t.regs } ∧
    (∀ b, b < 256 → retired s b = false → rf t .eccbStat b 8 8 = rf s .eccbStat b 8 8 - 1))) ∧
  ((∀ (b : Fin 256) (k : Nat) (s : State), watchdogDue s b = some k → bayState s b ≠ 1 → retired s b = false →
    (soonAgain s b k = false → exec (.bayWatchdog b) s = .next (startBayReset (dueT s k) b 1)) ∧
    (soonAgain s b k = true → (bay s b).resetAt = none → exec (.bayResetOverrun b) s = .next (failBay (dueT s k) b))) ∧
  (∀ (b : Nat) (s : State), ((bay s b).fills = [] → watchdogDue s b = none) ∧
    (∀ k, watchdogDue s b = some k → (∃ f ∈ (bay s b).fills, k = f.at_.toNat + 64 * rf s .bayCtl 0 48 16 + 64) ∧
      ∀ f ∈ (bay s b).fills, k ≤ f.at_.toNat + 64 * rf s .bayCtl 0 48 16 + 64)) ∧
  (∀ (b : Fin 256) (s : State), bayState s b ≠ 1 → retired s b = false →
    exec (.bayInternalError b) s = .next (startBayReset s b 2)) ∧
  (∀ (b : Fin 256) (k : Nat) (s : State), bayState (startBayReset s b k) b = 1 ∧ (bay (startBayReset s b k) b).fills = [] ∧
    (bay (startBayReset s b k) b).asked = [] ∧ (bay (startBayReset s b k) b).fix = [] ∧
    (bay (startBayReset s b k) b).redo =
      (bay s b).redo ++ ((bay s b).fills.filter (!·.done)).flatMap fillReqs ++ (bay s b).asked.filterMap Prod.snd ∧
    (bay (startBayReset s b k) b).turn0 = false ∧ (bay (startBayReset s b k) b).turn1 = false ∧
    (bay (startBayReset s b k) b).stale = (bay s b).stale + (bay s b).fills.length ∧
    (bay (startBayReset s b k) b).resetAt = some (nowT s) ∧
    (∀ c, c ≠ b.val → sameBay s (startBayReset s b k) c)) ∧
  (∀ (b : Fin 256) (s : State), bayState s b = 1 →
    exec (.baySelfCheckDone b true) s =
      .next (settle (reopenBay (rfSet s .baybStat b 62 2 (if (raf s b).st = .retired then 2 else 0)) b)) ∧
    exec (.baySelfCheckDone b false) s = .next (failBay (setBay s b { bay s b with resetAt := none }) b)) ∧
  (∀ (b : Nat) (s u : State), u = setBay s b { bay s b with redo := [], resetAt := none, reopened := some (nowT s) } →
    reopenBay s b = redoPorts (releaseAway (reissue u b (bay s b).redo) b)) ∧
  (∀ (b : Nat) (r : BayReq) (l : List BayReq) (s : State), reissue s b [] = s ∧ reissue s b (r :: l) =
    reissue (if reqHeld s r then setBay s b { bay s b with redo := (bay s b).redo ++ [r] } else doReq s b r) b l) ∧
  (∀ (b : Fin 256) (w : Word) (s u : State), (bay s b).resetAt = some w → u = dueT s (w.toNat + 12000 + 64) →
    exec (.bayResetOverrun b) s = .next (failBay (setBay u b { bay s b with resetAt := none }) b))) ∧
  ((∀ (b : Fin 256) (s : State), bayState s b = 2 →
    (drainHeld s b (fld (Config.free s.free) 0 4) = true → exec (.bayDrainComplete b) s = .next s) ∧
    (drainHeld s b (fld (Config.free s.free) 0 4) = false → exec (.bayDrainComplete b) s =
      .next (settle (drainBay { s with free := s.free + 1 } b { cls := fld (Config.free s.free) 0 4 })))) ∧
  (∀ (n : Fin 256) (s : State), bayState s n = 2 → dirtyCount s n = 0 → bayUsers s n = [] → hotUsers s n = [] →
    (∀ e ∈ s.gate.inbox, touchesBay n (inboxAddr s e.1) (rf s .gateIctl 0 0 12 * 64) = false) →
    ∃ t, exec (.retirementComplete n) s = .next t ∧ retired t n = true ∧ bayState t n = 3 ∧
      (∀ m, m < 256 → m ≠ n.val → retired t m = retired s m)))

/-- R21 to R25, R34, R35, R290 to R294 and R446: a flit goes on along its row and then its column to the stop of its destination, each
hop bringing it one nearer, or is handed over at its stop; one whose
parity fails is refused and stays where it was. A refused word is resent and counted, its hop's refusals in a row with it: the third in a row on a spar lane, or LTHR errors within 1 ms, put the lane under
test; a mesh hop or a port's output that refuses sixteen times stops
the device, an eaves link is lost, and the input of a controller resends (assumption log 43). A lane test withdraws the requests of the spar port; at its end every
failing bond is served and what was withdrawn or withheld is issued again. A lost eaves link has its flows re-homed to the next surviving link and keeps the
flits that follow the last one accepted, which the new home takes over in their order; losing all four stops the device. -/
def Obligations.MeshSparEaves : Prop :=
  ((∀ (p : Fin 272) (f : PFlit) (s : State), reqOk (some f.req) = true →
    ((parityBad (opWords f.req.op) f.req.par).isSome = true → exec (.purlinFlitArrival p f) s = .next (meshRefuse s p (some f))) ∧
    (parityBad (opWords f.req.op) f.req.par = none →
      ∃ t, exec (.purlinFlitArrival p f) s = .next t ∧ t = { s with mesh := t.mesh, regs := t.regs } ∧
        hopRow t (hopInto s p (some f)) = 0 ∧
        (p.val = stopAt (destStop s f.dst) → t.mesh.arrived = s.mesh.arrived ++ [(p.val, f)]) ∧
        (∀ q, nextStop s p f.dst = some q → (p.val, q, f) ∈ t.mesh.moving ∧ t.mesh.arrived = s.mesh.arrived))) ∧
  (∀ (p : Fin 272) (d : PDest) (s : State), (nextStop s p d = none ↔ p.val = stopAt (destStop s d)) ∧
    ∀ q, nextStop s p d = some q → q < 272 ∧
      hopsTo (q / 17, q % 17) (destStop s d) + 1 = hopsTo (p.val / 17, p.val % 17) (destStop s d) ∧
      (p.val % 17 ≠ (destStop s d).2 → q / 17 = p.val / 17)) ∧
  (∀ (s : State) (b k : Nat), b < 256 → k < 4 → destStop s (.bay (Fin.ofNat 256 b)) = bayStop s b ∧
    destStop s (.hub (Fin.ofNat 4 k)) = (2 + k, 8) ∧ destStop s (.ses (Fin.ofNat 4 k)) = (10 + k, 8) ∧
    destStop s (.eaves (Fin.ofNat 4 k)) = (15, 4 * k + 2) ∧
    destStop s (.hbm (Fin.ofNat 8 k)) = (nth [1, 5, 10, 14] k 0, 0) ∧
    destStop s (.hbm (Fin.ofNat 8 (k + 4))) = (nth [1, 5, 10, 14] k 0, 16))) ∧
  ((∀ (n : Fin 256) (l : Fin 16) (s : State), laneOff s n (32 + l.val) = false → (sparOf s n).testing = none →
    exec (.parityRefusal (.sparWrite n l)) s = .next (sparRefusal s n (32 + l.val))) ∧
  (∀ (n : Fin 256) (l : Fin 32) (s : State), laneOff s n l = false → (sparOf s n).testing = none →
    exec (.parityRefusal (.sparRead n l)) s = .next (sparRefusal s n l)) ∧
  (∀ (n : Fin 256) (k : Nat) (s t : State), t = sparRefusal s n k → (sparOf s n).testing = none →
    t = { s with regs := t.regs, spars := t.spars, bays := t.bays } ∧ (∀ c, c ≠ n.val → bay t c = bay s c) ∧ rf t .sprnStat n 0 32 = min (2 ^ 32 - 1) (rf s .sprnStat n 0 32 + 1) ∧
    (sparOf t n).testing = (if 3 ≤ tget 0 (sparOf s n).row k + 1 ∨ rf s .sprCtl 0 0 8 ≤
        ((tget [] (sparOf s n).errs k).filter fun w => decide ((nowT s).toNat < w.toNat + 1000000)).length + 1
      then some k else none) ∧ ((sparOf t n).testing = none → t.bays = s.bays) ∧ (∀ m, m ≠ n.val → sparOf t m = sparOf s m)) ∧
  (∀ (p : Fin 272) (s : State), exec (.parityRefusal (.purlin p)) s = .next (meshRefuse s p none)) ∧
  (∀ (p : Fin 272) (f : Option PFlit) (s t : State), t = meshRefuse s p f →
    (hopRow s (hopInto s p f) < 15 → t = { s with mesh := { s.mesh with row := t.mesh.row }, regs := t.regs } ∧
      hopRow t (hopInto s p f) = hopRow s (hopInto s p f) + 1) ∧
    (15 ≤ hopRow s (hopInto s p f) → stopped s = false → t.stop.failStop = some 1 ∧ halted t = true)) ∧
  (∀ (e : Fin 4) (s u : State), (eavesOf s e).up = true →
    u = countT (setHopRow s (eavesHop e) (hopRow s (eavesHop e) + 1)) 0x121 e 1 →
    (hopRow s (eavesHop e) < 15 → exec (.parityRefusal (.eaves e)) s = .next u) ∧
    (15 ≤ hopRow s (eavesHop e) → exec (.parityRefusal (.eaves e)) s = .next (loseEaves (setHopRow u (eavesHop e) 0) e))) ∧
  (∀ (k : Fin 8) (s : State), exec (.parityRefusal (.hbmInput k)) s =
    .next (setHopRow s (inputHop k) (hopRow s (inputHop k) + 1))) ∧
  (∀ (p : Fin 13) (s u : State), u = setPort s p { port s p with txFails := (port s p).txFails + 1 } →
    ((port s p).txFails < 15 → exec (.parityRefusal (.urgenTx p)) s = .next u) ∧
    (15 ≤ (port s p).txFails → exec (.parityRefusal (.urgenTx p)) s = .next (failStop u 6)))) ∧
  ((∀ (n : Fin 256) (s : State), sparStage s n ≠ 3 → (sparOf s n).testing = none →
    ∃ t, exec (.controlHandshakeError n) s = .next t ∧ t = { s with spars := t.spars, bays := t.bays } ∧
      (sparOf t n).testing = some 48 ∧
      (sparOf t n).back = (sparOf s n).back ++ [false, true].filterMap (fun sub => askedOf s n (b2n sub) false) ∧
      (∀ sub, sub < 2 → askedOf t n sub false = none ∧ askedOf t n sub true = askedOf s n sub true) ∧
      (∀ c, c ≠ n.val → bay t c = bay s c ∧ sparOf t c = sparOf s c)) ∧
  (∀ (n : Fin 256) (lane : Nat) (bonds : List Nat) (s u : State), (sparOf s n).testing = some lane → bayState s n ≠ 1 →
    (∀ b ∈ bonds, b < laneBonds lane) → bonds.Nodup →
    u = setSpar s n { sparOf s n with testing := none, errs := tput [] (sparOf s n).errs lane [],
                                      row := tput 0 (sparOf s n).row lane 0 } →
    exec (.laneTestEnd n bonds) s = .next (settle (resumeSpar ((sortBy id bonds).foldl (fun s b => failBond s n lane b) u) n))) ∧
  (∀ (n : Nat) (s u : State), u = setSpar s n { sparOf s n with back := [], late := [] } → resumeSpar s n =
    (sparOf s n).late.foldl (fun t m => notifyOver t n m.1 m.2.1 m.2.2) (redoPort (reissue u n (sparOf s n).back) n)) ∧
  (∀ (n : Fin 256) (lane bond lo w most half : Nat) (s : State), laneGroup lane = (lo, w, most, half) → sparStage s n ≠ 3 →
    ¬(half = 0 ∧ sparStage s n = 2) → ¬(half = 1 ∧ sparStage s n = 1) →
    (rf s .sprnStat n lo w < most → ∃ t, failBond s n lane bond = t ∧ rf t .sprnStat n lo w = rf s .sprnStat n lo w + 1 ∧
      (lane, bond, rf s .sprnStat n lo w) ∈ (sparOf t n).spares ∧ sparStage t n = sparStage s n) ∧
    (most ≤ rf s .sprnStat n lo w → half ≠ 2 → sparStage s n = 0 →
      sparStage (failBond s n lane bond) n = if half = 0 then 2 else 1) ∧
    (most ≤ rf s .sprnStat n lo w → (half = 2 ∨ sparStage s n ≠ 0) →
      failBond s n lane bond = retireRafter (sparNotice (rfSet s .sprnStat n 62 2 3) n 2 bond) n 1)) ∧
  (∀ (n : Fin 256) (idx : Nat) (wd : Bool) (b : Beat) (s : State), (raf s n).beats[idx]? = some b → beatHeld s n b = false →
    (wd = true → b.done = false) →
    (b.done = true → exec (.sparResponse n idx wd) s = .next (modRaf s n fun r => ackBeat r idx b)) ∧
    (b.done = false → (((raf s n).beats.take idx).all fun e => e.done) = true →
      exec (.sparResponse n idx wd) s = .next (modRaf (performBeat s n b) n fun r => ackBeat r idx b)))) ∧
  ((∀ (e : Fin 4) (s : State), (eavesOf s e).up = true →
    ((∃ k, k < 4 ∧ k ≠ e.val ∧ (eavesOf s k).up = true) → ∃ t, exec (.eavesLockLoss e) s = .next t ∧
      eavesOf t e = { up := false, lost := true, takeover := true, held0 := (eavesOf s e).part0 ++ (queue s (30 + e)).words,
                      held1 := (eavesOf s e).part1 ++ (queue s (38 + e)).words } ∧
      (queue t (30 + e)).words = [] ∧ (queue t (38 + e)).words = [] ∧ (∀ k, k ≠ e.val → eavesOf t k = eavesOf s k) ∧
      rbit t .sesStat 0 62 = true ∧ t.stop = s.stop) ∧
    (stopped s = false → (∀ k, k < 4 → k ≠ e.val → (eavesOf s k).up = false) →
      ∃ t, exec (.eavesLockLoss e) s = .next t ∧ t.stop.failStop = some 7)) ∧
  (∀ (f : Flow) (i : Nat) (s : State), i < 4 → (eavesOf s ((flowHome f + i) % 4)).up = true →
    (∀ j, j < i → (eavesOf s ((flowHome f + j) % 4)).up = false) →
    flowLink s f = some ((flowHome f + i) % 4) ∧
    (flowWaits s f = true ↔ ∃ j, j < i ∧ (eavesOf s ((flowHome f + j) % 4)).takeover = true)) ∧
  (∀ (e : Fin 4) (h : Nat) (l : List Nat) (x : Eaves) (s : State), x = eavesOf s e → x.takeover = true → eavesFrom s e = h :: l →
    (queue s (30 + h)).words.length + x.held0.length ≤ qDepth s (30 + h) →
    (queue s (38 + h)).words.length + x.held1.length ≤ qDepth s (38 + h) →
    ∃ t, exec (.eavesTakeoverComplete e) s = .next t ∧ (eavesOf t e).takeover = false ∧
      (queue t (30 + h)).words = (queue s (30 + h)).words ++ x.held0 ∧
      (queue t (38 + h)).words = (queue s (38 + h)).words ++ x.held1 ∧
      (∀ k, k ≠ e.val → eavesOf t k = eavesOf s k) ∧
      ((∀ k, k < 4 → k ≠ e.val → (eavesOf s k).takeover = false) → boundSlots s = [] → rbit t .sesStat 0 62 = false)) ∧
  (∀ (e : Nat) (h : Nat) (l : List Nat) (s : State), eavesFrom s e = h :: l → h < 4 ∧ (eavesOf s h).up = true))

/-- R47 to R55: a beacon sets every reader's value to the counter's next multiple of 64, 64 ns after that, the fixed delay that the
model gives every reader (assumption log 15); a timeout fires at the first
beacon of at least the value that it waits for; the loss of the reference starts the holdover and its return ends it;
holdover that runs out stops the device with cause 4; a monitor's reading gives its course the least margin of its
working monitors, and a monitor that is silent for 64 µs, once the last stage of its course has closed, fails. -/
def Obligations.TimeAndMonitors : Prop :=
  (∀ s : State, s.boot.ridgeOn = true → s.time.beacon.toNat ≤ s.time.dcnt.toNat → s.time.dcnt.toNat + 128 < 2 ^ 64 →
    ∃ t, exec .timeBeacon s = .next t ∧ t = { s with time := t.time } ∧ (nowT t).toNat % 64 = 0 ∧
      (nowT t).toNat = (s.time.dcnt.toNat / 64 + 1) * 64 ∧ nowR t = nowT t + 64) ∧
  (∀ (r : Nat) (x : BTimeout) (s : State), s.time.timeouts.find? (fun t => decide (t.reader = r)) = some x →
    x.fired = false → x.due + 64 < 2 ^ 64 →
    ∃ t, exec (.beaconTimeout r) s = .next t ∧ t = { s with time := t.time } ∧ x.due ≤ (nowT t).toNat ∧
      (∃ y, t.time.timeouts.find? (fun t => decide (t.reader = r)) = some y ∧ y.fired = true)) ∧
  (∀ s : State, rbit s .sysRefstat 0 0 = true →
    ∃ t, exec .referenceLoss s = .next t ∧ t.time = { s.time with lostAt := some (nowR s) } ∧
      rf t .sysRefstat 0 0 3 = 6 ∧ rf t .sysRefstat 0 32 16 = min 65535 (rf s .sysRefstat 0 32 16 + 1)) ∧
  (∀ (w : Word) (s : State), s.time.lostAt = some w → s.time.dcnt.toNat ≤ w.toNat + 10000000 →
    ∃ t, exec .referenceReturn s = .next t ∧ t.time = { s.time with lostAt := none } ∧ rbit t .sysRefstat 0 0 = true ∧
      rbit t .sysRefstat 0 2 = false) ∧
  (∀ (w : Word) (s : State), s.time.lostAt = some w → stopped s = false → w.toNat + 10000000 < 2 ^ 64 →
    ∃ t, exec .holdoverExpiry s = .next t ∧ t.stop.failStop = some 4 ∧ halted t = true ∧
      w.toNat + 10000000 ≤ (nowR t).toNat ∧ (∀ p, p < 13 → portUp t p = false) ∧ (∀ e, e < 4 → (eavesOf t e).up = false)) ∧
  (∀ (q : Fin 81) (i : Fin 4) (m : Byte) (ps : BitVec 16) (s : State), railUp s q = true →
    tget false s.power.monBad (4 * q.val + i.val) = false →
    ∃ t, exec (.monitorReading q i m ps) s = .next t ∧ rbit t .pwrqSlack q i = true ∧
      rf t .pwrqSlack q 32 16 = ps.toNat ∧ rf t .pwrqSlack q 8 8 ≤ m.toNat ∧
      ((∀ j, j < 4 → j ≠ i.val → tget false s.power.monBad (4 * q.val + j) = true ∨ tget 0 s.power.mon (4 * q.val + j) = 0) →
        rf t .pwrqSlack q 8 8 = m.toNat) ∧
      (∀ p, p < 81 → rf t .pwrqVstat p 48 10 = rf s .pwrqVstat p 48 10)) ∧
  (∀ (q : Fin 81) (i : Fin 4) (s : State), railUp s q = true → rf s .pwrqVstat q 58 3 = 7 →
    tget false s.power.monBad (4 * q.val + i.val) = false →
    ∃ t, exec (.monitorFail q i) s = .next t ∧ tget false t.power.monBad (4 * q.val + i.val) = true ∧
      rbit t .pwrqSlack q i = false ∧
      ((tget 0 s.power.monAt (4 * q.val + i.val)).toNat + 64000 < 2 ^ 64 →
        (tget 0 s.power.monAt (4 * q.val + i.val)).toNat + 64000 ≤ (nowR t).toNat) ∧
      ((∀ j, j < 4 → j ≠ i.val → tget false s.power.monBad (4 * q.val + j) = true) → rf t .pwrqSlack q 8 8 = 0))

/-- R60 to R72: a word written waits behind those before it and a full queue makes its writer wait; in a packing queue one behind a partial word
is packed; a port's receive queue is drained by the switch, and its transmit queue takes whole flits of 32 words. The consumer takes
the oldest word once a whole packet, CUT words or a timeout lets it start, a clocked one whole flits; a word with a parity error is refused at the next check, where the hop upstream resends its copy, whose value is free; a word crosses an eaves link
with its flit, which the receiving end takes whole. That a full queue lets its consumer start whatever CUT is, and that a flush without room waits for the
first word to be taken, is the model's choice (assumption log 46), and so is the free value of a copy. Items are packed lowest byte first until eight make
a word, whose parity is generated; a flush writes what is left. A queue that stays unread for TIMEOUT is
flagged, flushed, and lets its consumer start on what it holds. -/
def Obligations.BoundaryQueues : Prop :=
  ((∀ (q : Fin 60) (w : Word) (p e : Bool) (vb : BitVec 3) (s : State),
    (qDepth s q ≤ (queue s q).words.length → exec (.queueWordWrite q w p e vb) s = .next s) ∧
    ((queue s q).words.length < qDepth s q →
      (26 ≤ q.val → (qPacks s q = false ∨ (queue s q).part = []) → ∃ t, exec (.queueWordWrite q w p e vb) s = .next t ∧
        t = { s with queues := t.queues } ∧ (∀ k, k ≠ q.val → queue t k = queue s k) ∧
        (queue t q).words = (queue s q).words ++ [⟨w, p, e, if qPacks s q = true then vb else 0⟩] ∧
        (queue t q).part = (queue s q).part) ∧
      (26 ≤ q.val → qPacks s q = true → (queue s q).part ≠ [] → exec (.queueWordWrite q w p e vb) s =
        .next (packTake s q ((wordBytes w).take (if vb = 0 then 8 else vb.toNat)) e)) ∧
      (q.val < 13 → ∀ u, u = signalEnds (qWrite s q ⟨w, p, e, vb⟩) q [⟨w, p, e, vb⟩] →
        exec (.queueWordWrite q w p e vb) s = .next (drainPort u q (waiting u q))) ∧
      (13 ≤ q.val → q.val < 26 → (queue s q).fill.length < 31 → exec (.queueWordWrite q w p e vb) s =
        .next (setQueue s q { queue s q with fill := (queue s q).fill ++ [⟨w, p, e, 0⟩] })) ∧
      (13 ≤ q.val → q.val < 26 → 31 ≤ (queue s q).fill.length → ∀ u, u = setQueue s q { queue s q with fill := [] } →
        exec (.queueWordWrite q w p e vb) s = .next (fillTx (setPort u (q.val - 13) { port u (q.val - 13) with
          txq := (port u (q.val - 13)).txq ++ [(queue s q).fill ++ [⟨w, p, e, 0⟩]] }) (q.val - 13))))) ∧
  (∀ (q : Nat) (s : State), qMayTake s q = true ↔ (queue s q).words ≠ [] ∧
    ((queue s q).mid = true ∨ (queue s q).go ≠ 0 ∨ 1 ≤ qPkts (queue s q) ∨
      (fld (qCtl s q) 32 16 ≠ 0 ∧ fld (qCtl s q) 32 16 ≤ (queue s q).words.length) ∨ qDepth s q ≤ (queue s q).words.length) ∧
    (qClocked q = true → (queue s q).taken ≠ 0 ∨ 1 ≤ qPkts (queue s q) ∨ 32 ≤ (queue s q).words.length)) ∧
  (∀ (q : Fin 60) (w : QWord) (ws : List QWord) (s v : State), v = (if q.val = 59 then feedLog s else s) →
    (queue v q).words = w :: ws → qMayTake v q = true →
    (q.val < 13 → exec (.queueWordRead q) s = .next { drainPort v q (waiting v q) with rdata := w.w }) ∧
    (∀ (p : Fin 13) (t : State), q.val = p.val + 13 → exec (.flitTransmit p) v = .next t →
      exec (.queueWordRead q) s = .next { t with rdata := w.w }) ∧
    (26 ≤ q.val → qPack v q = 4 → exec (.queueWordRead q) s = .next (takeByte v q w)) ∧
    (26 ≤ q.val → qPack v q ≠ 4 → (eavesTx q = true → (eavesOf v ((q.val - 30) % 8)).up = true) →
      (crossWaits v q = true → exec (.queueWordRead q) s = .next v) ∧
      (crossWaits v q = false → checkedNext q = true → w.parity ≠ xorBits w.w →
        exec (.queueWordRead q) s = .next (refuseWord v q)) ∧
      (crossWaits v q = false → (checkedNext q = false ∨ w.parity = xorBits w.w) → exec (.queueWordRead q) s =
        .next (takeWord (match hopAfter q with | some h => hopAccept v h | none => v) q w)))) ∧
  (∀ (q : Nat) (w : QWord) (ws : List QWord) (s : State), (queue s q).words = w :: ws → w.parity ≠ xorBits w.w →
    repairHead s q = setQueue { s with free := s.free + 1 } q { queue s q with
      words := { w with w := Config.free s.free, parity := xorBits (Config.free s.free) } :: ws } ∧
    refuseWord s q = (match hopAfter q with | some h => hopRefuse (repairHead s q) h | none => repairHead s q)) ∧
  (∀ (q e to_ : Nat) (w : QWord) (ws : List QWord) (s t : State), eavesTx q = true → t = crossWord s q w → e = (q - 30) % 8 →
    to_ = (if q < 34 then q + 4 else q - 12) →
    ws = (if q < 34 then (eavesOf s e).part0 else (eavesOf s e).part1) ++ [w] →
    (w.endm = false → ws.length < 32 → t.queues = s.queues ∧
      eavesOf t e = (if q < 34 then { eavesOf s e with part0 := ws } else { eavesOf s e with part1 := ws })) ∧
    ((w.endm = true ∨ 32 ≤ ws.length) → (queue t to_).words = (queue s to_).words ++ ws ∧
      (∀ k, k ≠ to_ → queue t k = queue s k) ∧
      eavesOf t e = (if q < 34 then { eavesOf s e with part0 := [] } else { eavesOf s e with part1 := [] }))) ∧
  (∀ (q : Nat) (w : QWord) (ws : List QWord) (s t : State), (queue s q).words = w :: ws → t = takeWord s q w →
    t = { s with queues := t.queues, regs := t.regs, eaves := t.eaves, rdata := w.w } ∧
    (eavesTx q = false → t.eaves = s.eaves ∧ ∀ k, k ≠ q → queue t k = queue s k) ∧
    (queue t q).fired = false ∧
    ((queue s q).due = false → (queue t q).words = ws ∧ (queue t q).part = (queue s q).part) ∧
    ((queue s q).due = true → qPacks s q = true → (queue s q).part ≠ [] → ws.length < qDepth s q →
      (queue t q).words = ws ++ [packWord (queue s q).part false] ∧ (queue t q).part = [])) ∧
  (∀ (q : Nat) (w : QWord) (s : State), (takeByte s q w).rdata = (nth (wordBytes w.w) (queue s q).bytes 0).setWidth 64 ∧
    ((queue s q).bytes < 7 → (queue (takeByte s q w) q).words = (queue s q).words ∧
      (queue (takeByte s q w) q).bytes = (queue s q).bytes + 1) ∧
    ((queue s q).bytes = 7 → (takeByte s q w).queues = (takeWord s q w).queues))) ∧
  ((∀ (q : Fin 60) (item : List Byte) (e : Bool) (s : State), qPacks s q = true → item ≠ [] →
    (item.length = (if qPack s q = 1 then 1 else 4) ∨ (e = true ∧ item.length < (if qPack s q = 1 then 1 else 4))) →
    exec (.packItem q item e) s = .next (packTake s q item e)) ∧
  (∀ (q : Nat) (bs : List Byte) (e : Bool) (s : State),
    ((queue s q).due = true ∨ qDepth s q < (queue s q).words.length + (packIn (queue s q) bs e).1.length →
      packTake s q bs e = s) ∧
    ((queue s q).due = false → (queue s q).words.length + (packIn (queue s q) bs e).1.length ≤ qDepth s q →
      ∃ t, packTake s q bs e = t ∧ t = { s with queues := t.queues } ∧ (∀ k, k ≠ q → queue t k = queue s k) ∧
        (queue t q).words = (queue s q).words ++ (packIn (queue s q) bs e).1 ∧ (queue t q).part = (packIn (queue s q) bs e).2)) ∧
  (∀ (x : Queue) (bs l : List Byte) (e : Bool), l = x.part ++ bs → l ≠ [] → l.length < 16 →
    (l.length < 8 → e = false → packIn x bs e = ([], l)) ∧
    (l.length ≤ 8 → e = true → packIn x bs e = ([packWord l true], [])) ∧
    (8 ≤ l.length → e = false → packIn x bs e = ([packWord (l.take 8) false], l.drop 8)) ∧
    (8 < l.length → e = true → packIn x bs e = ([packWord (l.take 8) false, packWord (l.drop 8) true], []))) ∧
  (∀ (q : Fin 60) (x : Queue) (s : State), x = queue s q → fld (qCtl s q) 48 16 ≠ 0 → x.fired = false →
    (x.words ≠ [] ∨ x.part ≠ []) →
    ∃ u, exec (.queueTimeout q) s = .next (if q.val < 13 then drainPort u q (waiting u q) else u) ∧
      (∀ k, k ≠ q.val → queue u k = queue s k) ∧ (queue u q).fired = true ∧ rbit u (qRegs q).2.1 (qRegs q).2.2 7 = true ∧
      ((qPacks s q = false ∨ x.part = [] ∨ qDepth s q ≤ x.words.length) → (queue u q).words = x.words ∧ (queue u q).part = x.part) ∧
      (qPacks s q = true → x.part ≠ [] → x.words.length < qDepth s q →
        (queue u q).words = x.words ++ [packWord x.part false] ∧ (queue u q).part = []) ∧
      (queue u q).go = (if qClocked q = true then (queue u q).words.length / 32 * 32 else (queue u q).words.length) ∧
      (x.since.toNat + 64 * fld (qCtl s q) 48 16 + 127 < 2 ^ 64 → x.since.toNat + 64 * fld (qCtl s q) 48 16 ≤ (qNow u q).toNat)))

/-- R289, R290, R310 to R323: a request whose data fails its parity is refused; one is queued unless its class is held and it was not in flight when the hold was raised, or the
queue is full, where it waits at
its source; a failed stack discards writes and answers reads; a new level marks the peak, raises holds at HIGH on the classes over their share and releases all at LOW. The scheduler issues what pick chooses among the requests that none before them
holds back, reads before writes unless 32 writes
wait, and a write that has aged 2 µs; pick prefers the priority, then an open row, then age. A read that returns is delivered, counted, with the words flagged that its stack or the poison list flags, or completes the partial write
it was made for, whose uncovered bad words are poisoned (assumption log 68); one with a parity error is repeated up to four times. What an access has brought about (assumption log 70) is settled with the event. -/
def Obligations.HbmRequests : Prop :=
  ((∀ (t : Fin 8) (r : HReq) (s u : State), hreqOk r = true → stackOf r.addr.toNat = t.val → hbmOn s = true →
    ((parityBad (reqWords r) r.par).isSome = true → exec (.hbmRequestAccept t r) s = .next (hopRefuse s (.hbmInput t))) ∧
    (parityBad (reqWords r) r.par = none → u = (if r.write = true then hopAccept s (.hbmInput t) else s) →
      (rf s .hbmsStat t 62 2 = 2 → exec (.hbmRequestAccept t r) s = .next (if r.write = true then u else reqUe s r r.addr.toNat)) ∧
      (rf s .hbmsStat t 62 2 ≠ 2 → ((rbit s .hbmsQlvl t (48 + (orgAcc s r.org).cls) = true ∧ r.flight = false) ∨ 512 ≤ qLevel s t) →
        exec (.hbmRequestAccept t r) s = .next u) ∧
      (rf s .hbmsStat t 62 2 ≠ 2 → (rbit s .hbmsQlvl t (48 + (orgAcc s r.org).cls) = false ∨ r.flight = true) → qLevel s t < 512 →
        ∃ v, exec (.hbmRequestAccept t r) s = .next (settle (levelChanged v t)) ∧ v = { u with hbm := v.hbm } ∧
          (∃ e, e ∈ (stack v t).queue ∧ e.req = r ∧ e.issued = false ∧ e.at_ = nowT s ∧ e.cls = (orgAcc s r.org).cls) ∧
          (stack v t).queue.length = (stack s t).queue.length + 1 ∧ (∀ k, k ≠ t.val → stack v k = stack s k)))) ∧
  (∀ (t : Fin 8) (n d : Nat) (s u : State), n = qLevel s t → n ≤ 512 → u = levelChanged s t → d = fld (Config.free s.free) 0 32 →
    u = { s with regs := u.regs, free := u.free } ∧ rf u .hbmsQlvl t 32 10 = max n (rf s .hbmsQlvl t 32 10) ∧
    (sealed s = true → rf s .hbmsStat t 62 2 ≠ 1 →
      (rf s .hbmCtl 0 55 9 ≤ n → ∀ c : Fin 16, rbit u .hbmsQlvl t (48 + c) =
        (rbit s .hbmsQlvl t (48 + c) || overShare s t c d)) ∧
      (n < rf s .hbmCtl 0 55 9 → n ≤ rf s .hbmCtl 0 46 9 → rf u .hbmsQlvl t 48 16 = 0)))) ∧
  ((∀ (t : Fin 8) (pc : Fin 32) (n : Nat) (e : HEnt) (s : State), rf s .hbmsStat t 62 2 = 0 → hbmOn s = true →
    n = ((stack s t).queue.filter fun e => !e.issued && (decide (e.pc = pc.val) && e.req.write)).length →
    ((n < 32 ∨ readyReqs s t pc true = []) → readyReqs s t pc false ≠ [] → pickReq s t (readyReqs s t pc false) = some e →
      exec (.hbmSchedule t pc) s = .next (issueReq s t e)) ∧
    ((32 ≤ n ∨ readyReqs s t pc false = []) → pickReq s t (readyReqs s t pc true) = some e →
      exec (.hbmSchedule t pc) s = .next (issueReq s t e)) ∧
    (∀ l, readyReqs s t pc true = e :: l →
      exec (.hbmWriteAge t pc) s = .next (issueReq (dueT s (e.at_.toNat + 2000 + 64)) t e))) ∧
  (∀ (t : Nat) (l : List HEnt) (e : HEnt) (s : State), pickReq s t l = some e → e ∈ l ∧ ∀ b ∈ l,
    qosPrio s t b.cls ≤ qosPrio s t e.cls ∧ (qosPrio s t b.cls = qosPrio s t e.cls →
      (openRow (stack s t) b.pc b.bank = b.row + 1 → openRow (stack s t) e.pc e.bank = e.row + 1) ∧
      ((openRow (stack s t) b.pc b.bank = b.row + 1 ↔ openRow (stack s t) e.pc e.bank = e.row + 1) →
        e.at_.toNat * 16 + e.cls ≤ b.at_.toNat * 16 + b.cls))) ∧
  (∀ (t pc : Nat) (w : Bool) (s : State), ∀ e ∈ readyReqs s t pc w, e ∈ (stack s t).queue ∧ e.issued = false ∧ e.pc = pc ∧
    e.req.write = w ∧ ∀ b ∈ (stack s t).queue, inFlight b = true → b.req.write ≠ w → meet (spanOf b) (spanOf e) = false)) ∧
  ((∀ (t : Fin 8) (pc : Fin 32) (tctl ce : Nat) (ue : BitVec 32) (e : HEnt) (s u : State), hbmOn s = true →
    (stack s t).queue.find? (fun e => inFlight e && decide (e.pc = pc.val)) = some e →
    (u = (if ce = 0 then s else countH (rfSat s .hbmsStat t 32 16 ce) t 0x307 pc ce) →
      exec (.hbmReadReturn t pc false ue ce tctl) s = .next (returned u t e (idxs 32 fun i => ue.getLsbD i) tctl)) ∧
    (u = parityError s t pc →
      (rf u .hbmsStat t 62 2 = 2 → exec (.hbmReadReturn t pc true ue ce tctl) s = .next (settle u)) ∧
      (rf u .hbmsStat t 62 2 ≠ 2 → e.tries < 4 → exec (.hbmReadReturn t pc true ue ce tctl) s =
        .next (settle (countH (setStack u t { stack u t with
          queue := mapIf (fun b => decide (b = e)) (fun b => { b with tries := b.tries + 1 }) (stack u t).queue }) t 0x306 pc 1))) ∧
      (rf u .hbmsStat t 62 2 ≠ 2 → 4 ≤ e.tries → exec (.hbmReadReturn t pc true ue ce tctl) s =
        .next (returned u t e (List.range 32) tctl)))) ∧
  (∀ (t : Nat) (e : HEnt) (ue : List Nat) (tctl : Nat) (s : State), rf s .hbmsStat t 62 2 ≠ 1 →
    returned s t e ue tctl = settle (if e.rmw = true then mergeWrite s t e ue else deliver s t e ue tctl)) ∧
  (∀ (t : Fin 8) (e : HEnt) (ue : List Nat) (tctl l : Nat) (s u : State), e.cls < 16 → l = lineOf e.req.addr.toNat →
    stackOf l = t.val → hbmDead s l = false → u = deliver s t e ue tctl →
    (stack u t).given = (stack s t).given ++ [(l, takerOf s l e.req)] ∧
    (stack u t).queue = dropFirst (fun b => decide (b = e)) (stack s t).queue ∧
    rg u .qosRdbc e.cls = rg s .qosRdbc e.cls + 256 ∧ (flagged s l ue = [] → sameBytes s u) ∧
    (∀ i ∈ flagged s l ue, (tget 0 (stack u t).flags l).getLsbD i = true)) ∧
  (∀ (t : Fin 8) (e : HEnt) (ue : List Nat) (lo hi l : Nat) (s u : State), spanOf e = (lo, hi) → hi = lo + e.req.data.length →
    l = lineOf lo → stackOf l = t.val → hbmDead s lo = false → (stack s t).poison.length < 4096 → u = mergeWrite s t e ue →
    (ue = [] → (∀ i, i < 32 → hbmBad s (l + 8 * i) = false) → ∀ a, readByte u.mem a =
      if lo ≤ a ∧ a < hi then nth e.req.data (a - lo) 0 else readByte s.mem a) ∧
    (∀ i ∈ ue, i < 32 → (burstsOf e).1 ≤ l + 8 * i → l + 8 * i < (burstsOf e).2 → ¬(lo ≤ l + 8 * i ∧ l + 8 * i + 8 ≤ hi) →
      (tget 0 (stack u t).poison l).getLsbD i = true)))

/-- R305, R310, R312 to R315, R321 and R325: refresh closes the row of the next bank in turn; a pseudo-channel idle for 200 ns
goes to power-down; a window's end judges the classes held again and starts the counts afresh; a retraining in self-refresh ends in RUN, its hold released and the triggers that came meanwhile acted on, or in FAILED; a write that the stack
reports as damaged counts toward the lane's limit, past which a spare lane is used, or the stack steps down and retrains with every class held, or has failed; a stack whose interface fails is FAILED.
What an access has brought about (assumption log 70) is settled with the event. -/
def Obligations.HbmUpkeep : Prop :=
  ((∀ (t : Fin 8) (pc : Fin 32) (b : Nat) (s : State), rf s .hbmsStat t 62 2 = 0 → hbmOn s = true → b = tget 0 (stack s t).refresh pc →
    ∃ u, exec (.perBankRefresh t pc) s = .next u ∧ u = { s with hbm := u.hbm, regs := u.regs } ∧
      tget 0 (stack u t).refresh pc = (b + 1) % 48 ∧ openRow (stack u t) pc b = 0 ∧
      (∀ c k, 64 * c + k ≠ 64 * pc.val + b → openRow (stack u t) c k = openRow (stack s t) c k)) ∧
  (∀ (t : Fin 8) (pc : Fin 32) (s : State), rf s .hbmsStat t 62 2 = 0 → hbmOn s = true → (stack s t).down.getLsbD pc = false →
    (∀ e ∈ (stack s t).queue, e.pc = pc.val → e.issued = true ∧ inFlight e = false) →
    ∃ u, exec (.hbmPowerDown t pc) s = .next u ∧ u = { s with hbm := u.hbm, time := u.time } ∧
      stack u t = { stack s t with down := (stack u t).down } ∧ (∀ k, k ≠ t.val → stack u k = stack s k) ∧
      (∀ c : Fin 32, (stack u t).down.getLsbD c = ((stack s t).down.getLsbD c || decide (c = pc))) ∧
      ((tget 0 (stack s t).active pc).toNat + 391 < 2 ^ 64 → (tget 0 (stack s t).active pc).toNat + 264 ≤ (nowT u).toNat)) ∧
  (∀ (t : Fin 8) (s : State), sealed s = true → hbmOn s = true →
    ∃ u, exec (.hbmWindowBoundary t) s = .next (settle u) ∧
      u = { s with hbm := u.hbm, regs := u.regs, time := u.time, free := s.free + 1 } ∧ (stack u t).bytes = [] ∧
      (stack u t).window = BitVec.ofNat 64 ((stack s t).window.toNat + 1024) ∧
      (stack u t).targets = (List.range 16).map (fun c => rf s .qosStatc c 48 16) ∧
      (∀ c : Fin 16, (stack u t).prev.getLsbD c = decide (tget 0 (stack s t).bytes c ≠ 0)) ∧
      (rf s .hbmsQlvl t 48 16 = 0 ∨ rf s .hbmsStat t 62 2 = 1 → rf u .hbmsQlvl t 48 16 = rf s .hbmsQlvl t 48 16) ∧
      (rf s .hbmsQlvl t 48 16 ≠ 0 → rf s .hbmsStat t 62 2 ≠ 1 → ∀ c : Fin 16,
        rbit u .hbmsQlvl t (48 + c) = overShare s t c (fld (Config.free s.free) 0 32)))) ∧
  ((∀ (t : Fin 8) (s u : State), rf s .hbmsStat t 62 2 = 1 → (stack s t).selfRef = true → hbmOn s = true →
    u = setStack (rfSet (rfSet s .hbmsStat t 62 2 0) .hbmsQlvl t 48 16 0) t { stack s t with selfRef := false, again := [] } →
    exec (.hbmRetrainDone t true) s =
      .next (settle (levelChanged ((stack s t).again.foldl (fun s ch => laneTrigger s t ch) u) t)) ∧
    exec (.hbmRetrainDone t false) s = .next (failStack s t)) ∧
  (∀ (t : Fin 8) (s : State), rf s .hbmsStat t 62 2 ≠ 2 → hbmOn s = true →
    exec (.hbmPhyFailure t) s = .next (settle (failStack s t))) ∧
  (∀ (t : Fin 8) (s : State), rf (failStack s t) .hbmsStat t 62 2 = 2)) ∧
  ((∀ (t : Fin 8) (pc : Fin 32) (e : HEnt) (s : State), hbmOn s = true → e ∈ (stack s t).queue → e.issued = true →
    e.req.write = true → e.rmw = false → e.pc = pc.val →
    exec (.hbmWriteParityFailure t pc) s = .next (settle (parityError s t pc))) ∧
  (∀ (t : Fin 8) (pc ch : Nat) (l : List Word) (s : State), ch = pc / 2 →
    l = nowT s :: (tget [] (stack s t).perr ch).filter (fun e => decide ((nowT s).toNat < e.toNat + 1000000)) →
    ∃ u, u = { s with hbm := u.hbm } ∧ (∀ k, k ≠ t.val → stack u k = stack s k) ∧
      stack u t = { stack s t with perr := (stack u t).perr } ∧ tget [] (stack u t).perr ch = l.take 256 ∧
      (l.length ≤ rf s .hbmCtl 0 38 8 → parityError s t pc = u) ∧
      (rf s .hbmCtl 0 38 8 < l.length → parityError s t pc = laneTrigger u t ch)) ∧
  (∀ (t : Fin 8) (ch : Nat) (s u : State), u = laneTrigger s t ch →
    (rf s .hbmsStat t 62 2 = 1 → (stack u t).again = (stack s t).again ++ [ch] ∧ u = { s with hbm := u.hbm }) ∧
    (rf s .hbmsStat t 62 2 = 0 → tget 0 (stack s t).lanes ch < Config.hbmSpares t ch →
      tget 0 (stack u t).lanes ch = tget 0 (stack s t).lanes ch + 1 ∧
      rf u .hbmsStat t 48 11 = min 2047 (rf s .hbmsStat t 48 11 + 1) ∧ rf u .hbmsStat t 62 2 = rf s .hbmsStat t 62 2) ∧
    (rf s .hbmsStat t 62 2 = 0 → Config.hbmSpares t ch ≤ tget 0 (stack s t).lanes ch → rf s .hbmsStat t 60 2 < 2 →
      rf u .hbmsStat t 62 2 = 1 ∧ rf u .hbmsStat t 60 2 = rf s .hbmsStat t 60 2 + 1 ∧ rf u .hbmsQlvl t 48 16 = 0xFFFF) ∧
    (rf s .hbmsStat t 62 2 = 0 → Config.hbmSpares t ch ≤ tget 0 (stack s t).lanes ch → 2 ≤ rf s .hbmsStat t 60 2 →
      rf u .hbmsStat t 62 2 = 2)))

/-! ## Power, heat and the housekeeping round -/

/-- R330, R331, R333, R334 and R543: a closed feed outside its range opens with its cause and voltage, and is closed again once
it has been in range for 100 ms; a failed phase is noted; outside a device reset a bus that collapses switches every core course off and stops
the device with cause 4, unless a shutdown came first, and a failed cell is marked and shown in FAILED. That lost bay memory reads as zero is the model's
choice (assumption log 8). -/
def Obligations.PowerFaults : Prop :=
  (∀ (f : Fin 2) (v : BitVec 16) (s : State), feedClosed s f = true →
    (v.toNat < 4000 → ∃ t, exec (.feedUndervoltage f v) s = .next t ∧ feedState t f = 2 ∧ feedClosed t f = false ∧ rf t .pwrFeedf f 56 6 = 1 ∧
      rf t .pwrFeedf f 40 16 = v.toNat ∧ feedState t (1 - f) = feedState s (1 - f)) ∧
    (6000 < v.toNat → ∃ t, exec (.feedOvervoltage f v) s = .next t ∧ feedState t f = 2 ∧ feedClosed t f = false ∧ rf t .pwrFeedf f 56 6 = 2 ∧
      rf t .pwrFeedf f 40 16 = v.toNat ∧ feedState t (1 - f) = feedState s (1 - f))) ∧
  (∀ (f : Fin 2) (v : BitVec 16) (s : State), feedState s f = 2 →
    ((rf s .pwrFeedf f 56 6 = 1 ∧ 4200 < v.toNat) ∨
      (rf s .pwrFeedf f 56 6 = 2 ∧ 4000 ≤ v.toNat ∧ v.toNat ≤ 5800)) →
    (feedOf s f).openAt.toNat + 100000000 < 2 ^ 64 →
    ∃ t, exec (.feedReclose f v) s = .next t ∧ feedState t f = 1 ∧ feedClosed t f = true ∧ rf t .pwrFeedf f 40 16 = v.toNat ∧
      (feedOf s f).openAt.toNat + 100000000 ≤ (nowR t).toNat) ∧
  (∀ (ph : Fin 8) (s : State), s.power.phases.getLsbD ph = false →
    ∃ t, exec (.phaseFailure ph) s = .next t ∧ t.power.phases.getLsbD ph = true ∧
      (∀ k : Fin 8, k ≠ ph → t.power.phases.getLsbD k = s.power.phases.getLsbD k)) ∧
  (∀ (f : Nat) (s : State), feedClosed s f = true ↔ (feedOf s f).on = true) ∧
  (∀ (v : BitVec 16) (s : State), v.toNat < 5400 → s.boot.ridgeOn = true → s.boot.resetLow = false → s.stop.shut = none →
    ∃ t, exec (.busCollapse v) s = .next t ∧ t.stop.shut = some 4 ∧ t.rafters = [] ∧ (∀ a, isBay a = true → readByte t.mem a = 0) ∧
      rf t .pwrBus 0 48 16 = v.toNat ∧ (∀ q, q < 80 → rf t .pwrqVstat q 61 3 = 0) ∧
      t.flash.waiting.length = s.flash.waiting.length + 1) ∧
  (∀ (v : BitVec 16) (s : State), v.toNat < 5400 → s.boot.ridgeOn = true → s.boot.resetLow = false → s.stop.shut ≠ none →
    exec (.busCollapse v) s = .next (rfSet s .pwrBus 0 48 16 v.toNat)) ∧
  (∀ (c : Fin 516) (k : Fin 5) (q i : Nat) (s : State), k ≠ 0 → s.power.cells.getLsbD c = false → s.boot.ridgeOn = true → s.boot.resetLow = false →
    cellCourse c = (q, i) → ∃ t, exec (.cellFailure c k) s = .next t ∧ t.power.cells.getLsbD c = true ∧
      rbit t .pwrqVstat q (27 + i) = true)

/-- R339 to R347 and R360: the request at the head of the queue begins its staging at the floor, waits where a neighbour is at
peak, and begins stretched after 200 µs; a course at its dark count, or dark already, stays dark. The stages close one after another, and the course is LIVE once stage 7 has
closed and a monitor reports or all have failed; a course quiet for PWR_CTL.IDLE µs becomes idle. A tick takes the current averages and every loop acts: it leaves its set point between the floor and
its ceiling, which it approaches by at most 10 mV; a deferred course begins once its neighbours have left their peak. -/
def Obligations.CoursePower : Prop :=
  (∀ (q : Fin 81) (l : List Nat) (s u : State), s.power.staging = none → s.power.queue = q.val :: l →
    u = { s with power := { s.power with queue := l } } →
    (darkCount s q = true ∨ courseDark s q = true → exec (.powerOnRequest q) s = .next (railOff u q 4)) ∧
    (darkCount s q = false → courseDark s q = false → peakNear s q = true →
      ∃ t, exec (.powerOnRequest q) s = .next t ∧ rf t .pwrqVstat q 61 3 = 1 ∧
        t.power.staging = some { q := q, t0 := nowR s } ∧ t.power.queue = l) ∧
    (darkCount s q = false → courseDark s q = false → peakNear s q = false →
      ∃ t, exec (.powerOnRequest q) s = .next t ∧ rf t .pwrqVstat q 61 3 = 2 ∧ rf t .pwrqVstat q 58 3 = 0 ∧
        rf t .pwrqVstat q 48 10 = 550 ∧ rf t .pwrqVstat q 27 8 = rf s .pwrqVstat q 27 8 ∧ t.power.queue = l)) ∧
  (∀ (x : Staging) (s : State), s.power.staging = some x → x.q < 81 →
    (x.began = false → ∃ t, exec .deferTimeout s = .next t ∧ rf t .pwrqVstat x.q 61 3 = 2 ∧
      rbit t .pwrqVstat x.q 13 = true ∧ rf t .pwrqVstat x.q 48 10 = 550) ∧
    (x.began = true → rf s .pwrqVstat x.q 58 3 < 6 →
      ∃ t, exec .headerStageClose s = .next t ∧ rf t .pwrqVstat x.q 58 3 = rf s .pwrqVstat x.q 58 3 + 1 ∧
        t.power.staging = some { x with next := x.next + BitVec.ofNat 64 (if x.stretch then 8000 else 2000) }) ∧
    (x.began = true → rf s .pwrqVstat x.q 58 3 = 6 →
      ∃ t, exec .headerStageClose s = .next t ∧ rf t .pwrqVstat x.q 58 3 = 7 ∧ t.power.staging = none)) ∧
  (∀ (q : Fin 81) (s : State), rf s .pwrqVstat q 61 3 = 2 → rf s .pwrqVstat q 58 3 = 7 →
    (rf s .pwrqSlack q 0 4 ≠ 0 ∨ monsFailed s q = true) →
    exec (.courseLive q) s = .next (rfSet s .pwrqVstat q 61 3 3)) ∧
  (∀ (q : Fin 64) (k : Nat) (s : State), rf s .pwrCtl 0 8 8 ≠ 0 → rf s .pwrqVstat q 61 3 = 3 →
    bitOf (vstatView s q) 14 = false → quietSince s q = some k →
    exec (.courseIdle q) s = .next (rfSet (dueT s (k + 1000 * rf s .pwrCtl 0 8 8 + 64)) .pwrqVstat q 14 1 1)) ∧
  (∀ (pmod : Nat) (meas : List CourseMeas) (s u v w : State), s.boot.ridgeOn = true → s.boot.resetLow = false →
    u = dueT s ((s.time.dcnt.toNat / 1000 + 1) * 1000) →
    v = fastBudget (rfSet u .pwrBus 0 0 16 (min 65535 (max pmod (rf u .pwrBus 0 0 16)))) pmod →
    w = meas.foldl (fun t m => currentCeil (rfSet t .pwrqVstat m.q 16 11 (min 2047 m.i10)) m) v →
    exec (.voltageLoopTick pmod meas) s = .next (wakeDeferred ((idxs 81 (loopActs w)).foldl tickCourse w))) ∧
  (∀ s : State, (s.power.staging = none → wakeDeferred s = s) ∧
    (∀ x, s.power.staging = some x → wakeDeferred s =
      if x.began = false ∧ peakNear s x.q = false then beginStaging s x.q false else s)) ∧
  (∀ (q : Nat) (s : State), q < 81 →
    550 ≤ rf (tickCourse s q) .pwrqVstat q 48 10 ∧
    rf (tickCourse s q) .pwrqVstat q 48 10 ≤ max (ceilOf s q) (rf s .pwrqVstat q 48 10 - 10) ∧
    (railUp s q = true → fld (vstatView (tickCourse s q) q) 38 10 = ceilOf s q) ∧
    (∀ p, p < 81 → p ≠ q → rg (tickCourse s q) .pwrqVstat p = rg s .pwrqVstat p))

/-- R34, R353 to R359 and R362: the sequencer reads the channels in order, one each 2 µs, and waits where the way to them is taken over; HK_VAL takes the reading, a
channel that is silent says so, keeps what it held, and breaks its sensor; reserved channels read zero; a lap's end sets every course's
dwell length and starts the next lap. R364, R365, R441 and R544: the oldest waiting record enters BOOT_XWQ once that is empty, and is programmed from it at the next place
of the log, with the next SEQ, and the first of a sector has the sector after it erased; a sector reads 0xFF once
erased, and none goes into a sector whose erase is still to be made (R544); a sweep tests an idle rafter's slate, and a slate that passes stays enabled; one that fails is disabled, and with fewer than 4 left the rafter is retired. What an access has brought about (assumption log 70) is settled at a lap's end. -/
def Obligations.HousekeepingAndFaultLog : Prop :=
  ((∀ s : State, lapsRun s = true → s.heat.next < 1024 → eavesChan s.heat.next = true → flowWaits s .housekeeping = true →
    ∀ r, exec (.hkChannelRead r) s = .next s) ∧
  (∀ s : State, lapsRun s = true → s.heat.next < 1024 → (eavesChan s.heat.next = false ∨ flowWaits s .housekeeping = false) →
    (∀ (v : BitVec 32), ((324 ≤ s.heat.next ∧ s.heat.next < 328) ∨ (336 ≤ s.heat.next ∧ s.heat.next < 510) ∨
        512 ≤ s.heat.next) →
      ∃ t, exec (.hkChannelRead (.value v)) s = .next t ∧ rf t .hkValn s.heat.next 0 32 = v.toNat ∧
        rf t .hkValn s.heat.next 62 2 = 0 ∧ t.heat.next = s.heat.next + 1 ∧ t.heat.lap = s.heat.lap) ∧
    (∀ (r : HkReading), 510 ≤ s.heat.next → s.heat.next < 512 →
      ∃ t, exec (.hkChannelRead r) s = .next t ∧ rf t .hkValn s.heat.next 0 32 = 0 ∧ t.heat.next = s.heat.next + 1) ∧
    (∀ (v : BitVec 32), (s.heat.next < 324 ∨ (328 ≤ s.heat.next ∧ s.heat.next < 336)) →
      ∃ t, exec (.hkChannelRead (.value v)) s = .next t ∧ rf t .hkValn s.heat.next 0 32 = v.toNat ∧
        (sensor t s.heat.next).hist.head? = some (sext 16 v.toNat) ∧
        (sensor t s.heat.next).laps.head? = some s.heat.lap ∧ t.heat.next = s.heat.next + 1) ∧
    ((s.heat.next < 324 ∨ (328 ≤ s.heat.next ∧ s.heat.next < 336)) → (sensor s s.heat.next).broken = false →
      ∃ t, exec (.hkChannelRead .silent) s = .next t ∧ (sensor t s.heat.next).broken = true ∧
        rf t .hkValn s.heat.next 62 2 = 2 ∧ t.heat.next = s.heat.next + 1) ∧
    (((324 ≤ s.heat.next ∧ s.heat.next < 328) ∨ (336 ≤ s.heat.next ∧ s.heat.next < 510) ∨ 512 ≤ s.heat.next) →
      ∃ t, exec (.hkChannelRead .silent) s = .next t ∧ rf t .hkValn s.heat.next 62 2 = 2 ∧
        rf t .hkValn s.heat.next 0 62 = rf s .hkValn s.heat.next 0 62 ∧ t.heat.next = s.heat.next + 1)) ∧
  (∀ s : State, lapsRun s = true → 1024 ≤ s.heat.next →
    ∃ t, exec .housekeepingLapEnd s = .next (settle t) ∧ t.heat.next = 0 ∧ t.heat.lap = s.heat.lap + 1 ∧
      (∀ q, q < 64 → rf t .thmqStat q 22 10 = nextDwell (rf s .thmqStat q 22 10) (rbit s .thmqStat q 16))) ∧
  (∀ d h, d ≤ 1023 → nextDwell d h ≤ 1023 ∧ (h = true → 2 ≤ nextDwell d h) ∧ (h = false → nextDwell d h ≤ d / 2))) ∧
  ((∀ (f : FRec) (l : List FRec) (s v : State), s.flash.waiting = f :: l → v = feedLog s →
    ((v.flash.fed = false ∨ s.flash.erasing = some (s.flash.pos / 32)) → exec .faultRecordProgrammed s = .next v) ∧
    (v.flash.fed = true → s.flash.erasing ≠ some (s.flash.pos / 32) →
      ∃ t, exec .faultRecordProgrammed s = .next t ∧ t.flash.waiting = l ∧ t.flash.nextSeq = s.flash.nextSeq + 1 ∧
        t.flash.pos = (s.flash.pos + 1) % 512 ∧ t.flash.fed = false ∧
        ((recordOut v f).length = 128 → fbytes t (0x10000 + 128 * s.flash.pos) 128 = recordOut v f) ∧
        (s.flash.pos % 32 = 0 → t.flash.erasing = some ((s.flash.pos / 32 + 1) % 16)) ∧
        (∀ a, (a < 0x10000 + 128 * s.flash.pos ∨ 0x10000 + 128 * s.flash.pos + 128 ≤ a) → fbyte t a = fbyte s a) ∧
        ((1 ≤ f.cause ∧ f.cause ≤ 3) → halted t = true) ∧ (3 < f.cause → t.regs = s.regs)) ∧
    (s.flash.fed = false → (queue s 59).words = [] → (queue s 59).part = [] →
      v.flash.fed = true ∧ recordOut v f = recordBytes s f ∧ (queue v 59).words.length = 16)) ∧
  (∀ (k : Nat) (s : State), s.flash.erasing = some k → 3 ≤ bootStep s →
    ∃ t, exec .sectorEraseDone s = .next t ∧ t = { s with flash := t.flash } ∧ t.flash.erasing = none ∧
      (∀ i, i < 4096 → fbyte t (0x10000 + 4096 * k + i) = 0xFF) ∧
      (∀ a, (a < 0x10000 + 4096 * k ∨ 0x10000 + 4096 * k + 4096 ≤ a) → fbyte t a = fbyte s a)) ∧
  (∀ (n : Fin 256) (k : Fin 8) (s : State), stopped s = false → (raf s n).st = .idle → (raf s n).sweep = none →
    (enPhys s n).contains k.val = true →
    ∃ t, exec (.slateSweepStart n k) s = .next t ∧ t = { s with rafters := t.rafters, work := t.work, time := t.time } ∧
      raf t n = { raf s n with sweep := some k.val } ∧ (∀ m, m ≠ n.val → raf t m = raf s m)) ∧
  (∀ (n : Fin 256) (k : Fin 8) (s : State), (raf s n).st = .idle → (raf s n).sweep = some k.val →
    ∃ t, exec (.slateSweepEnd n k true) s = .next t ∧ t = { s with rafters := t.rafters, work := t.work, free := s.free + 2048 } ∧
      (raf t n).sweep = none ∧ (raf t n).slateEn = (raf s n).slateEn ∧ (raf t n).store = (raf s n).store ∧
      (∀ m, m ≠ n.val → raf t m = raf s m)) ∧
  (∀ (n : Fin 256) (k : Fin 8) (s : State), (raf s n).st = .idle → (raf s n).sweep = some k.val →
    ∃ t, exec (.slateSweepEnd n k false) s = .next (if (enPhys t n).length < 4 then retireRafter t n 4 else t) ∧
      (raf t n).sweep = none ∧ (raf t n).slateEn = (raf s n).slateEn &&& ~~~(1#8 <<< k.val) ∧
      (∀ m, m ≠ n.val → raf t m = raf s m)))

/-! ## Urgen links and the host port -/

/-- R389 to R393 and R403: a port goes from DETECT through LEVEL, EQ, ALIGN and QUAL to UP, at the lower of its own and its
partner's highest level, one step after another; a step that passes its bound takes it back, the eighth time to HELD; a
port in RETRAIN returns to UP, where it waits for its partner's ACKSEQ to resend from (R386), or goes back to DETECT; the loss of lock starts RETRAIN, or gives the link
up. Which lanes' pairs are swapped, and corrected in DETECT, is the cabling's: a free value (assumption log 91). -/
def Obligations.LinkTraining : Prop :=
  ∀ (p : Fin 13) (s : State), portActs s p = true →
    (portState s p = 1 → ∃ t, exec (.detect p) s = .next t ∧ portState t p = 2 ∧
      (port t p).polarity = (Config.free s.free).setWidth 8 ∧
      (∀ q, q < 13 → q ≠ p.val → portState t q = portState s q ∧ port t q = port s q)) ∧
    (∀ (g : Fin 8) (m : Fin 4) (dev : BitVec 16) (pp : Fin 13), portState s p = 2 →
      ∃ t, exec (.level p g m dev pp) s = .next t ∧ portState t p = 3 ∧
        portLevel t p = max 1 (min (rf s .lnkpCtl p 61 2) m.val) ∧ rf t .lnkpStat p 32 16 = dev.toNat ∧
        rf t .lnkpStat p 51 4 = pp.val ∧ rf t .lnkpStat p 0 8 = lanesOf (portLevel t p)) ∧
    (portState s p = 3 → ∃ t, exec (.eq p) s = .next t ∧ portState t p = 4 ∧ (port t p).saved = some (trained s p)) ∧
    (portState s p = 4 → ∃ t, exec (.align p) s = .next t ∧ portState t p = 5 ∧ (∀ l i, laneCount t p l i = 0)) ∧
    (∀ u, portState s p = 5 → u = dueR s ((port s p).stepAt.toNat + qualTime s (portLevel s p)) →
      ((∀ l, l < 8 → (rf s .lnkpStat p 0 8).testBit l = true → laneGood s p l = true) →
        ∃ t, exec (.qual p) s = .next t ∧ portUp t p = true ∧ (port t p).seq = 0 ∧ (port t p).expect = 0 ∧
          (port t p).replay = [] ∧ rf t .lnkpStat p 8 8 = 0 ∧
          (rbit t .lnkpRxqCtl p 25 = decide (portLevel s p < 3))) ∧
      (∀ l, l < 8 → (rf s .lnkpStat p 0 8).testBit l = true → laneGood s p l = false →
        ∃ t, exec (.qual p) s = .next t ∧ portState t p = 8)) ∧
    (∀ u, u = dueR s ((port s p).stepAt.toNat + stepBound s p) →
      (portState s p = 2 ∨ portState s p = 3 ∨ portState s p = 4 →
        ∃ t, exec (.trainingTimeout p) s = .next t ∧ rf t .lnkpStat p 8 8 = min 255 (rf s .lnkpStat p 8 8 + 1) ∧
          portState t p = (if rf s .lnkpStat p 8 8 < 7 then 1 else 8)) ∧
      (portState s p = 7 → ∃ t, exec (.trainingTimeout p) s = .next t ∧ portState t p = 1 ∧ nowR t = nowR u)) ∧
    (portState s p = 7 →
      (∃ t, exec (.retrainDone p true) s = .next t ∧ portUp t p = true ∧ (port t p).await = true ∧ (port t p).resend = [] ∧
        (port t p).replay = (port s p).replay) ∧
      (∃ t, exec (.retrainDone p false) s = .next t ∧ portState t p = 1 ∧ (port t p).replay = [])) ∧
    (portState s p = 6 ∨ portState s p = 7 →
      ∃ t, exec (.linkLockLoss p) s = .next t ∧ portState t p = 1 ∧ portLevel t p = 0 ∧ (port t p).replay = []) ∧
    (∀ lane : Fin 8, portState s p = 6 → (rf s .lnkpStat p 0 8).testBit lane.val = true →
      ∃ t, exec (.codewordLockLoss p lane) s = .next t ∧ portState t p = 7 ∧ (port t p).replay = (port s p).replay ∧
        (port t p).lockLost.getLsbD lane = true)

/-- R380, R381, R385, R393, R456 to R458 and R480: a NAK has the buffered flits resent from the one it names, and one that
names none starts RETRAIN; the receiver repeats its NAK; NOT_READY with a hint pauses a port, and the pause ends; a
departure record closes the ends of its device and is noticed once; TXEQ moves one tap of a lane, at most once every 10 µs; a failed device sends its
record four times, after which its fabric ports are idle. -/
def Obligations.ControlFlits : Prop :=
  (∀ (p : Fin 13) (s : State), portUp s p = true → portActs s p = true →
    (∀ (e : BitVec 16), ((port s p).replay.any fun f => decide (f.seq = e)) = true → (port s p).replayAt = none →
      ∃ t, exec (.nak p false e) s = .next t ∧ portUp t p = true ∧
        (port t p).resend = (port s p).replay.dropWhile (fun f => decide (f.seq ≠ e)) ∧
        (port t p).replay = (port s p).replay ∧
        rf t .lnkpErr p 32 16 = min 65535 (rf s .lnkpErr p 32 16 + 1)) ∧
    (∀ (b : Bool) (e : BitVec 16), ((port s p).replay.any fun f => decide (f.seq = e)) = false →
      exec (.nak p b e) s = .next (portRetrain s p 1)) ∧
    (∀ (b : Bool), (port s p).nakFor = some ((port s p).expect, b) →
      ∃ t, exec (.nakRepeat p) s = .next t ∧ (port t p).out.length = (port s p).out.length + 1 ∧
        (port t p).nakFor = (port s p).nakFor) ∧
    (∀ (arg : BitVec 32), portLevel s p = 1 ∨ tapReady s (port s p).eqAt (arg.toNat / 256 % 8) = false →
      exec (.txeq p arg) s = .next s) ∧
    (∀ (arg : BitVec 32) (k : Nat), portLevel s p ≠ 1 → tapReady s (port s p).eqAt (arg.toNat / 256 % 8) = true → k = 16 * (arg.toNat / 256 % 8) + arg.toNat / 16 % 16 →
      ∃ t, exec (.txeq p arg) s = .next t ∧ t = { s with ports := t.ports } ∧
        (arg.toNat % 4 = 1 → tget 0 (port t p).taps k = tget 0 (port s p).taps k + 1) ∧
        (arg.toNat % 4 = 2 → tget 0 (port t p).taps k = tget 0 (port s p).taps k - 1) ∧
        (∀ j, j ≠ k → tget 0 (port t p).taps j = tget 0 (port s p).taps j)) ∧
    (stopped s = false →
      exec (.notReady p 0) s = .next s ∧
      (∀ us : BitVec 32, us ≠ 0 → ∃ t, exec (.notReady p us) s = .next t ∧ t = { s with ports := t.ports, vly := t.vly } ∧
        (port t p).pause = some (nowR s + BitVec.ofNat 64 (1000 * us.toNat))) ∧
      (∀ w1 w2 w3 : Word, s.vly.departed.contains (fld w1 48 16) = true → exec (.depart p w1 w2 w3) s = .next s) ∧
      (∀ w1 w2 w3 : Word, s.vly.departed.contains (fld w1 48 16) = false →
        ∃ t, exec (.depart p w1 w2 w3) s = .next t ∧ t.vly.departed = s.vly.departed ++ [fld w1 48 16]))) ∧
  (∀ (p : Fin 13) (w : Word) (s : State), stopped s = false → (port s p).pause = some w → s.vly.heldCtl = [] →
    ∃ t, exec (.portPauseEnd p) s = .next t ∧ t = { s with ports := t.ports, time := t.time, vly := t.vly } ∧
      (port t p).pause = none ∧ w.toNat ≤ (nowR t).toNat) ∧
  (∀ s : State, s.stop.failStop.isSome = true → s.stop.shut = none → s.stop.departs < 3 →
    ∃ t, exec .departRepeat s = .next t ∧ t.stop = { s.stop with departs := s.stop.departs + 1, sentAt := nowR t } ∧
      (s.stop.sentAt.toNat + 1000 < 2 ^ 64 → s.stop.sentAt.toNat + 1000 ≤ (nowR t).toNat)) ∧
  (∀ s : State, s.stop.failStop.isSome = true → s.stop.shut = none → s.stop.departs = 3 →
    ∃ t, exec .departRepeat s = .next t ∧ t.stop = { s.stop with departs := 4, sentAt := nowR t } ∧
      (∀ p, p < 12 → portState t p = 0))

/-- R373 to R383, R386, R394, R400 and R479: a flit being
resent is sent as it was; else the flit at the head of the transmit queue, if its parity holds, takes the next SEQ and is kept until it is acknowledged; a port that may send none sends an IDLE frame or a TXEQ flit (assumption log 50). A frame is accepted
where its codeword set is whole, its CRC fits and it is expected; one that is not is answered with a NAK and
counted; its ACKSEQ frees what it acknowledges, and after a RETRAIN lets the rest be resent; ports that train only count codewords. The frames of a codeword set
are dealt to the lanes symbol by symbol, one codeword of 514 symbols and 30 of parity on each; the code's field, generator and order of bits are those of IEEE
802.3 (assumption log 88). -/
def Obligations.FlitsOnPorts : Prop :=
  ((∀ (p : Fin 13) (s : State), portUp s p = true → portActs s p = true →
    ((port s p).stopped = true ∨ (port s p).await = true → exec (.flitTransmit p) s = .next (sendIdle s p)) ∧
    ((port s p).stopped = false → (port s p).await = false →
      (∀ f l, (port s p).resend = f :: l →
        ∃ t, exec (.flitTransmit p) s = .next t ∧ (port t p).resend = l ∧ (port t p).replay = (port s p).replay ∧
          (port t p).seq = (port s p).seq ∧ (port t p).out.length = (port s p).out.length + 1) ∧
      (∀ u, u = fillHost s p → (port s p).resend = [] →
        (txHead u p = none ∨ 256 ≤ (port s p).replay.length → exec (.flitTransmit p) s = .next (sendIdle u p)) ∧
        (∀ f, txHead u p = some f → (port s p).replay.length < 256 →
          exec (.flitTransmit p) s = .next (sendHead u p f))))) ∧
  (∀ (p : Nat) (f : List QWord) (s u : State),
    (((f.take 31).all fun w => decide (w.parity = xorBits w.w)) = true →
      u = setQueue s (13 + p) (qTake (queue s (13 + p)) (nowR s) 32) →
      sendHead s p f = drainLandings (fillTx (sendNew (setPort u p { port u p with
        txFails := 0, txq := (port u p).txq.drop 1 }) p (plain f)) p)) ∧
    (((f.take 31).all fun w => decide (w.parity = xorBits w.w)) = false → sendHead s p f = txRefusal s p)) ∧
  (∀ (p : Nat) (ws : List Word) (s t : State), t = sendNew s p ws →
    (port t p).seq = (port s p).seq + 1 ∧ (port t p).out.length = (port s p).out.length + 1 ∧
    (port t p).replay = (port s p).replay ++ [{ seq := (port s p).seq, at_ := nowR s, ws := ws }] ∧
    (∀ q, q ≠ p → port t q = port s q)) ∧
  (∀ (p : Nat) (s t : State), t = sendIdle s p → (port t p).seq = (port s p).seq ∧ (port t p).replay = (port s p).replay ∧
    (port t p).out.length = (port s p).out.length + 1 ∧ t.queues = s.queues ∧ (∀ q, q ≠ p → port t q = port s q)) ∧
  (∀ (p : Nat) (f : List QWord) (l : List (List QWord)) (s t : State), (port s p).txq = f :: l → t = txRefusal s p →
    (queue t (13 + p)).words = f ++ (queue s (13 + p)).words.drop 32 ∧
    (t.stop.failStop ≠ s.stop.failStop → 15 ≤ (port s p).txFails) ∧
    (15 ≤ (port s p).txFails → stopped s = false → t.stop.failStop = some 6))) ∧
  ((∀ (p : Fin 13) (f : Frame) (s u : State), f.words.length = 32 → portActs s p = true → frameFits s p f = true →
    u = inSet (countLanes s p f.lanes) p f →
    (portState s p = 5 ∨ portState s p = 7 → exec (.frameReceived p f) s = .next u) ∧
    (portUp s p = true → ∀ w, w = (if (port u p).setBad = false ∧ f.tag.toNat / 64 ≠ 3 ∧
          fld (nth f.words 31 0) 32 32 = frameCrc f.words f.tag then goodFrame u p f
        else sendNak (countG (rfSat u .lnkpErr p 48 16 1) 0x203 p 1) p false) →
      exec (.frameReceived p f) s = .next (if (portUp w p && lanesBad w p) = true then portRetrain w p 1 else w))) ∧
  (∀ (p : Nat) (f : Frame) (s t : State), t = inSet s p f → t = { s with ports := t.ports } ∧
    (port t p).setPos = ((port s p).setPos + 1) % setFrames s p ∧
    (port t p).setBad = (if (port s p).setPos = 0 then f.lanes.any (fun l => decide (16 ≤ l.2.2)) else (port s p).setBad)) ∧
  (∀ (p : Nat) (f : Frame) (s u v : State), u = resumeReplay (takeAck s p (BitVec.ofNat 16 (fld (nth f.words 31 0) 0 16))) p →
    v = setPort u p { port u p with stopped := f.tag.getLsbD 5 } →
    (fld (nth f.words 31 0) 16 16 ≠ (port v p).expect.toNat → goodFrame s p f = sendNak v p false) ∧
    (fld (nth f.words 31 0) 16 16 = (port v p).expect.toNat →
      (f.tag.toNat / 64 = 2 → goodFrame s p f = takeCtrl v p f.words) ∧
      (f.tag.toNat / 64 = 0 → goodFrame s p f = v) ∧
      (f.tag.toNat / 64 ≠ 0 → f.tag.toNat / 64 ≠ 2 →
        (512 ≤ (port v p).landing.length → goodFrame s p f = sendNak (countG v 0x203 p 1) p true) ∧
        ((port v p).landing.length < 512 → goodFrame s p f = acceptFlit v p f.words)))) ∧
  (∀ (p : Nat) (busy : Bool) (s t : State), t = sendNak s p busy → (port t p).expect = (port s p).expect ∧
    (∃ b, (port t p).nakFor = some ((port s p).expect, b)) ∧
    ((port s p).nakFor.map Prod.fst = some (port s p).expect → t = s) ∧
    ((port s p).nakFor.map Prod.fst ≠ some (port s p).expect →
      (port t p).out.length = (port s p).out.length + 1 ∧ (port t p).nakFor = some ((port s p).expect, busy))) ∧
  (∀ (p k : Nat) (f : RFlit) (l : List RFlit) (a : BitVec 16) (s : State), (port s p).replay = f :: l →
    k = (a - f.seq).toNat →
    (0 < k → k ≤ l.length + 1 → (port (takeAck s p a) p).replay = (f :: l).drop k) ∧
    (k = 0 ∨ l.length + 1 < k → takeAck s p a = s)) ∧
  (∀ (p : Nat) (s : State), ((port s p).await = false → resumeReplay s p = s) ∧
    ((port s p).await = true → (port (resumeReplay s p) p).await = false ∧
      (port (resumeReplay s p) p).resend = (port s p).replay ∧ (port (resumeReplay s p) p).replay = (port s p).replay))) ∧
  (∀ (fs : List (List Word × Byte)) (n l : Nat), l < n → (codewordSet fs n).length = n ∧
    (nth (codewordSet fs n) l []).length = 544 ∧
    (∀ i, i < 514 → nth (nth (codewordSet fs n) l []) i 0 = symAt (bytesNat (fs.flatMap frameBytes)) (n * i + l)) ∧
    (nth (codewordSet fs n) l []).drop 514 = rsParity ((nth (codewordSet fs n) l []).take 514))

/-- R398 to R400 and R456: a host read is answered with the register's value, after a fail stop too; a host write is
carried out in order; the data of a read of host memory completes the command, or the piece of a fetch, that it was for, and every fetch goes on as far as
fewer than 4,096 reads are outstanding; that a fetch is cut into pieces of any size is the model's choice (assumption log 69); one that is not answered
within 1 ms is abandoned with a notice, and retried after a further 1 ms. -/
def Obligations.HostTransactions : Prop :=
  (∀ (tag : BitVec 12) (a : BitVec 40) (v : Word) (s t : State), portUp s 12 = true → portActs s 12 = true →
    regRead8 s .host a.toNat = (t, v) →
    exec (.rrd tag a) s = .next (hostSend { t with rdata := v } (.rcpl tag a v))) ∧
  (∀ (a : BitVec 40) (v : Word) (s : State), portUp s 12 = true → stopped s = false →
    exec (.rwr a v) s = .next (writeBy s .host a.toNat 8 v)) ∧
  (∀ (tag : BitVec 12) (m : Mrd) (bs : List Byte) (s : State), portUp s 12 = true → stopped s = false →
    bs.length ≤ 4096 → s.host.mrds.find? (fun m => decide (m.tag = tag) && m.dead.isNone) = some m →
    (m.len ≤ m.got.length + bs.length → exec (.mcpl tag bs true) s = .next (mrdDone { s with host := { s.host with
      mrds := s.host.mrds.filter (fun x => decide (x ≠ m)) } } m ((m.got ++ bs).take m.len))) ∧
    (m.got.length + bs.length < m.len →
      ∃ t, exec (.mcpl tag bs false) s = .next t ∧ t = { s with host := t.host } ∧
        t.host = { s.host with mrds := t.host.mrds } ∧
        t.host.mrds = mapIf (fun x => decide (x = m)) (fun x => { x with got := m.got ++ bs }) s.host.mrds)) ∧
  (∀ (m : Mrd) (bs : List Byte) (s t : State), t = mrdDone s m bs →
    (∀ r, m.use = .cmd r → ∃ u, t = pumpAll u ∧ u = { s with host := u.host, regs := u.regs } ∧
      u.host = { s.host with arrived := s.host.arrived ++ [(r, entryOf bs)] } ∧
      rf u .sesrChead r 0 16 = (rf s .sesrChead r 0 16 + 1) % 2 ^ rf s .sesrRctl r 58 5 % 65536) ∧
    (∀ k off, m.use = .data k off → (fetchFor s k = none → t = pumpAll s) ∧
      (∀ x y, fetchFor s k = some x → y = { x with parts := x.parts ++ [(off, bs)] } →
        t = pumpAll (setFetch s k (some (if k = 16 then { y with len := imageLen y } else y)))))) ∧
  (∀ s : State, pumpAll s = (s.host.fetches.map Prod.fst).foldl (fun t k => pumpFetch t k 4096) s ∧
    pumpAll s = { s with host := (pumpAll s).host } ∧ (pumpAll s).host.arrived = s.host.arrived) ∧
  (∀ (tag : BitVec 12) (m : Mrd) (s u : State), stopped s = false →
    s.host.mrds.find? (fun m => decide (m.tag = tag) && m.dead.isNone) = some m →
    u = dueR s (m.at_.toNat + 1000000) →
    exec (.mrdTimeout tag) s = .next (raiseR { u with host := { u.host with
      mrds := mapIf (fun x => decide (x = m)) (fun x => { x with dead := some (nowR u), got := [] }) u.host.mrds } }
        0x0051 (srcOf 5 12) m.addr)) ∧
  (∀ (tag : BitVec 12) (m : Mrd) (d : Word) (s u : State), stopped s = false → m.dead = some d →
    s.host.mrds.find? (fun m => decide (m.tag = tag) && m.dead.isSome) = some m → u = dueR s (d.toNat + 1000000) →
    exec (.mrdRetry tag) s = .next (issueMrd { u with host := { u.host with
      mrds := u.host.mrds.filter (fun x => decide (x ≠ m)) } } m.addr.toNat m.len m.use))

/-! ## Valleys -/

/-- R414, R415, R420 to R423 and R426: a control packet under another generation is dropped and counted; CONNECT and
CONNACK make a matching end LIVE with the partner's handle, level and ring, a repeated CONNECT is answered again, and one that matches no end is refused; an end that is not joined in time closes;
CREDIT acknowledges every packet before the one it names and grants units, DONE acknowledges one, GAP has the packets
from the one it names sent again, REFUSE acknowledges the packet it names, which is not sent again; CLOSE closes an end with cause 2, but not a FROZEN one, and REFUSE a joining one with cause 4; the receiver returns CREDIT 2 µs
after a freeing; an end with no progress for RTO sends again, and closes with cause 5 at the end. No packet carries the partner's
CONS, which is a free value (assumption log 84). -/
def Obligations.ValleyControl : Prop :=
  (∀ (c : VCtl) (s : State), stopped s = false → liveEnd s c.vidx c.dgen = none →
    ∀ i ∈ [Instr.connack c, .credit c, .done c, .gap c, .close c, .refuse c],
      exec i s = .next (rfSat s .vlyStat 0 17 17 1)) ∧
  (∀ (c : VCtl) (s : State), stopped s = false → joinOk (vend s c.vidx) c = true →
    ((vend s c.vidx).st = .listen →
      ∃ t, exec (.connect c) s = .next t ∧ (vend t c.vidx).st = .live ∧
        (vend t c.vidx).ph.toNat = fld c.w2 32 32 ∧ (vend t c.vidx).granted = fld c.w3 0 32 ∧
        (vend t c.vidx).minlvl = max 1 c.minlvl.toNat ∧ (∀ j, j ≠ c.vidx.val → vend t j = vend s j)) ∧
    ((vend s c.vidx).st = .connecting → (vend s c.vidx).ph.toNat = fld c.w2 32 32 →
      ∃ t, exec (.connect c) s = .next t ∧ (vend t c.vidx).st = .live ∧ (vend t c.vidx).granted = fld c.w3 0 32) ∧
    ((vend s c.vidx).st = .live → (vend s c.vidx).ph.toNat = fld c.w2 32 32 →
      exec (.connect c) s = .next (sendJoin (sawHops s c.vidx c.hops) c.vidx 0x02 (vend s c.vidx).minlvl))) ∧
  (∀ (c : VCtl) (s : State), stopped s = false →
    ((vend s c.vidx).st = .closed → (vend s c.vidx).vgen = c.dgen → exec (.connect c) s = .next s) ∧
    (joinOk (vend s c.vidx) c = false → ((vend s c.vidx).st ≠ .closed ∨ (vend s c.vidx).vgen ≠ c.dgen) →
      exec (.connect c) s = .next (sendCtl s c.srcdev.toNat (fld c.w2 32 32 % 65536) 0x07 (fld c.w2 32 32 / 65536) 0
        (mkWord [(24, 8, 4)]) 0))) ∧
  (∀ (c : VCtl) (e : VEnd) (s : State), stopped s = false → e = vend s c.vidx → liveEnd s c.vidx c.dgen = some e →
    (e.st = .connecting → e.ph.toNat = fld c.w2 32 32 → e.pdev = c.srcdev →
      ∃ t, exec (.connack c) s = .next t ∧ t = { s with vly := t.vly, free := s.free + 1 } ∧ (vend t c.vidx).st = .live ∧
        (vend t c.vidx).pcons.toNat = fld (Config.free s.free) 0 2 ∧ (vend t c.vidx).granted = fld c.w3 0 32 ∧ (∀ j, j ≠ c.vidx.val → vend t j = vend s j)) ∧
    (joined e = true → effLevel e = 3 → ∀ d, d < 2 ^ 31 → fld c.w2 0 32 + e.pring = e.granted + d →
      ∃ t, exec (.credit c) s = .next t ∧ t = { s with vly := t.vly } ∧ (vend t c.vidx).granted = e.granted + d ∧
        (vend t c.vidx).sends = e.sends.filter (fun k => !decide
          ((BitVec.ofNat 32 (fld c.w2 32 32) - k.pseq).toNat < 2 ^ 31 ∧ BitVec.ofNat 32 (fld c.w2 32 32) ≠ k.pseq)) ∧
        (∀ j, j ≠ c.vidx.val → vend t j = vend s j)) ∧
    (joined e = true → effLevel e = 3 → 2 ^ 31 ≤ (fld c.w2 0 32 + e.pring + 2 ^ 32 - e.granted % 2 ^ 32) % 2 ^ 32 →
      ∃ t, exec (.credit c) s = .next t ∧ (vend t c.vidx).granted = e.granted) ∧
    (joined e = true → ∃ t, exec (.done c) s = .next t ∧ t = { s with vly := t.vly } ∧
      (vend t c.vidx).sends = e.sends.filter (fun k => decide (k.pseq ≠ BitVec.ofNat 32 (fld c.w2 32 32))) ∧
      (∀ j, j ≠ c.vidx.val → vend t j = vend s j)) ∧
    (joined e = true → ∃ t, exec (.gap c) s = .next t ∧ t = { s with vly := t.vly } ∧
      (vend t c.vidx).resends = e.resends + 1 ∧ (vend t c.vidx).sends.length = e.sends.length ∧
      (∀ k ∈ (vend t c.vidx).sends, (k.pseq - BitVec.ofNat 32 (fld c.w2 32 32)).toNat < 2 ^ 31 → k.sent = none) ∧
      (∀ j, j ≠ c.vidx.val → vend t j = vend s j)) ∧
    (e.st = .live ∨ e.st = .connecting ∨ e.st = .listen → ∃ t, exec (.close c) s = .next t ∧
      (vend t c.vidx).st = .closed ∧ (vend t c.vidx).cause = 2) ∧
    (e.st = .frozen ∨ e.st = .closed → exec (.close c) s = .next (sawHops s c.vidx c.hops)) ∧
    (e.st = .connecting ∨ e.st = .listen → ∃ t, exec (.refuse c) s = .next t ∧
      (vend t c.vidx).st = .closed ∧ (vend t c.vidx).cause = 4) ∧
    (∀ u x, joined e = true → u = sawHops s c.vidx c.hops → x = vend u c.vidx →
      (e.sends.find? (fun k => decide (k.pseq = BitVec.ofNat 32 (fld c.w2 32 32))) = none → exec (.refuse c) s = .next u) ∧
      (∀ k, e.sends.find? (fun k => decide (k.pseq = BitVec.ofNat 32 (fld c.w2 32 32))) = some k → exec (.refuse c) s =
        .next (pruneSums (refusedSend (setVend u c.vidx (ackOne x (BitVec.ofNat 32 (fld c.w2 32 32)) (nowR u))) c.vidx k)
          c.vidx)))) ∧
  (∀ (v : Fin 65536) (e : VEnd) (s : State), stopped s = false → e = vend s v →
    (e.st = .connecting → destPaused s e.pdev.toNat = false →
      ∃ t, exec (.connectRepeat v) s = .next t ∧ vend t v = { e with lastCon := nowR t } ∧
        (∀ j, j ≠ v.val → vend t j = vend s j)) ∧
    (e.st = .connecting ∨ e.st = .listen → ∃ t, exec (.joinTimeout v) s = .next t ∧
      (vend t v).st = .closed ∧ (vend t v).cause = 3) ∧
    (∀ w, e.freedAt = some w → e.st = .live → effLevel e = 3 → creditHeld s v = false →
      ∃ t, exec (.creditTimer v) s = .next t ∧ vend t v = { e with freed := 0, freedAt := none } ∧
        (∀ j, j ≠ v.val → vend t j = vend s j)) ∧
    (∀ k, e.sends.find? (fun k => k.sent.isSome) = some k → e.st = .live → destPaused s e.pdev.toNat = false →
      (e.resends < 8 → ∃ t, exec (.valleyRto v) s = .next t ∧ t = { s with vly := t.vly, time := t.time } ∧
        (vend t v).resends = e.resends + 1 ∧ (vend t v).progAt = nowR t ∧
        (∀ j, j ≠ v.val → vend t j = vend s j)) ∧
      (8 ≤ e.resends → ∃ t, exec (.valleyRto v) s = .next t ∧ (vend t v).st = .closed ∧ (vend t v).cause = 5)))

/-- R416 to R422, R434, R446 and R480: packets are sent in order where their units are granted, with the data read from its source, a reduction's with its sum; they wait while the valley's flow is taken over, its ports are paused or their source cannot be read (R145, R302); a
data packet under another generation is dropped and counted; one ahead of the expected PSEQ is answered with GAP once;
one that a FROZEN end gets is refused and passed over, and one of another kind than its end freezes it (its cause is open); the expected one is taken: STREAM into the ring behind a 64-byte
header, if there is room, PUT into the window, GET answered with the window's bytes once they can be read, a contribution to the engine; PUT and GET outside the window freeze the end with cause 8. -/
def Obligations.ValleyData : Prop :=
  (∀ (v : Fin 65536) (k : VSend) (s t : State) (bs : List Byte) (bad : Option Nat), (vend s v).st = .live → stopped s = false →
    srcBytes s k.src = (t, bs, bad) →
    (flowWaits s (.valley v) = true → exec (.valleyPacketSend v) s = .next s) ∧
    (flowWaits s (.valley v) = false → sendHalted s k = false →
      (nextPart s v = some k → (∀ u, srcHeld s k.src = some u → exec (.valleyPacketSend v) s = .next u) ∧
        (srcHeld s k.src = none → exec (.valleyPacketSend v) s =
          .next (match bad with | none => addPart t v k.pseq 65536 k.rfmt bs | some a => sendBad t v k a))) ∧
      (nextPart s v = none → (vend s v).sends.find? (fun k => k.sent.isNone) = some k → maySend (vend s v) k = true →
        (destPaused s (vend s v).pdev.toNat = true → exec (.valleyPacketSend v) s = .next s) ∧
        (destPaused s (vend s v).pdev.toNat = false →
          (sumsOut (vend s v) = false → (∀ u, srcHeld s k.src = some u → exec (.valleyPacketSend v) s = .next u) ∧
            (srcHeld s k.src = none → exec (.valleyPacketSend v) s =
              .next (match bad with | none => sendOne t v k bs | some a => sendBad t v k a))) ∧
          (∀ m, sumsOut (vend s v) = true → sumOf s v k.pseq = some m →
            exec (.valleyPacketSend v) s = .next (sendOne s v k (elemsBytes m.rfmt m.elems))))))) ∧
  (∀ (p : VPkt) (s : State), stopped s = false → ∀ x ∈ [(Instr.streamPacket p, pktIs 0 none p), (.put p, pktIs 1 (some 0) p),
      (.get p, pktIs 1 (some 1) p && !windowWaits s p), (.getdata p, pktIs 1 (some 2) p), (.reducePacket p, pktIs 2 none p)], x.2 = true →
    exec x.1 s = .next (takeData s p) ∧
    ∀ e d, e = vend s p.vidx → d = (p.pseq - e.nextRx).toNat → liveEnd s p.vidx p.dgen = some e →
      (joined e = false ∨ 2 ^ 31 ≤ d ∨ (d ≠ 0 ∧ e.gapFor = some e.nextRx) → takeData s p = sawHops s p.vidx p.hops) ∧
      (e.st = .live → d = 0 → (p.vop ≠ e.kind ∨ (e.kind = 2 ∧ e.dir = false)) →
        (vend (takeData s p) p.vidx).st = .frozen ∧ (vend (takeData s p) p.vidx).cause = fld (Config.free s.free) 0 5 ∧
        (vend (takeData s p) p.vidx).nextRx = e.nextRx + 1)) ∧
  (∀ (p : VPkt) (s : State), stopped s = false → liveEnd s p.vidx p.dgen = none →
    (pktIs 0 none p = true → exec (.streamPacket p) s = .next (rfSat s .vlyStat 0 17 17 1)) ∧
    (pktIs 1 (some 0) p = true → exec (.put p) s = .next (rfSat s .vlyStat 0 17 17 1)) ∧
    (pktIs 1 (some 1) p = true → exec (.get p) s = .next (rfSat s .vlyStat 0 17 17 1)) ∧
    (pktIs 1 (some 2) p = true → exec (.getdata p) s = .next (rfSat s .vlyStat 0 17 17 1)) ∧
    (pktIs 2 none p = true → exec (.reducePacket p) s = .next (rfSat s .vlyStat 0 17 17 1))) ∧
  (∀ (p : VPkt) (e : VEnd) (s : State), stopped s = false → e = vend s p.vidx → liveEnd s p.vidx p.dgen = some e →
    pktIs 0 none p = true →
    (e.st = .live → 0 < (p.pseq - e.nextRx).toNat → (p.pseq - e.nextRx).toNat < 2 ^ 31 → e.gapFor ≠ some e.nextRx →
      ∃ t, exec (.streamPacket p) s = .next t ∧ (vend t p.vidx).nextRx = e.nextRx ∧
        (vend t p.vidx).gapFor = some e.nextRx ∧ (vend t p.vidx).ring = e.ring ∧
        (∀ j, j ≠ p.vidx.val → vend t j = vend s j)) ∧
    (e.st = .frozen → p.pseq = e.nextRx →
      ∃ t, exec (.streamPacket p) s = .next t ∧ (vend t p.vidx).st = .frozen ∧
        (vend t p.vidx).nextRx = e.nextRx + 1 ∧ (vend t p.vidx).ring = e.ring ∧
        (∀ j, j ≠ p.vidx.val → vend t j = vend s j)) ∧
    (e.st = .live → p.pseq = e.nextRx → e.kind = 0 → (e.ring.map (·.units)).sum + ringUnits p.data.length ≤ ringSize e →
      ∃ t, exec (.streamPacket p) s = .next t ∧ (vend t p.vidx).nextRx = e.nextRx + 1 ∧
        (vend t p.vidx).ring = e.ring ++ [{
          pseq := p.pseq, off := e.head, size := p.data.length, units := ringUnits p.data.length }] ∧
        (vend t p.vidx).head = (e.head + 256 * ringUnits p.data.length) % 2 ^ e.rxlog2) ∧
    (e.st = .live → p.pseq = e.nextRx → e.kind = 0 → ringSize e < (e.ring.map (·.units)).sum + ringUnits p.data.length →
      exec (.streamPacket p) s = .next (sawHops s p.vidx p.hops))) ∧
  (∀ (p : VPkt) (e : VEnd) (s u : State), stopped s = false → e = vend s p.vidx → liveEnd s p.vidx p.dgen = some e →
    e.st = .live → p.pseq = e.nextRx → e.kind = 1 → u = takenPkt (sawHops s p.vidx p.hops) p.vidx →
    (pktIs 1 (some 0) p = true → windowOk e p = true → exec (.put p) s =
      .next (consumedNow (devWrite u (e.wbase + fld p.win 0 40) p.data (vinAcc u p.vidx)) p.vidx p)) ∧
    (pktIs 1 (some 1) p = true → windowWaits s p = true → exec (.get p) s = .next s) ∧
    (∀ t bs, pktIs 1 (some 1) p = true → windowWaits s p = false → windowOk e p = true →
      devRead u (e.wbase + fld p.win 0 40) (fld p.win 40 17) (vinAcc u p.vidx) = (t, bs, none) →
      exec (.get p) s = .next (consumedNow (pushSend t p.vidx (.bytes bs) 1 false
        (mkWord [(62, 2, 2), (40, 17, fld p.win 40 17), (0, 40, fld p.win 0 40)])) p.vidx p)) ∧
    (∀ t w bs a, pktIs 1 (some 1) p = true → windowWaits s p = false → windowOk e p = true →
      devRead u (e.wbase + fld p.win 0 40) (fld p.win 40 17) (vinAcc u p.vidx) = (t, bs, some a) →
      w = freeBytes t ((fld p.win 40 17 + 7) / 8) →
      exec (.get p) s = .next (consumedNow (pushSend w.1 p.vidx (.bytes (w.2.take (fld p.win 40 17))) 1 false
        (mkWord [(62, 2, 2), (40, 17, fld p.win 40 17), (0, 40, fld p.win 0 40)])) p.vidx p)) ∧
    (pktIs 1 (some 2) p = true → exec (.getdata p) s = .next (consumedNow (getData u p.vidx p) p.vidx p)) ∧
    (∀ i, (i = Instr.put p ∧ pktIs 1 (some 0) p = true) ∨ (i = Instr.get p ∧ pktIs 1 (some 1) p = true) → windowOk e p = false →
      ∃ t, exec i s = .next t ∧ (vend t p.vidx).st = .frozen ∧ (vend t p.vidx).cause = 8 ∧
        (∀ j, j ≠ p.vidx.val → vend t j = vend s j))) ∧
  (∀ (p : VPkt) (e : VEnd) (s : State), stopped s = false → e = vend s p.vidx → liveEnd s p.vidx p.dgen = some e →
    pktIs 2 none p = true → e.st = .live → p.pseq = e.nextRx → e.kind = 2 → e.dir = true →
    (e.chain ≠ 0 → exec (.reducePacket p) s = .next (takePart (sawHops s p.vidx p.hops) p.vidx p)) ∧
    (e.chain = 0 → exec (.reducePacket p) s = .next (toRing (sawHops s p.vidx p.hops) p.vidx p)))

/-! ## Reset and bring-up -/

/-- R330, R460, R472, R529, R538, R543, R544 and R547: standby power starts the housekeeping logic alone; a device reset keeps the
fuses, the flash, in which it lets the record in progress be completed, the feeds' switches and a Ridge course that stays powered, and loses the rest, every register but
SYS_DCNT reading its reset value; release starts FEED, and the laps of a Ridge course that stayed powered; FEED's switches close on
feeds in range, the phases found failed are noticed, and FEED is tried again where it fails. That standby power coming up again stands for the loss of all
power is the model's choice (assumption log 22). -/
def Obligations.ResetAndFeed : Prop :=
  (∀ s : State, ∃ t, exec .standbyUp s = .next t ∧ t.boot.standby = true ∧ t.boot.released = false ∧
    t.boot.ridgeOn = false ∧ t.regs = [] ∧ t.mem = [] ∧ t.rafters = [] ∧ t.ses = {} ∧ t.time = {} ∧
    t.fuses.serial = s.fuses.serial ∧ t.fuses.grade = s.fuses.grade ∧ t.flash.bytes = s.flash.bytes ∧
    t.flash.waiting = [] ∧ t.boot.cellCopy = s.boot.cellCopy) ∧
  (∀ s : State, s.boot.standby = true → s.boot.resetLow = false →
    ∃ t, exec .deviceReset s = .next t ∧ t.boot.resetLow = true ∧ t.boot.released = false ∧ t.mem = [] ∧
      t.rafters = [] ∧ t.ses = {} ∧ t.vly = {} ∧ t.host = {} ∧ t.notices = {} ∧ t.side = s.side ∧
      t.fuses.serial = s.fuses.serial ∧ t.fuses.grade = s.fuses.grade ∧ t.fuses.owned = s.fuses.owned ∧
      t.flash.bytes = (settleLog s).flash.bytes ∧
      t.flash.waiting = [] ∧ t.boot.feedTry = s.boot.feedTry ∧ bootStep t = 1 ∧ t.stop = {} ∧
      t.boot.ridgeOn = (s.boot.ridgeOn && (feedClosed s 0 || feedClosed s 1)) ∧
      (t.boot.ridgeOn = true → nowR t = nowR s) ∧ (t.boot.ridgeOn = false → nowR t = 0) ∧
      (∀ f, f < 2 → feedState t f = 0 ∧ feedClosed t f = feedClosed s f) ∧
      t.regs = State.reset.regs) ∧
  (∀ s : State, s.boot.standby = true → s.boot.released = false →
    ∃ t, exec .resetRelease s = .next t ∧ t = { s with boot := t.boot, side := t.side, heat := t.heat } ∧ t.boot.released = true ∧
      t.heat = (if s.boot.ridgeOn = true then { s.heat with
        lap := s.time.dcnt.toNat / 2048000, next := (s.time.dcnt.toNat % 2048000 + 1999) / 2000 } else s.heat) ∧
      t.boot.resetLow = false ∧ t.boot.feedGo = true ∧ t.boot.feedTry = min 65535 (s.boot.feedTry + 1) ∧
      t.side = { s.side with ir := .idcode, pins := .system }) ∧
  (∀ (f : Fin 2) (v : BitVec 16) (s : State), s.boot.released = true → feedState s f = 0 → 4000 ≤ v.toNat →
    v.toNat ≤ 6000 → ∃ t, exec (.feedSwitchClose f v) s = .next t ∧ t = { s with regs := t.regs, power := t.power } ∧ feedState t f = 1 ∧
      feedClosed t f = true ∧ feedClosed t (1 - f) = feedClosed s (1 - f) ∧ rf t .pwrFeedf f 40 16 = v.toNat ∧ feedState t (1 - f) = feedState s (1 - f)) ∧
  (∀ (ph : Byte) (ok : Bool) (p0 p1 : BitVec 16) (s : State), booting s = true → bootStep s = 1 → s.boot.feedGo = true →
    (findPhases s ph).power.phases = ph ∧
    ((∀ i : Fin 8, ph.getLsbD i = true → s.power.phases.getLsbD i = true) →
      findPhases s ph = { s with power := { s.power with phases := ph } }) ∧
    (feedCause s ph ok ≠ 0 → ∃ t, exec (.feed ph ok p0 p1) s = .next t ∧
      t = { findPhases s ph with
        boot := { s.boot with feedGo := false, feedWhy := feedCause s ph ok, feedDone := false } }) ∧
    (feedCause s ph ok = 0 → ∃ t, exec (.feed ph ok p0 p1) s = .next t ∧ bootStep t = 2 ∧ bootPhase t = 0 ∧
      t.boot.feedDone = true ∧ t.power.cells = (s.power.cells ||| s.boot.cellCopy) ∧
      (feedClosed s 0 = true → (feedOf t 0).base = p0.toNat) ∧ (feedClosed s 1 = true → (feedOf t 1).base = p1.toNat))) ∧
  (∀ s : State, booting s = true → bootStep s = 1 → s.boot.feedGo = false → exec .feedRetry s = .next (tryFeed s))

/-- R460 to R466, R470 and R495: RIDGE fails with 0x01 where the reference does not lock and with 0x02 where a fuse row
does not read; else the grade's limits enter their fields, the directory's choice of slot is kept, and IMAGE is next; an image whose checks pass is accepted, and
one that fails is refused with the first failing check's code: in attended mode, where IMAGE waits for the host port and for the image that it fetches from BOOT_LSRC, the step waits again (a DETAIL that no rule states is open), in autonomous mode
the other slot is tried, and 0x18 follows where neither holds. The fetch's pieces, what IMAGE reads on after a refusal, and the phase after RIDGE are the model's readings
(assumption logs 69, 25 and 24). -/
def Obligations.RidgeAndImage : Prop :=
  (∀ (idok : Bool) (s : State), booting s = true → bootStep s = 2 →
    (∀ b, ∃ t, exec (.ridge false b idok) s = .next t ∧ rf t .sysState 0 0 2 = 2 ∧ rf t .bootStat 0 40 8 = 1 ∧
      bootStep t = 2) ∧
    (∀ row : BitVec 16, ∃ t, exec (.ridge true (some row) idok) s = .next t ∧ rf t .sysState 0 0 2 = 2 ∧
      rf t .bootStat 0 40 8 = 2 ∧ rf t .bootStat 0 24 16 = row.toNat) ∧
    (∃ t, exec (.ridge true none idok) s = .next t ∧ bootStep t = 3 ∧ t.boot.ridgeOn = true ∧
      rf t .pwrCtl 0 28 10 = (gradeLimits s.fuses.grade).1 ∧ rf t .pwrCtl 0 16 12 = (gradeLimits s.fuses.grade).2 ∧
      rbit t .secStat 0 63 = idok ∧ rbit t .sysRefstat 0 0 = true ∧ attended t = (slotDir s).1 ∧
      bootPhase t = (if (slotDir s).1 then 0 else 1) ∧ t.fuses = s.fuses ∧ t.boot.pref = (slotDir s).2)) ∧
  (∀ (cut : Fin 4096) (s : State), booting s = true → bootStep s = 3 → bootPhase s = 1 →
    (attended s = true → (portUp s 12 = false → exec (.image cut) s = .next s) ∧
      (portUp s 12 = true → fetchFor s 16 = none →
        exec (.image cut) s =
          .next (startFetch { s with boot := { s.boot with imgAt := rg s .bootLsrc } } 16 (rg s .bootLsrc) 64 cut)) ∧
      (∀ x, portUp s 12 = true → fetchFor s 16 = some x → (fetchBytes x).length ≠ x.len → exec (.image cut) s = .next s)) ∧
    (∀ x img u, attended s = true → portUp s 12 = true → fetchFor s 16 = some x → img = fetchBytes x → img.length = x.len →
      u = setFetch s 16 none →
      (imageCheck u (hostRead img) true = none → exec (.image cut) s = .next (acceptImage u (hostRead img) true)) ∧
      (∀ c d, imageCheck u (hostRead img) true = some (c, d) → ∃ t, exec (.image cut) s = .next t ∧
        t = { u with regs := t.regs, free := t.free } ∧ bootStep t = 3 ∧ bootPhase t = 0 ∧ rf t .bootStat 0 40 8 = c % 256 ∧
        rf t .bootStat 0 24 16 = (match d with | some k => k % 65536 | none => fld (Config.free s.free) 0 16))) ∧
    (attended s = false → ∀ p, p = s.boot.pref →
      (imageCheck s (slotRead s p) false = none → ∃ t, exec (.image cut) s = .next t ∧ bootStep t = 4 ∧ bootPhase t = 0 ∧
        rf t .bootStat 0 55 1 = p % 2 ∧ t.boot.slot = p ∧ t.boot.svn = BitVec.ofNat 8 (inum (slotRead s p) 0x18 1)) ∧
      (∀ c1 d1, imageCheck s (slotRead s p) false = some (c1, d1) →
        (imageCheck s (slotRead s (1 - p)) false = none → ∃ t, exec (.image cut) s = .next t ∧ bootStep t = 4 ∧
          rf t .bootStat 0 55 1 = (1 - p) % 2 ∧ t.boot.slot = 1 - p ∧ rf t .bootStat 0 16 8 = c1 % 256 ∧
          t.boot.svn = BitVec.ofNat 8 (inum (slotRead s (1 - p)) 0x18 1)) ∧
        (∀ c2 d2, imageCheck s (slotRead s (1 - p)) false = some (c2, d2) → ∃ t, exec (.image cut) s = .next t ∧
          rf t .sysState 0 0 2 = 2 ∧ rf t .bootStat 0 40 8 = 0x18 ∧ rf t .bootStat 0 24 16 = c2 % 65536))))

/-- R277, R305, R460, R473 to R478, R486 and R487: each step's action ends in its POST phase once what it waits for holds; a step that
no eaves link survives fails with 0x20, and one with a Truss course of four failed cells with 0x21; a bay's lines that need it are mapped to its 512 spare lines; SPAR replaces each failing bond of a pair that has spares; a stack's failing lanes are repaired while spares last, a warm start trains it at the
rate saved for it or, where its check fails, which is open (assumption log 26), at 6.4 Gb/s, and one that cannot be trained fails HBM with 0x30; the LINK limit ends LINK;
SEAL's first failing check is shown, and where none fails the device is in service with empty tables. -/
def Obligations.BringupSteps : Prop :=
  (∀ (o : TrussOut) (s u v : State), inAction s 4 = true → coursesBusy s = false → (∀ k, k < 16 → rf s .pwrqVstat (64 + k) 61 3 = 3) →
    u = (List.range 4).foldl (fun t e =>
      if (o.eavesUp.getLsbD e && !(eavesOf t e).lost) = true then setEaves t e { up := true } else untrained t e) s →
    v = (tested u).foldl (fun t k => repairLines t o k) u →
    ((∀ e, e < 4 → (eavesOf u e).up = false) → exec (.truss o) s = .next (bootFail u 0x20 0)) ∧
    ((∃ e, e < 4 ∧ (eavesOf u e).up = true) →
      (weakTruss v = none → exec (.truss o) s = .next (actionDone v 4)) ∧
      (∀ q, weakTruss v = some q → exec (.truss o) s = .next (bootFail v 0x21 q))) ∧
    (∀ e, e < 4 → (eavesOf u e).up = (if (eavesOf s e).lost = true then (eavesOf s e).up else o.eavesUp.getLsbD e))) ∧
  (∀ (o : TrussOut) (k : Nat) (s : State),
    ((linesNeeded s o k).length ≤ 512 → repairLines s o k =
      { s with boot := { s.boot with lineMap := tput [] s.boot.lineMap k (linesNeeded s o k) } }) ∧
    (512 < (linesNeeded s o k).length → repairLines s o k = failPair s k) ∧
    (∀ l, l ∈ linesNeeded s o k ↔ ((k, l) ∈ o.badLines ∨ (k, l) ∈ s.boot.sticky))) ∧
  (∀ (e : Fin 4) (s : State), inAction s 4 = true → (eavesOf s e).lost = false →
    ∃ t, exec (.eavesTrainTimeout e) s = .next t ∧ (eavesOf t e).lost = true ∧ (eavesOf t e).up = false) ∧
  (∀ (o : SparOut) (s : State), inAction s 5 = true → coursesBusy s = false →
    (∀ q, q < 64 → rf s .pwrqVstat q 61 3 = 3 ∨ rf s .pwrqVstat q 61 3 = 4) →
    ∃ t, exec (.spar o) s = .next t ∧ bootStep t = 5 ∧ bootPhase t = 2 ∧ t.boot.slates = o.badSlates ∧
      (∀ k b, (k, b) ∈ t.boot.bonds ↔
        k ∈ tested s ∧ (darkPairs s).contains k = false ∧ fewSpares o k = false ∧ b ∈ bondsOf o k) ∧ (∀ d, d < 4 → rg t .bootSppropd d = proposal t d)) ∧
  (∀ (k : Fin 8) (r : Fin 4) (s u : State), inAction s 6 = true → (stack s k).trained = false →
    u = dueR s (s.boot.goAt.toNat + 2000000000) →
    (r.val ≠ 3 → ∃ t, exec (.firmwareTraining k r) s = .next t ∧ (stack t k).trained = true ∧
      (stack t k).lanes = (stack (repairLanes u k) k).lanes ∧ rf t .hbmsStat k 60 2 = r.val ∧ rf t .hbmsStat k 62 2 = 0) ∧
    (r.val = 3 → exec (.firmwareTraining k r) s = .next (bootFail u 0x30 k))) ∧
  (∀ s : State, inAction s 6 = true → ∃ t, exec .hbm s = .next t ∧ bootPhase t = 2 ∧ (∀ k, k < 8 → (stack t k).trained = true ∧
    ((stack s k).trained = true → (stack t k).lanes = (stack s k).lanes) ∧
    ((stack s k).trained = false → (savedRate s k = none → rf t .hbmsStat k 60 2 = 0) ∧
      (∀ r, savedRate s k = some r → rf t .hbmsStat k 60 2 = 0 ∨ rf t .hbmsStat k 60 2 = r % 4)) ∧
    (∀ ch, ch < 16 → tget 0 (stack s k).lanes ch ≤ tget 0 (stack t k).lanes ch ∧
      tget 0 (stack t k).lanes ch ≤ max (tget 0 (stack s k).lanes ch) (Config.hbmSpares k ch)))) ∧
  (∀ (k : Fin 8) (s t : State), t = repairLanes s k → t = { s with hbm := t.hbm, regs := t.regs, free := t.free } ∧
    (∀ j, j ≠ k.val → stack t j = stack s j) ∧
    (∀ ch, ch < 16 → tget 0 (stack s k).lanes ch ≤ tget 0 (stack t k).lanes ch ∧
      tget 0 (stack t k).lanes ch ≤ max (tget 0 (stack s k).lanes ch) (Config.hbmSpares k ch)) ∧
    rf t .hbmsStat k 48 11 = min 2047 (rf s .hbmsStat k 48 11 +
      ((List.range 16).map fun ch => tget 0 (stack t k).lanes ch - tget 0 (stack s k).lanes ch).sum)) ∧
  (∀ s : State, inAction s 7 = true →
    ((∀ p, p < 12 → rbit s .lnkpCtl p 63 = false ∨ portState s p = 5 ∨ portState s p = 6 ∨ portState s p = 8) →
      exec .link s = .next (actionDone s 7)) ∧
    exec .linkStepTimeout s = .next (actionDone (dueR s (s.boot.goAt.toNat + linkLimit s)) 7)) ∧
  (∀ s : State, inAction s 8 = true → (∀ p, p < 12 → s.boot.qualAt.getLsbD p = true → portState s p ≠ 5) →
    exec .qualify s = .next (actionDone s 8)) ∧
  (∀ s : State, inAction s 10 = true →
    (∀ c i, attended s = true → sealBad s = some (c, i) → ∃ t, exec .seal s = .next t ∧ t = { s with regs := t.regs } ∧
      bootStep t = 10 ∧ bootPhase t = 0 ∧ rf t .bootStat 0 40 8 = 0x50 ∧
      rf t .bootStat 0 24 16 = (256 * c + i % 256) % 65536) ∧
    (sealBad s = none → ∃ t, exec .seal s = .next t ∧ inService t = true ∧ bootStep t = 11 ∧
      rbit t .sesStat 0 63 = true ∧ t.ses.sess = [] ∧ t.vly.ends = [] ∧ t.notices.held = []))

/-- R481 to R484: LOAD checks every placement before it stages the images, which it reads from the flash or, section by section, from the host's image
(in reads whose sizes are open, assumption log 69), and a section that fails ends the step; a piece found uncorrectable is written again once; a piece broadcast reaches the named
rafters, but for those whose stop drops it; the end mark has every load engine check its image, and a repair round
that finds it whole ends the rafter's part; three failed rounds retire the pair. R467 to R469: the stage list's
operations: WRITE stores VALUE, RMW replaces the bits of MASK, BLOCK writes COUNT words of DATA one after another,
COPY writes a register masked; WAIT and DELAY hold the list for TMO microseconds, WAIT until its condition holds, and
a wait that ends without it fails the step with 0x23. -/
def Obligations.LoadAndStageList : Prop :=
  ((∀ s : State, inAction s 9 = true → loadStaged s = false →
    (∀ n p k, s.boot.loadAt = 0 → fetchFor s 17 = none → n ∈ loading s → progOf s n = some (p, k) →
      progFits s n p.bytes.length = false →
      (∀ m q j, m ∈ loading s → m < n → progOf s m = some (q, j) → progFits s m q.bytes.length = true) →
      ∃ t, exec .load s = .next t ∧ rf t .sysState 0 0 2 = 2 ∧ rf t .bootStat 0 40 8 = 0x41 ∧
        rf t .bootStat 0 24 16 = n) ∧
    (∀ t r, (if attended s then stageHost s
        else stageFlash s ((List.range s.boot.progs.length).drop s.boot.loadAt)) = (t, r) →
      (s.boot.loadAt ≠ 0 ∨ fetchFor s 17 ≠ none ∨
        ∀ n p k, n ∈ loading s → progOf s n = some (p, k) → progFits s n p.bytes.length = true) →
      exec .load s = .next (match r with
        | none => { t with boot := { t.boot with goAt := nowR t } }
        | some x => bootFail t x.1 x.2))) ∧
  (∀ s : State, (fetchFor s 17 = none → stageHost s = (startFetch (takeFree s).1 17
      (s.boot.imgAt + BitVec.ofNat 64 (progAt s s.boot.loadAt).off) (sectLen s s.boot.loadAt)
      (Fin.ofNat 4096 (takeFree s).2.toNat), none)) ∧
    (∀ x, fetchFor s 17 = some x →
      ((fetchBytes x).length = x.len →
        stageHost s = stageSection (setFetch s 17 none) s.boot.loadAt (fetchBytes x)) ∧
      ((fetchBytes x).length ≠ x.len → stageHost s = (s, none)))) ∧
  (∀ (k : Nat) (got : List Byte) (s t : State) (r : Option (Nat × Nat)), stageSection s k got = (t, r) →
    (digestOf got ≠ (progAt s k).digest → t = s ∧ r = some (0x40, (progAt s k).sect)) ∧
    (r = none → digestOf got = (progAt s k).digest ∧ t.boot.loadAt = s.boot.loadAt + 1 ∧
      (k < s.boot.progs.length → (progAt t k).bytes = got.drop 64 ∧ (progAt t k).meas = digestOf got))) ∧
  (∀ (k j a : Nat) (bs : List Byte) (s t : State),
    devRead s (stageAddr s k j) (pieceBytes (progAt s k) j).length {} = (t, bs, some a) →
    (t.boot.rewrote.contains (k, j) = true → readPiece s k j = (t, bs, true)) ∧
    (t.boot.rewrote.contains (k, j) = false → (readPiece s k j).1.boot.rewrote = t.boot.rewrote ++ [(k, j)] ∧
      (readPiece s k j).2 = (sourcePiece t k j, true))) ∧
  (∀ (ds : List Nat) (k j : Nat) (s : State), inAction s 9 = true → loadStaged s = true → s.boot.marked = false →
    (allPieces s)[s.boot.cast]? = some (k, j) →
    ∃ t, exec (.pieceBroadcast ds) s = .next t ∧ t.boot.cast = s.boot.cast + 1 ∧ t.boot.progs = s.boot.progs ∧
      (∀ n ∈ ds, tget {} t.boot.loaders n = tget {} s.boot.loaders n)) ∧
  (∀ s : State, inAction s 9 = true → loadStaged s = true → s.boot.marked = false →
    (allPieces s).length ≤ s.boot.cast → ∃ t, exec .endMark s = .next t ∧ t.boot.marked = true ∧
      ((unverified t).isEmpty = true → bootPhase t = 2) ∧ ((unverified t).isEmpty = false → bootPhase t = 1)) ∧
  (∀ (n : Fin 256) (p : RProg) (k : Nat) (s u : State), inAction s 9 = true → s.boot.marked = true →
    (unverified s).contains n.val = true → progOf s n = some (p, k) →
    (∀ j, j < pieceCount p → (tget {} s.boot.loaders n).have_.contains j = true) →
    (u = checkImage s n → (tget {} u.boot.loaders n).ok = true →
      exec (.repairRoundDone n true) s = .next (loadDone u)) ∧
    ((tget {} s.boot.loaders n).rounds < 2 →
      ∃ t, exec (.repairRoundDone n false) s = .next t ∧
        (tget {} t.boot.loaders n).rounds = (tget {} s.boot.loaders n).rounds + 1 ∧ retired t n = retired s n) ∧
    ((tget {} s.boot.loaders n).rounds = 2 → ∃ t, exec (.repairRoundDone n false) s = .next t ∧ retired t n = true))) ∧
  (∀ (e : StageEnt) (s : State), booting s = true → curEntry s = some e →
    (s.boot.until_ = none →
      (e.op = 1 → exec .write s = .next (stageNext (stageWrite s e.addr e.value))) ∧
      (∀ t v, e.op = 2 → regRead8 s .stage e.addr.toNat = (t, v) → exec .rmw s =
        .next (stageNext (stageWrite t e.addr ((v &&& ~~~e.mask) ||| (e.value &&& e.mask))))) ∧
      (e.op = 3 → ∃ t, exec .wait s = .next t ∧ t = { s with boot := t.boot } ∧ t.boot.pos = s.boot.pos ∧
        t.boot.until_ = some (nowR s + BitVec.ofNat 64 (1000 * e.tmo.toNat))) ∧
      (e.op = 4 → ∃ t, exec .delay s = .next t ∧ t = { s with boot := t.boot } ∧ t.boot.pos = s.boot.pos ∧
        t.boot.until_ = some (nowR s + BitVec.ofNat 64 (1000 * e.tmo.toNat))) ∧
      (e.op = 5 → exec .block s = .next (stageNext ((List.range e.count.toNat).foldl (fun s i =>
        stageWrite s e.addr (bytesWord ((s.boot.data.drop (e.value.toNat + 8 * i)).take 8))) s))) ∧
      (∀ t v, e.op = 6 → regRead8 s .stage e.value.toNat = (t, v) →
        exec .copy s = .next (stageNext (stageWrite t e.addr (v &&& e.mask))))) ∧
    (∀ w, s.boot.until_ = some w →
      (∀ t v, e.op = 3 → regRead8 s .stage e.addr.toNat = (t, v) →
        (v &&& e.mask = e.value → exec .waitMet s = .next (stageNext t)) ∧
        (v &&& e.mask ≠ e.value → ∃ u, exec .stageTimeout s = .next u ∧ rf u .sysState 0 0 2 = 2 ∧
          rf u .bootStat 0 40 8 = 0x23 ∧ rf u .bootStat 0 24 16 = s.boot.pos % 65536)) ∧
      (e.op = 4 → ∃ u, exec .delayEnd s = .next u ∧ u = { s with boot := u.boot, time := u.time } ∧
        u.boot.pos = s.boot.pos + 1 ∧ u.boot.until_ = none ∧ w.toNat ≤ (nowR u).toNat)))

/-- Provisioning and identity (R502, R503, R510): GO with a record that passes the checks sets PBUSY, one that fails a
check shows the check's result; at the end an owner slot is OWNED under the hash of the record's key, or REVOKED; a
read of SEC_IDDATA gives the item at IDX and advances IDX. R507 and R508: ATTEST is taken where the identity key is
good and none is in progress; its end writes the report and its signature, which ends in 4 zero bytes, to DEST and the completion with LENGTH.
R477, R505 and R506: in service the training saves are written once no fault record waits; a rollback bit in progress
is blown, the lowest first, and the counter shows it; the eighth block that fails its health test in a row clears
RBGOK, where whether a block passed before it is open (assumption log 57). -/
def Obligations.SecurityEngine : Prop :=
  ((∀ (m : Master) (v : Word) (s : State), (∀ n, m ≠ .rafter n) → sealed s = false → bitOf v 63 = true →
    s.sec.busy = none →
    (provCheck s ≠ 1 → exec (.provisioningGo m v) s = .next (rfSet s .secStat 0 32 8 (provCheck s))) ∧
    (provCheck s = 1 → ∃ t, exec (.provisioningGo m v) s = .next t ∧ rbit t .secStat 0 42 = true ∧
      t.sec.busy = some (bytesNat (recBytes s 0 1), bytesNat (recBytes s 1 1), digestOf (recBytes s 0x18 136)) ∧
      t.fuses = s.fuses)) ∧
  (∀ (sl : Nat) (h : BitVec 512) (s : State), s.sec.busy = some (1, sl, h) →
    ∃ t, exec .provisioningDone s = .next t ∧ t.sec.busy = none ∧
      t.fuses = { s.fuses with owners := tput 0 s.fuses.owners sl h, owned := s.fuses.owned ||| BitVec.ofNat 4 (2 ^ sl) } ∧
      rbit t .secStat 0 42 = false ∧ rf t .secStat 0 32 8 = 1) ∧
  (∀ (sl : Nat) (h : BitVec 512) (s : State), s.sec.busy = some (2, sl, h) →
    ∃ t, exec .provisioningDone s = .next t ∧ t.sec.busy = none ∧
      t.fuses = { s.fuses with revoked := s.fuses.revoked ||| BitVec.ofNat 4 (2 ^ sl) }) ∧
  (∀ (m : Master) (s : State), rf s .secIdidx 0 0 6 < 34 →
    exec (.secIddataRead m) s =
      .next { rfSet s .secIdidx 0 0 6 (rf s .secIdidx 0 0 6 + 1) with rdata := tget 0 s.fuses.idPub (rf s .secIdidx 0 0 6) })) ∧
  ((∀ (r : Fin 16) (e : Entry) (s : State), ringTakes s r e 0x50 = true → s.sec.attest = none → fld e.w5 0 12 = 0 →
    (rbit s .secStat 0 63 = true → exec (.attest r e) s = .next (ringFetch { takeArrived s r e with
      sec := { s.sec with attest := some {
        ring := r, cmdid := BitVec.ofNat 16 (fld e.w0 32 16), nonce := e.w4 ++ e.w3 ++ e.w2 ++ e.w1, dest := e.w5 } } })) ∧
    (rbit s .secStat 0 63 = false →
      exec (.attest r e) s = .next (answered (takeArrived s r e) r e 0x04 (entHandle e)))) ∧
  (∀ (a : Attest) (s : State), s.sec.attest = some a → stopped s = false →
    ∃ t sig, exec .attestReportDone s = .next t ∧ t.sec = { s.sec with attest := none } ∧ sig.length = 136 ∧
      sig.drop 132 = [0, 0, 0, 0] ∧
      sig = sigField (Config.identitySign (Config.unwrapKey s.fuses.idPriv) (Config.free s.free).toNat
        (sha512 (reportBody { s with free := s.free + 1 } a.nonce))) ∧
      (HostTxn.mwr a.dest (reportBody { s with free := s.free + 1 } a.nonce ++ sig)) ∈ t.host.tx ∧
      t = { s with host := t.host, regs := t.regs, sec := t.sec, free := s.free + 1 })) ∧
  ((∀ s : State, inService s = true → stopped s = false →
    (s.flash.waiting ≠ [] → exec .trainingSaveWrite s = .next s) ∧
    (s.flash.waiting = [] → ∃ t, exec .trainingSaveWrite s = .next t ∧
      t = { s with flash := t.flash, boot := { s.boot with cellCopy := t.boot.cellCopy } })) ∧
  (∀ (k : Fin 3) (s : State), rollCount s < s.sec.roll → rollCount s < 64 →
    ∃ t, exec (.rollbackBitBlown k) s = .next t ∧ rollCount s < rollCount t ∧ t.fuses.serial = s.fuses.serial ∧
      t.fuses.owners = s.fuses.owners ∧ t.fuses.revoked = s.fuses.revoked ∧ rf t .secStat 0 43 7 = rollCount t) ∧
  (∀ s : State, 3 ≤ bootStep s →
    (s.sec.bad < 7 ∨ bitOf (Config.free s.free) 0 = true → exec .rbgHealthFail s = .next { s with
      sec := { s.sec with bad := if bitOf (Config.free s.free) 0 then 1 else s.sec.bad + 1 }, free := s.free + 1 }) ∧
    (s.sec.bad = 7 → bitOf (Config.free s.free) 0 = false →
      ∃ t, exec .rbgHealthFail s = .next t ∧ rbit t .secStat 0 62 = false)))

/-! ## Sideband and boundary scan -/

/-- R545 and R546: the sideband answers from the values of the last refresh while standby power is up, words low byte
first; reading a block of the fault record marks it read; the block select takes 0-63. R547: BYPASS, IDCODE and
SAMPLE/PRELOAD are loaded at any time; EXTEST, CLAMP and HIGHZ take effect while RESET_N is low, and at any other time
are loaded as BYPASS; there the pins take the boundary register's pattern, or float; what the boundary register captures and is loaded with is open
(assumption log 89), and so is the voltage of a feed that is not in service (assumption log 90). -/
def Obligations.SidebandAndScan : Prop :=
  (∀ s : State, s.boot.standby = true →
    (∀ a b c d : BitVec 16, ∃ t, exec (.sidebandRefresh a b c d) s = .next t ∧ t = { s with side := t.side, free := t.free } ∧
      t.side.temps = [a, b, c, d] ∧ t.side.cause.toNat = s.boot.feedWhy % 256 ∧
      t.side.tries.toNat = s.boot.feedTry % 65536 ∧ t.side.feed0.toNat = (feedVolt s 0).2 ∧
      t.side.feed1.toNat = (feedVolt (feedVolt s 0).1 1).2 ∧ (feedState s 0 ≠ 0 → (feedVolt s 0).2 = rf s .pwrFeedf 0 40 16) ∧
      (t.side.status.getLsbD 3 = true ↔ 4000 ≤ t.side.feed0.toNat ∧ t.side.feed0.toNat ≤ 6000) ∧
      (t.side.status.getLsbD 2 = true ↔ 4000 ≤ t.side.feed1.toNat ∧ t.side.feed1.toNat ≤ 6000) ∧ t.side.dev.toNat = rf s .vlyDevid 0 0 16 ∧
      (3 ≤ bootStep s → t.side.power.toNat = rf s .pwrBus 0 16 16)) ∧
    (∃ t, exec .smbStatus s = .next t ∧ t = { s with side := t.side } ∧
      t.side.answer = [s.side.status ||| (if unreadRecord s then 1 else 0)]) ∧
    (∃ t, exec .smbFeedCause s = .next t ∧ t = { s with side := t.side } ∧ t.side.answer = [s.side.cause]) ∧
    (∃ t, exec .smbFeedAttempts s = .next t ∧ t = { s with side := t.side } ∧
      t.side.answer = natBytes s.side.tries.toNat 2) ∧
    (∃ t, exec .smbFeed0Voltage s = .next t ∧ t = { s with side := t.side } ∧
      t.side.answer = natBytes s.side.feed0.toNat 2) ∧
    (∃ t, exec .smbFeed1Voltage s = .next t ∧ t = { s with side := t.side } ∧
      t.side.answer = natBytes s.side.feed1.toNat 2) ∧
    (∃ t, exec .smbModulePower s = .next t ∧ t = { s with side := t.side } ∧
      t.side.answer = natBytes s.side.power.toNat 2) ∧
    (s.side.record ≠ [] → s.side.block.toNat < 4 → ∃ t, exec .smbFaultRecord s = .next t ∧ t = { s with side := t.side } ∧
      t.side.answer = (s.side.record.drop (32 * s.side.block.toNat)).take 32 ∧ t.side.readSeq = some s.side.recSeq) ∧
    (s.side.record = [] → ∃ t, exec .smbFaultRecord s = .next t ∧ t = { s with side := t.side, free := s.free + 4 } ∧
      t.side.answer.length = 32) ∧
    (∀ n : Byte, n.toNat < 64 → ∃ t, exec (.smbBlockSelect n) s = .next t ∧ t = { s with side := t.side } ∧
      t.side.block.toNat = n.toNat) ∧
    (∃ t, exec .smbTemperatures s = .next t ∧ t = { s with side := t.side } ∧
      t.side.answer = (List.range 4).flatMap fun i => natBytes (nth s.side.temps i 0).toNat 2) ∧
    (∃ t, exec .smbDeviceId s = .next t ∧ t = { s with side := t.side } ∧
      t.side.answer = natBytes s.side.dev.toNat 2) ∧
    (∃ t, exec .smbFru s = .next t ∧ t = { s with side := t.side } ∧
      t.side.answer = readBytes s.side.fru (32 * s.side.block.toNat) 32)) ∧
  (∀ s : State,
    (∃ t, exec .bypass s = .next t ∧ t = { s with side := t.side } ∧
      t.side = { s.side with ir := .bypass, tdo := 0, pins := .system }) ∧
    (∃ t, exec .idcode s = .next t ∧ t = { s with side := t.side } ∧ t.side.ir = .idcode ∧
      t.side.tdo = 0x1A707A9F ∧ t.side.pins = .system ∧ t.side.bsr = s.side.bsr) ∧
    (∃ t, exec .samplePreload s = .next t ∧ t = { s with side := t.side, free := s.free + 2 } ∧
      t.side.ir = .samplePreload ∧ t.side.pins = .system ∧ t.side.bsr = Config.free (s.free + 1)) ∧
    (∃ t, exec .extest s = .next t ∧ t = { s with side := t.side, free := s.free + 1 } ∧
      t.side.ir = (if s.boot.resetLow then .extest else .bypass) ∧
      t.side.pins = (if s.boot.resetLow then .pattern s.side.bsr else .system)) ∧
    (∃ t, exec .clamp s = .next t ∧ t = { s with side := t.side } ∧
      t.side.ir = (if s.boot.resetLow then .clamp else .bypass) ∧
      t.side.pins = (if s.boot.resetLow then .pattern s.side.bsr else .system)) ∧
    (∃ t, exec .highz s = .next t ∧ t = { s with side := t.side } ∧
      t.side.ir = (if s.boot.resetLow then .highz else .bypass) ∧
      t.side.pins = (if s.boot.resetLow then .floating else .system)))

/-! ## Notices, counters, and what every step keeps -/

/-- R471, R517, R520 to R523, R511 and R516: before SEAL the Ridge controller holds a notice, up to 255 of them, each with the next sequence number, and
counts the further ones; from SEAL on a notice takes the next sequence number and goes to the ring where it is open, over eaves link 0 (R34); none
is written once the device has stopped; an event adds to the counters that name it, and to none while they are frozen. -/
def Obligations.NoticesAndCounters : Prop :=
  (∀ (s : State) (m : Master) (k a : Nat) (v : Word), stopped s = true → accessNotice s m k a v = s) ∧
  (∀ (s : State) (m : Master) (k a : Nat) (v : Word), stopped s = false → sealed s = false →
    (s.notices.held.length < 255 → ∃ n, (accessNotice s m k a v).notices =
        { s.notices with held := s.notices.held ++ [n], next := s.notices.next + 1 } ∧
      rf (accessNotice s m k a v) .monNstat 0 0 31 = (s.notices.next + 1).toNat ∧
      n.typ = 1 ∧ n.time = nowR s ∧ n.w3 = v ∧
      rf (accessNotice s m k a v) .bootStat 0 8 8 = s.notices.held.length + 1) ∧
    (255 ≤ s.notices.held.length → (accessNotice s m k a v).notices = s.notices ∧
      rf (accessNotice s m k a v) .bootStat 0 0 8 = min 255 (rf s .bootStat 0 0 8 + 1))) ∧
  (∀ (s : State) (m : Master) (k a : Nat) (v : Word), stopped s = false → sealed s = true → ringOpen s = true →
    s.notices.dropFirst = none → rbit s .monLctl 0 63 = false → flowWaits s .notices = false → s.notices.lined = [] →
    (accessNotice s m k a v).notices.next = s.notices.next + 1 ∧
    (accessNotice s m k a v).host.tx.length = s.host.tx.length + 2 ∧
    rf (accessNotice s m k a v) .monNtail 0 0 16 = (rf s .monNtail 0 0 16 + 1) % 2 ^ rf s .monNctl 0 58 5 % 65536 ∧
    sameBytes s (accessNotice s m k a v)) ∧
  (∀ (s : State) (n src k : Nat), rbit s .monCtl 0 63 = true → countR s n src k = s ∧ countT s src n k = s ∧
    countG s src n k = s ∧ countH s n src k k = s) ∧
  (∀ (s : State) (src unit i : Nat), rbit s .monCtl 0 63 = false → i < 32 → rbit s .monRselk i 63 = true →
    rf s .monRselk i 0 10 = src → rf s .monRselk i 16 16 = unit → rf s .monRcntk i 0 48 + 1 < 2 ^ 48 →
    rf (countG s src unit 1) .monRcntk i 0 48 = rf s .monRcntk i 0 48 + 1) ∧
  (∀ (s : State) (n src unit k : Nat), (∃ rs, countR s n src k = { s with regs := rs }) ∧
    (∃ rs, countT s src unit k = { s with regs := rs }) ∧ (∃ rs, countG s src unit k = { s with regs := rs }) ∧
    (∃ rs, countH s n src unit k = { s with regs := rs }))

namespace Sys2Proof.Claim

/-- What fuses hold in `t` is what they held in `s`, but for fuses blown in between: a fuse is never unblown, and the
grade, the serial number and the root hash never change (R498). -/
def fusesKept (s t : State) : Prop :=
  t.fuses.grade = s.fuses.grade ∧ t.fuses.serial = s.fuses.serial ∧ t.fuses.rootHash = s.fuses.rootHash ∧
  s.fuses.owned &&& t.fuses.owned = s.fuses.owned ∧ s.fuses.revoked &&& t.fuses.revoked = s.fuses.revoked ∧
  s.fuses.partly &&& t.fuses.partly = s.fuses.partly ∧ s.fuses.rollA &&& t.fuses.rollA = s.fuses.rollA ∧
  s.fuses.rollB &&& t.fuses.rollB = s.fuses.rollB

end Sys2Proof.Claim

/-- From every state, a step that answers a next state takes the front command off the queue and leaves the others
waiting in their order; no fuse is unblown, and what the fuses identify the device by is as it was. -/
def Obligations.EveryStepKeeps : Prop :=
  ∀ s t : State, step s = .next t → t.pending = s.pending.tail ∧ fusesKept s t

/-- Every step keeps the canonical form of the memory: its addresses rise strictly, and no listed byte reads as an unlisted
one, so that equal memories are equal data. -/
def Obligations.MemoryKeepsForm : Prop :=
  ∀ s t : State, Memory.wf s.mem = true → step s = .next t → Memory.wf t.mem = true

/-! ## Rules stated whole -/

/-- R78: a slot that passes from CLOSING to FREE takes the next generation, and 1 after 4,095; a handle is valid only while
its slot is not FREE and the generations agree; a command with a handle that is not valid is refused with BAD_HANDLE; a
generation comes back only after 4,095 changes. -/
def Obligations.HandleGenerations : Prop :=
  (∀ (i : Fin 1048576) (s : State), stopped s = false → (ses s i).st = .closing → backing (ses s i) = false →
    ∃ t, exec (.sessionPagesReleased i) s = .next t ∧ (ses t i).st = .free ∧
      ((ses s i).gen.toNat < 4095 → (ses t i).gen.toNat = (ses s i).gen.toNat + 1) ∧
      ((ses s i).gen.toNat = 4095 → (ses t i).gen.toNat = 1)) ∧
  (∀ (s : State) (h : BitVec 32) (i : Nat), sesOfHandle s h = some i ↔
    i = h.toNat % 2 ^ 20 ∧ h.toNat / 2 ^ 20 ≠ 0 ∧ (ses s i).gen.toNat = h.toNat / 2 ^ 20 ∧ (ses s i).st ≠ .free) ∧
  (∀ (r : Fin 16) (e : Entry) (cut : Fin 4096) (s t : State), sesOfHandle s (entHandle e) = none →
    t = answered (takeArrived s r e) r e 0x03 (entHandle e) →
    (ringTakes s r e 0x02 = true → exec (.sesAppend r e cut) s = .next t) ∧
    (ringTakes s r e 0x03 = true → exec (.sesRun r e) s = .next t) ∧
    (ringTakes s r e 0x04 = true → exec (.sesPark r e) s = .next t) ∧
    (ringTakes s r e 0x05 = true → exec (.sesClose r e) s = .next t) ∧
    (ringTakes s r e 0x06 = true → exec (.sesMigrate r e) s = .next t)) ∧
  (∀ (f : BitVec 12 → BitVec 12) (g : BitVec 12) (k : Nat), (∀ x, f x = if x = 4095 then 1 else x + 1) → g ≠ 0 →
    (f^[k] g = g ↔ 4095 ∣ k))

/-- R114, R337 and R338: when a Thatch course goes dark, each rafter it powers loses its store, its scalar registers, its accumulators and
its yealms, and is retired; the third failed cell of a course makes it go dark. That lost state reads as empty or zero is the
model's choice (assumption log 8). -/
def Obligations.DarkCourseLosesRafters : Prop :=
  (∀ (s : State) (q n : Nat), n < 256 → courseOf s n = q → retired s n = false →
    (raf (goDark s q) n).st = .retired ∧ (raf (goDark s q) n).store = [] ∧ (raf (goDark s q) n).sr = [] ∧
    (raf (goDark s q) n).slates = [] ∧ (raf (goDark s q) n).ys = [] ∧ (raf (goDark s q) n).scmds = []) ∧
  (∀ (c : Fin 516) (k : Fin 5) (q i : Nat) (s : State), k ≠ 0 → s.power.cells.getLsbD c = false → s.boot.ridgeOn = true → s.boot.resetLow = false →
    cellCourse c = (q, i) → q < 64 → failedCells s q = 2 → rbit s .pwrqVstat q (27 + i) = false →
    rf s .pwrqVstat q 61 3 = 3 →
    ∃ t, exec (.cellFailure c k) s = .next t ∧ courseDark t q = true ∧
      (∀ n, n < 256 → courseOf s n = q → retired s n = false →
        (raf t n).st = .retired ∧ (raf t n).store = [] ∧ (raf t n).sr = [] ∧ (raf t n).slates = [] ∧ (raf t n).ys = []))

/-- R361: the floor condition sets a course's TCLAMP to 550 mV, the loop's ceiling never lies above the clamp but at the
floor, a set point above its ceiling is lowered whatever else the loop would do, and TCLAMP is the grade's ceiling
again once the condition clears. -/
def Obligations.FloorClampsCourse : Prop :=
  (∀ (s : State) (q rise : Nat) (t : Int), q < 81 →
    (rbit s .thmqStat q 15 = false → tlim s 40 ≤ t →
      rbit (judgeCourse s q t rise) .thmqStat q 15 = true ∧ rf (judgeCourse s q t rise) .pwrqVctl q 28 10 = 550) ∧
    (rbit s .thmqStat q 15 = true → t ≤ tlim s 40 - 8 →
      rbit (judgeCourse s q t rise) .thmqStat q 15 = false ∧
      rf (judgeCourse s q t rise) .pwrqVctl q 28 10 = gvmax s) ∧
    (rbit s .thmqStat q 15 = true → tlim s 40 - 8 < t →
      rf (judgeCourse s q t rise) .pwrqVctl q 28 10 = rf s .pwrqVctl q 28 10)) ∧
  (∀ (s : State) (q : Nat), ceilOf s q ≤ max 550 (rf s .pwrqVctl q 28 10)) ∧
  (∀ (s : State) (q ceil : Nat) (idle : Bool), ceil < rf s .pwrqVstat q 48 10 →
    tickVset s q ceil idle = max ceil (rf s .pwrqVstat q 48 10 - 10))

/-- R390: a port trains to the lower of its own MAXLVL and the partner's highest level, so to U1 with an Alatos 5 partner
and to at most U2 with an Alatos 6 one; entering UP sets PKTN of its receive queue at U1 and U2. -/
def Obligations.PortTrainsToLowerLevel : Prop :=
  ∀ (p : Fin 13) (s : State), portActs s p = true →
    (∀ (g : Fin 8) (m : Fin 4) (dev : BitVec 16) (pp : Fin 13), portState s p = 2 → 1 ≤ m.val →
      1 ≤ rf s .lnkpCtl p 61 2 →
      ∃ t, exec (.level p g m dev pp) s = .next t ∧ portLevel t p = min (rf s .lnkpCtl p 61 2) m.val ∧
        (m.val = 1 → portLevel t p = 1) ∧ (m.val = 2 → portLevel t p ≤ 2)) ∧
    (portState s p = 5 → rf s .lnkpStat p 0 8 = lanesOf (portLevel s p) → (∀ l, l < 8 → laneGood s p l = true) →
      ∃ t, exec (.qual p) s = .next t ∧ portUp t p = true ∧ portLevel t p = portLevel s p ∧
        ((portLevel s p = 1 ∨ portLevel s p = 2) → rbit t .lnkpRxqCtl p 25 = true) ∧
        (portLevel s p = 3 → rbit t .lnkpRxqCtl p 25 = false))
end

