-- ==== Sys2Proof/Laws/Tbl.lean ====
section
/-! SUPPORT. Sparse tables: a read after a write, and the canonical form that every write keeps. -/

namespace Sys2Proof.Machine

variable {α : Type}

@[simp] theorem tget_nil (d : α) (k : Nat) : tget d [] k = d := rfl

theorem tget_tdel (d : α) (t : Tbl α) (k j : Nat) : tget d (tdel t k) j = if j = k then d else tget d t j := by
  induction t with
  | nil => simp [tdel]
  | cons e t ih =>
    obtain ⟨i, u⟩ := e
    simp only [tdel]
    split <;> simp only [tget, ih] <;> split_ifs <;> simp_all

theorem tget_tins (d : α) (t : Tbl α) (k j : Nat) (v : α) :
    tget d (tins t k v) j = if j = k then v else tget d t j := by
  induction t with
  | nil => simp only [tins, tget]; split_ifs <;> first | rfl | (exfalso; omega)
  | cons e t ih =>
    obtain ⟨i, u⟩ := e
    simp only [tins]
    split_ifs <;> simp only [tget, ih] <;> split_ifs <;> first | rfl | (exfalso; omega)

/-- A read after a write gives the value written at its key, and what was there at every other. -/
theorem tget_tput [DecidableEq α] (d : α) (t : Tbl α) (k j : Nat) (v : α) :
    tget d (tput d t k v) j = if j = k then v else tget d t j := by
  unfold tput
  split_ifs with h <;> simp_all [tget_tdel, tget_tins]

@[simp] theorem tget_tput_self [DecidableEq α] (d : α) (t : Tbl α) (k : Nat) (v : α) : tget d (tput d t k v) k = v := by
  simp [tget_tput]

theorem tget_tput_of_ne [DecidableEq α] (d : α) (t : Tbl α) {k j : Nat} (v : α) (h : j ≠ k) :
    tget d (tput d t k v) j = tget d t j := by
  simp [tget_tput, h]

theorem tget_tmod [DecidableEq α] (d : α) (t : Tbl α) (k j : Nat) (f : α → α) :
    tget d (tmod d t k f) j = if j = k then f (tget d t k) else tget d t j := by
  simp [tmod, tget_tput]

theorem tabove_tdel (i k : Nat) (t : Tbl α) (h : tabove i t = true) : tabove i (tdel t k) = true := by
  induction t with
  | nil => rfl
  | cons e t ih => obtain ⟨j, u⟩ := e; simp only [tdel]; split <;> simp_all [tabove]

theorem tabove_tins (i k : Nat) (v : α) (t : Tbl α) (h : tabove i t = true) (hk : i < k) : tabove i (tins t k v) = true := by
  induction t with
  | nil => simp [tins, tabove, hk]
  | cons e t ih => obtain ⟨j, u⟩ := e; simp only [tins]; split_ifs <;> simp_all [tabove]

theorem tabove_of_le {i k : Nat} (t : Tbl α) (h : tabove k t = true) (hik : i ≤ k) : tabove i t = true := by
  induction t with
  | nil => rfl
  | cons e t ih => obtain ⟨j, u⟩ := e; simp_all [tabove]; omega

theorem twf_tdel [DecidableEq α] (d : α) (t : Tbl α) (k : Nat) (h : twf d t = true) : twf d (tdel t k) = true := by
  induction t with
  | nil => rfl
  | cons e t ih => obtain ⟨j, u⟩ := e; simp only [tdel]; split <;> simp_all [twf, tabove_tdel]

theorem twf_tins [DecidableEq α] (d : α) (t : Tbl α) (k : Nat) (v : α) (h : twf d t = true) (hv : v ≠ d) :
    twf d (tins t k v) = true := by
  induction t with
  | nil => simp [tins, twf, tabove, hv]
  | cons e t ih =>
    obtain ⟨j, u⟩ := e
    simp only [twf, Bool.and_eq_true, decide_eq_true_eq] at h
    obtain ⟨⟨hu, ha⟩, ht⟩ := h
    simp only [tins]
    split_ifs with h1 h2
    · simp [twf, hu, tabove_tins j k v t ha h1, ih ht]
    · subst h2; simp [twf, hv, ha, ht]
    · have h3 : k < j := by omega
      simp [twf, tabove, hv, hu, ha, ht, h3, tabove_of_le t ha (Nat.le_of_lt h3)]

/-- A write keeps the canonical form. -/
theorem twf_tput [DecidableEq α] (d : α) (t : Tbl α) (k : Nat) (v : α) (h : twf d t = true) : twf d (tput d t k v) = true := by
  unfold tput
  split_ifs with hv
  · exact twf_tdel d t k h
  · exact twf_tins d t k v h hv

theorem twf_tmod [DecidableEq α] (d : α) (t : Tbl α) (k : Nat) (f : α → α) (h : twf d t = true) : twf d (tmod d t k f) = true :=
  twf_tput d t k _ h

theorem twf_foldl_tput [DecidableEq α] (d : α) (f : α → α) (l u : Tbl α) (h : twf d u = true) :
    twf d (l.foldl (fun u e => tput d u e.1 (f e.2)) u) = true := by
  induction l generalizing u with
  | nil => exact h
  | cons e l ih => exact ih _ (twf_tput d u e.1 (f e.2) h)

theorem twf_tmap [DecidableEq α] (d : α) (f : α → α) (t : Tbl α) : twf d (tmap d f t) = true :=
  twf_foldl_tput d f t [] rfl

/-! ## Memory -/

theorem readByte_writeByte (m : Memory) (a b : Nat) (v : Byte) :
    readByte (writeByte m a v) b = if b = a then v else readByte m b := tget_tput 0 m a b v

@[simp] theorem wf_writeByte (m : Memory) (a : Nat) (v : Byte) (h : Memory.wf m = true) :
    Memory.wf (writeByte m a v) = true :=
  twf_tput 0 m a v h

/-- A write of several bytes keeps the canonical form. -/
@[simp] theorem wf_writeBytes (m : Memory) (a : Nat) (bs : List Byte) (h : Memory.wf m = true) :
    Memory.wf (writeBytes m a bs) = true := by
  induction bs generalizing m a with
  | nil => exact h
  | cons b bs ih => exact ih _ _ (wf_writeByte m a b h)

/-- Every byte reads as the one written there, or as before. -/
theorem readByte_writeBytes (m : Memory) (a k : Nat) (bs : List Byte) :
    readByte (writeBytes m a bs) k = if h : a ≤ k ∧ k < a + bs.length then bs[k - a]'(by omega) else readByte m k := by
  induction bs generalizing m a with
  | nil => simp only [writeBytes, List.length_nil]; rw [dif_neg (by omega)]
  | cons b bs ih =>
    simp only [writeBytes, ih, readByte_writeByte, List.length_cons]
    by_cases h1 : k = a
    · subst h1; rw [dif_neg (by omega), dif_pos (by omega)]; simp
    · by_cases h2 : a + 1 ≤ k ∧ k < a + 1 + bs.length
      · rw [dif_pos h2, dif_pos (by omega)]
        have : k - a = (k - (a + 1)) + 1 := by omega
        simp [this]
      · rw [dif_neg h2, dif_neg (by omega)]; simp [h1]

/-- A byte outside those written reads as before. -/
theorem readByte_writeBytes_outside (m : Memory) (a k : Nat) (bs : List Byte) (h : k < a ∨ a + bs.length ≤ k) :
    readByte (writeBytes m a bs) k = readByte m k := by
  rw [readByte_writeBytes, dif_neg (by omega)]

@[simp] theorem readBytes_length (m : Memory) (a n : Nat) : (readBytes m a n).length = n := by
  induction n generalizing a with
  | zero => rfl
  | succ n ih => simp [readBytes, ih]

/-- What a write stored is what a read of the same bytes gives. -/
theorem readBytes_writeBytes (m : Memory) (a : Nat) (bs : List Byte) : readBytes (writeBytes m a bs) a bs.length = bs := by
  have key : ∀ (n j : Nat) (h : j + n = bs.length),
      readBytes (writeBytes m a bs) (a + j) n = bs.drop j := by
    intro n
    induction n with
    | zero => intro j h; simp only [readBytes]; rw [List.drop_of_length_le (by omega)]
    | succ n ih =>
      intro j h
      have hj : j < bs.length := by omega
      simp only [readBytes]
      rw [List.drop_eq_getElem_cons hj, readByte_writeBytes, dif_pos (by omega)]
      have := ih (j + 1) (by omega)
      rw [← Nat.add_assoc] at this
      rw [this]
      simp
  have := key bs.length 0 (by omega)
  simpa using this

end Sys2Proof.Machine
end

