-- ==== Sys2Proof/Laws/State.lean ====
section
/-! SUPPORT. What each named update of the state leaves as it was, one lemma for each field, and what a read after an
update gives. -/

namespace Sys2Proof.Machine

/-! ## A read after an update -/

theorem rg_rgSet (s : State) (r : Reg) (i j : Nat) (v : Word) : rg (rgSet s r i j v) r i j = v := tget_tput_self _ _ _ _

/-- Another register, or another of the same kind, keeps its value. -/
theorem rg_rgSet_of_ne (s : State) {r q : Reg} {i j k l : Nat} (v : Word) (h : regOff q k l ≠ regOff r i j) :
    rg (rgSet s r i j v) q k l = rg s q k l := by
  simp only [rg, rgSet, tput]
  split_ifs <;> simp [tget_tdel, tget_tins, h]

theorem rg_congr_regs {s t : State} (h : t.regs = s.regs) (r : Reg) (i j : Nat) : rg t r i j = rg s r i j := by
  simp only [rg, h]

theorem raf_setRaf (s : State) (n m : Nat) (r : Rafter) : raf (setRaf s n r) m = if m = n then r else raf s m :=
  tget_tput _ _ _ _ _

theorem raf_modRaf (s : State) (n m : Nat) (f : Rafter → Rafter) :
    raf (modRaf s n f) m = if m = n then f (raf s n) else raf s m := raf_setRaf s n m _

theorem bay_setBay (s : State) (b c : Nat) (x : Bay) : bay (setBay s b x) c = if c = b then x else bay s c :=
  tget_tput _ _ _ _ _

theorem stack_setStack (s : State) (t u : Nat) (x : Stack) : stack (setStack s t x) u = if u = t then x else stack s u :=
  tget_tput _ _ _ _ _

theorem port_setPort (s : State) (p q : Nat) (x : Port) : port (setPort s p x) q = if q = p then x else port s q :=
  tget_tput _ _ _ _ _

theorem vend_setVend (s : State) (i j : Nat) (e : VEnd) : vend (setVend s i e) j = if j = i then e else vend s j :=
  tget_tput _ _ _ _ _

theorem ses_setSes (s : State) (i j : Nat) (x : Session) : ses (setSes s i x) j = if j = i then x else ses s j :=
  tget_tput _ _ _ _ _

theorem queue_setQueue (s : State) (q p : Nat) (x : Queue) : queue (setQueue s q x) p = if p = q then x else queue s p :=
  tget_tput _ _ _ _ _

theorem eavesOf_setEaves (s : State) (e f : Nat) (x : Eaves) : eavesOf (setEaves s e x) f = if f = e then x else eavesOf s f :=
  tget_tput _ _ _ _ _

theorem spar_setSpar (s : State) (n m : Nat) (x : Spar) :
    tget {} (setSpar s n x).spars m = if m = n then x else tget {} s.spars m := tget_tput _ _ _ _ _

theorem chan_setChan (r : Rafter) (c d : Nat) (x : Chan) : chan (setChan r c x) d = if d = c then x else chan r d :=
  tget_tput _ _ _ _ _

theorem slate_setSlate (r : Rafter) (p q : Nat) (x : Slate) : slate (setSlate r p x) q = if q = p then x else slate r q :=
  tget_tput _ _ _ _ _

theorem yslot_setYslot (r : Rafter) (y z : Nat) (x : YSlot) : yslot (setYslot r y x) z = if z = y then x else yslot r z :=
  tget_tput _ _ _ _ _

/-- A scalar register written reads as written; s0 reads as 0 (R123). -/
theorem sreg_setSreg (r : Rafter) (i j : Nat) (w : Word) :
    sreg (setSreg r i w) j = if j = 0 then 0 else if j = i then w else sreg r j := by
  unfold sreg setSreg
  split_ifs <;> simp_all [tget_tput]

/-- The same for a thread's registers. -/
theorem treg_setTreg (t : Thread) (i j : Nat) (v : Word) :
    treg (setTreg t i v) j = if j = 0 then 0 else if j = i then v else treg t j := by
  unfold treg setTreg
  split_ifs <;> simp_all [tget_tput]

/-! ## The updates of the state -/

/-! ### rgSet -/

section

variable (s : State) (r : Reg) (i j : Nat) (v : Word)

@[simp] theorem rgSet_work : (rgSet s r i j v).work = s.work := rfl
@[simp] theorem rgSet_pending : (rgSet s r i j v).pending = s.pending := rfl
@[simp] theorem rgSet_fuses : (rgSet s r i j v).fuses = s.fuses := rfl
@[simp] theorem rgSet_time : (rgSet s r i j v).time = s.time := rfl
@[simp] theorem rgSet_mem : (rgSet s r i j v).mem = s.mem := rfl
@[simp] theorem rgSet_syn : (rgSet s r i j v).syn = s.syn := rfl
@[simp] theorem rgSet_notices : (rgSet s r i j v).notices = s.notices := rfl
@[simp] theorem rgSet_host : (rgSet s r i j v).host = s.host := rfl
@[simp] theorem rgSet_ses : (rgSet s r i j v).ses = s.ses := rfl
@[simp] theorem rgSet_bat : (rgSet s r i j v).bat = s.bat := rfl
@[simp] theorem rgSet_gate : (rgSet s r i j v).gate = s.gate := rfl
@[simp] theorem rgSet_rafters : (rgSet s r i j v).rafters = s.rafters := rfl
@[simp] theorem rgSet_bays : (rgSet s r i j v).bays = s.bays := rfl
@[simp] theorem rgSet_spars : (rgSet s r i j v).spars = s.spars := rfl
@[simp] theorem rgSet_eaves : (rgSet s r i j v).eaves = s.eaves := rfl
@[simp] theorem rgSet_mesh : (rgSet s r i j v).mesh = s.mesh := rfl
@[simp] theorem rgSet_queues : (rgSet s r i j v).queues = s.queues := rfl
@[simp] theorem rgSet_hbm : (rgSet s r i j v).hbm = s.hbm := rfl
@[simp] theorem rgSet_power : (rgSet s r i j v).power = s.power := rfl
@[simp] theorem rgSet_heat : (rgSet s r i j v).heat = s.heat := rfl
@[simp] theorem rgSet_flash : (rgSet s r i j v).flash = s.flash := rfl
@[simp] theorem rgSet_boot : (rgSet s r i j v).boot = s.boot := rfl
@[simp] theorem rgSet_stop : (rgSet s r i j v).stop = s.stop := rfl
@[simp] theorem rgSet_sec : (rgSet s r i j v).sec = s.sec := rfl
@[simp] theorem rgSet_side : (rgSet s r i j v).side = s.side := rfl
@[simp] theorem rgSet_ports : (rgSet s r i j v).ports = s.ports := rfl
@[simp] theorem rgSet_vly : (rgSet s r i j v).vly = s.vly := rfl
@[simp] theorem rgSet_free : (rgSet s r i j v).free = s.free := rfl
@[simp] theorem rgSet_rdata : (rgSet s r i j v).rdata = s.rdata := rfl

end

/-! ### rfSet -/

section

variable (s : State) (r : Reg) (i lo n v : Nat)

@[simp] theorem rfSet_work : (rfSet s r i lo n v).work = s.work := rfl
@[simp] theorem rfSet_pending : (rfSet s r i lo n v).pending = s.pending := rfl
@[simp] theorem rfSet_fuses : (rfSet s r i lo n v).fuses = s.fuses := rfl
@[simp] theorem rfSet_time : (rfSet s r i lo n v).time = s.time := rfl
@[simp] theorem rfSet_mem : (rfSet s r i lo n v).mem = s.mem := rfl
@[simp] theorem rfSet_syn : (rfSet s r i lo n v).syn = s.syn := rfl
@[simp] theorem rfSet_notices : (rfSet s r i lo n v).notices = s.notices := rfl
@[simp] theorem rfSet_host : (rfSet s r i lo n v).host = s.host := rfl
@[simp] theorem rfSet_ses : (rfSet s r i lo n v).ses = s.ses := rfl
@[simp] theorem rfSet_bat : (rfSet s r i lo n v).bat = s.bat := rfl
@[simp] theorem rfSet_gate : (rfSet s r i lo n v).gate = s.gate := rfl
@[simp] theorem rfSet_rafters : (rfSet s r i lo n v).rafters = s.rafters := rfl
@[simp] theorem rfSet_bays : (rfSet s r i lo n v).bays = s.bays := rfl
@[simp] theorem rfSet_spars : (rfSet s r i lo n v).spars = s.spars := rfl
@[simp] theorem rfSet_eaves : (rfSet s r i lo n v).eaves = s.eaves := rfl
@[simp] theorem rfSet_mesh : (rfSet s r i lo n v).mesh = s.mesh := rfl
@[simp] theorem rfSet_queues : (rfSet s r i lo n v).queues = s.queues := rfl
@[simp] theorem rfSet_hbm : (rfSet s r i lo n v).hbm = s.hbm := rfl
@[simp] theorem rfSet_power : (rfSet s r i lo n v).power = s.power := rfl
@[simp] theorem rfSet_heat : (rfSet s r i lo n v).heat = s.heat := rfl
@[simp] theorem rfSet_flash : (rfSet s r i lo n v).flash = s.flash := rfl
@[simp] theorem rfSet_boot : (rfSet s r i lo n v).boot = s.boot := rfl
@[simp] theorem rfSet_stop : (rfSet s r i lo n v).stop = s.stop := rfl
@[simp] theorem rfSet_sec : (rfSet s r i lo n v).sec = s.sec := rfl
@[simp] theorem rfSet_side : (rfSet s r i lo n v).side = s.side := rfl
@[simp] theorem rfSet_ports : (rfSet s r i lo n v).ports = s.ports := rfl
@[simp] theorem rfSet_vly : (rfSet s r i lo n v).vly = s.vly := rfl
@[simp] theorem rfSet_free : (rfSet s r i lo n v).free = s.free := rfl
@[simp] theorem rfSet_rdata : (rfSet s r i lo n v).rdata = s.rdata := rfl

end

/-! ### rfSat -/

section

variable (s : State) (r : Reg) (i lo n k : Nat)

@[simp] theorem rfSat_work : (rfSat s r i lo n k).work = s.work := rfl
@[simp] theorem rfSat_pending : (rfSat s r i lo n k).pending = s.pending := rfl
@[simp] theorem rfSat_fuses : (rfSat s r i lo n k).fuses = s.fuses := rfl
@[simp] theorem rfSat_time : (rfSat s r i lo n k).time = s.time := rfl
@[simp] theorem rfSat_mem : (rfSat s r i lo n k).mem = s.mem := rfl
@[simp] theorem rfSat_syn : (rfSat s r i lo n k).syn = s.syn := rfl
@[simp] theorem rfSat_notices : (rfSat s r i lo n k).notices = s.notices := rfl
@[simp] theorem rfSat_host : (rfSat s r i lo n k).host = s.host := rfl
@[simp] theorem rfSat_ses : (rfSat s r i lo n k).ses = s.ses := rfl
@[simp] theorem rfSat_bat : (rfSat s r i lo n k).bat = s.bat := rfl
@[simp] theorem rfSat_gate : (rfSat s r i lo n k).gate = s.gate := rfl
@[simp] theorem rfSat_rafters : (rfSat s r i lo n k).rafters = s.rafters := rfl
@[simp] theorem rfSat_bays : (rfSat s r i lo n k).bays = s.bays := rfl
@[simp] theorem rfSat_spars : (rfSat s r i lo n k).spars = s.spars := rfl
@[simp] theorem rfSat_eaves : (rfSat s r i lo n k).eaves = s.eaves := rfl
@[simp] theorem rfSat_mesh : (rfSat s r i lo n k).mesh = s.mesh := rfl
@[simp] theorem rfSat_queues : (rfSat s r i lo n k).queues = s.queues := rfl
@[simp] theorem rfSat_hbm : (rfSat s r i lo n k).hbm = s.hbm := rfl
@[simp] theorem rfSat_power : (rfSat s r i lo n k).power = s.power := rfl
@[simp] theorem rfSat_heat : (rfSat s r i lo n k).heat = s.heat := rfl
@[simp] theorem rfSat_flash : (rfSat s r i lo n k).flash = s.flash := rfl
@[simp] theorem rfSat_boot : (rfSat s r i lo n k).boot = s.boot := rfl
@[simp] theorem rfSat_stop : (rfSat s r i lo n k).stop = s.stop := rfl
@[simp] theorem rfSat_sec : (rfSat s r i lo n k).sec = s.sec := rfl
@[simp] theorem rfSat_side : (rfSat s r i lo n k).side = s.side := rfl
@[simp] theorem rfSat_ports : (rfSat s r i lo n k).ports = s.ports := rfl
@[simp] theorem rfSat_vly : (rfSat s r i lo n k).vly = s.vly := rfl
@[simp] theorem rfSat_free : (rfSat s r i lo n k).free = s.free := rfl
@[simp] theorem rfSat_rdata : (rfSat s r i lo n k).rdata = s.rdata := rfl

end

/-! ### setBoot -/

section

variable (s : State) (step phase : Nat)

@[simp] theorem setBoot_work : (setBoot s step phase).work = s.work := rfl
@[simp] theorem setBoot_pending : (setBoot s step phase).pending = s.pending := rfl
@[simp] theorem setBoot_fuses : (setBoot s step phase).fuses = s.fuses := rfl
@[simp] theorem setBoot_time : (setBoot s step phase).time = s.time := rfl
@[simp] theorem setBoot_mem : (setBoot s step phase).mem = s.mem := rfl
@[simp] theorem setBoot_syn : (setBoot s step phase).syn = s.syn := rfl
@[simp] theorem setBoot_notices : (setBoot s step phase).notices = s.notices := rfl
@[simp] theorem setBoot_host : (setBoot s step phase).host = s.host := rfl
@[simp] theorem setBoot_ses : (setBoot s step phase).ses = s.ses := rfl
@[simp] theorem setBoot_bat : (setBoot s step phase).bat = s.bat := rfl
@[simp] theorem setBoot_gate : (setBoot s step phase).gate = s.gate := rfl
@[simp] theorem setBoot_rafters : (setBoot s step phase).rafters = s.rafters := rfl
@[simp] theorem setBoot_bays : (setBoot s step phase).bays = s.bays := rfl
@[simp] theorem setBoot_spars : (setBoot s step phase).spars = s.spars := rfl
@[simp] theorem setBoot_eaves : (setBoot s step phase).eaves = s.eaves := rfl
@[simp] theorem setBoot_mesh : (setBoot s step phase).mesh = s.mesh := rfl
@[simp] theorem setBoot_queues : (setBoot s step phase).queues = s.queues := rfl
@[simp] theorem setBoot_hbm : (setBoot s step phase).hbm = s.hbm := rfl
@[simp] theorem setBoot_power : (setBoot s step phase).power = s.power := rfl
@[simp] theorem setBoot_heat : (setBoot s step phase).heat = s.heat := rfl
@[simp] theorem setBoot_flash : (setBoot s step phase).flash = s.flash := rfl
@[simp] theorem setBoot_boot : (setBoot s step phase).boot = s.boot := rfl
@[simp] theorem setBoot_stop : (setBoot s step phase).stop = s.stop := rfl
@[simp] theorem setBoot_sec : (setBoot s step phase).sec = s.sec := rfl
@[simp] theorem setBoot_side : (setBoot s step phase).side = s.side := rfl
@[simp] theorem setBoot_ports : (setBoot s step phase).ports = s.ports := rfl
@[simp] theorem setBoot_vly : (setBoot s step phase).vly = s.vly := rfl
@[simp] theorem setBoot_free : (setBoot s step phase).free = s.free := rfl
@[simp] theorem setBoot_rdata : (setBoot s step phase).rdata = s.rdata := rfl

end

/-! ### setErr -/

section

variable (s : State) (err detail : Nat)

@[simp] theorem setErr_work : (setErr s err detail).work = s.work := rfl
@[simp] theorem setErr_pending : (setErr s err detail).pending = s.pending := rfl
@[simp] theorem setErr_fuses : (setErr s err detail).fuses = s.fuses := rfl
@[simp] theorem setErr_time : (setErr s err detail).time = s.time := rfl
@[simp] theorem setErr_mem : (setErr s err detail).mem = s.mem := rfl
@[simp] theorem setErr_syn : (setErr s err detail).syn = s.syn := rfl
@[simp] theorem setErr_notices : (setErr s err detail).notices = s.notices := rfl
@[simp] theorem setErr_host : (setErr s err detail).host = s.host := rfl
@[simp] theorem setErr_ses : (setErr s err detail).ses = s.ses := rfl
@[simp] theorem setErr_bat : (setErr s err detail).bat = s.bat := rfl
@[simp] theorem setErr_gate : (setErr s err detail).gate = s.gate := rfl
@[simp] theorem setErr_rafters : (setErr s err detail).rafters = s.rafters := rfl
@[simp] theorem setErr_bays : (setErr s err detail).bays = s.bays := rfl
@[simp] theorem setErr_spars : (setErr s err detail).spars = s.spars := rfl
@[simp] theorem setErr_eaves : (setErr s err detail).eaves = s.eaves := rfl
@[simp] theorem setErr_mesh : (setErr s err detail).mesh = s.mesh := rfl
@[simp] theorem setErr_queues : (setErr s err detail).queues = s.queues := rfl
@[simp] theorem setErr_hbm : (setErr s err detail).hbm = s.hbm := rfl
@[simp] theorem setErr_power : (setErr s err detail).power = s.power := rfl
@[simp] theorem setErr_heat : (setErr s err detail).heat = s.heat := rfl
@[simp] theorem setErr_flash : (setErr s err detail).flash = s.flash := rfl
@[simp] theorem setErr_boot : (setErr s err detail).boot = s.boot := rfl
@[simp] theorem setErr_stop : (setErr s err detail).stop = s.stop := rfl
@[simp] theorem setErr_sec : (setErr s err detail).sec = s.sec := rfl
@[simp] theorem setErr_side : (setErr s err detail).side = s.side := rfl
@[simp] theorem setErr_ports : (setErr s err detail).ports = s.ports := rfl
@[simp] theorem setErr_vly : (setErr s err detail).vly = s.vly := rfl
@[simp] theorem setErr_free : (setErr s err detail).free = s.free := rfl
@[simp] theorem setErr_rdata : (setErr s err detail).rdata = s.rdata := rfl

end

/-! ### bootFail -/

section

variable (s : State) (err detail : Nat)

@[simp] theorem bootFail_work : (bootFail s err detail).work = s.work := rfl
@[simp] theorem bootFail_pending : (bootFail s err detail).pending = s.pending := rfl
@[simp] theorem bootFail_fuses : (bootFail s err detail).fuses = s.fuses := rfl
@[simp] theorem bootFail_time : (bootFail s err detail).time = s.time := rfl
@[simp] theorem bootFail_mem : (bootFail s err detail).mem = s.mem := rfl
@[simp] theorem bootFail_syn : (bootFail s err detail).syn = s.syn := rfl
@[simp] theorem bootFail_notices : (bootFail s err detail).notices = s.notices := rfl
@[simp] theorem bootFail_host : (bootFail s err detail).host = s.host := rfl
@[simp] theorem bootFail_ses : (bootFail s err detail).ses = s.ses := rfl
@[simp] theorem bootFail_bat : (bootFail s err detail).bat = s.bat := rfl
@[simp] theorem bootFail_gate : (bootFail s err detail).gate = s.gate := rfl
@[simp] theorem bootFail_rafters : (bootFail s err detail).rafters = s.rafters := rfl
@[simp] theorem bootFail_bays : (bootFail s err detail).bays = s.bays := rfl
@[simp] theorem bootFail_spars : (bootFail s err detail).spars = s.spars := rfl
@[simp] theorem bootFail_eaves : (bootFail s err detail).eaves = s.eaves := rfl
@[simp] theorem bootFail_mesh : (bootFail s err detail).mesh = s.mesh := rfl
@[simp] theorem bootFail_queues : (bootFail s err detail).queues = s.queues := rfl
@[simp] theorem bootFail_hbm : (bootFail s err detail).hbm = s.hbm := rfl
@[simp] theorem bootFail_power : (bootFail s err detail).power = s.power := rfl
@[simp] theorem bootFail_heat : (bootFail s err detail).heat = s.heat := rfl
@[simp] theorem bootFail_flash : (bootFail s err detail).flash = s.flash := rfl
@[simp] theorem bootFail_boot : (bootFail s err detail).boot = s.boot := rfl
@[simp] theorem bootFail_stop : (bootFail s err detail).stop = s.stop := rfl
@[simp] theorem bootFail_sec : (bootFail s err detail).sec = s.sec := rfl
@[simp] theorem bootFail_side : (bootFail s err detail).side = s.side := rfl
@[simp] theorem bootFail_ports : (bootFail s err detail).ports = s.ports := rfl
@[simp] theorem bootFail_vly : (bootFail s err detail).vly = s.vly := rfl
@[simp] theorem bootFail_free : (bootFail s err detail).free = s.free := rfl
@[simp] theorem bootFail_rdata : (bootFail s err detail).rdata = s.rdata := rfl

end

/-! ### advanceTo -/

section

variable (s : State) (t : Nat)

@[simp] theorem advanceTo_work : (advanceTo s t).work = s.work := rfl
@[simp] theorem advanceTo_pending : (advanceTo s t).pending = s.pending := rfl
@[simp] theorem advanceTo_fuses : (advanceTo s t).fuses = s.fuses := rfl
@[simp] theorem advanceTo_regs : (advanceTo s t).regs = s.regs := rfl
@[simp] theorem advanceTo_mem : (advanceTo s t).mem = s.mem := rfl
@[simp] theorem advanceTo_syn : (advanceTo s t).syn = s.syn := rfl
@[simp] theorem advanceTo_notices : (advanceTo s t).notices = s.notices := rfl
@[simp] theorem advanceTo_host : (advanceTo s t).host = s.host := rfl
@[simp] theorem advanceTo_ses : (advanceTo s t).ses = s.ses := rfl
@[simp] theorem advanceTo_bat : (advanceTo s t).bat = s.bat := rfl
@[simp] theorem advanceTo_gate : (advanceTo s t).gate = s.gate := rfl
@[simp] theorem advanceTo_rafters : (advanceTo s t).rafters = s.rafters := rfl
@[simp] theorem advanceTo_bays : (advanceTo s t).bays = s.bays := rfl
@[simp] theorem advanceTo_spars : (advanceTo s t).spars = s.spars := rfl
@[simp] theorem advanceTo_eaves : (advanceTo s t).eaves = s.eaves := rfl
@[simp] theorem advanceTo_mesh : (advanceTo s t).mesh = s.mesh := rfl
@[simp] theorem advanceTo_queues : (advanceTo s t).queues = s.queues := rfl
@[simp] theorem advanceTo_hbm : (advanceTo s t).hbm = s.hbm := rfl
@[simp] theorem advanceTo_power : (advanceTo s t).power = s.power := rfl
@[simp] theorem advanceTo_heat : (advanceTo s t).heat = s.heat := rfl
@[simp] theorem advanceTo_flash : (advanceTo s t).flash = s.flash := rfl
@[simp] theorem advanceTo_boot : (advanceTo s t).boot = s.boot := rfl
@[simp] theorem advanceTo_stop : (advanceTo s t).stop = s.stop := rfl
@[simp] theorem advanceTo_sec : (advanceTo s t).sec = s.sec := rfl
@[simp] theorem advanceTo_side : (advanceTo s t).side = s.side := rfl
@[simp] theorem advanceTo_ports : (advanceTo s t).ports = s.ports := rfl
@[simp] theorem advanceTo_vly : (advanceTo s t).vly = s.vly := rfl
@[simp] theorem advanceTo_free : (advanceTo s t).free = s.free := rfl
@[simp] theorem advanceTo_rdata : (advanceTo s t).rdata = s.rdata := rfl

end

/-! ### dueR -/

section

variable (s : State) (t : Nat)

@[simp] theorem dueR_work : (dueR s t).work = s.work := rfl
@[simp] theorem dueR_pending : (dueR s t).pending = s.pending := rfl
@[simp] theorem dueR_fuses : (dueR s t).fuses = s.fuses := rfl
@[simp] theorem dueR_regs : (dueR s t).regs = s.regs := rfl
@[simp] theorem dueR_mem : (dueR s t).mem = s.mem := rfl
@[simp] theorem dueR_syn : (dueR s t).syn = s.syn := rfl
@[simp] theorem dueR_notices : (dueR s t).notices = s.notices := rfl
@[simp] theorem dueR_host : (dueR s t).host = s.host := rfl
@[simp] theorem dueR_ses : (dueR s t).ses = s.ses := rfl
@[simp] theorem dueR_bat : (dueR s t).bat = s.bat := rfl
@[simp] theorem dueR_gate : (dueR s t).gate = s.gate := rfl
@[simp] theorem dueR_rafters : (dueR s t).rafters = s.rafters := rfl
@[simp] theorem dueR_bays : (dueR s t).bays = s.bays := rfl
@[simp] theorem dueR_spars : (dueR s t).spars = s.spars := rfl
@[simp] theorem dueR_eaves : (dueR s t).eaves = s.eaves := rfl
@[simp] theorem dueR_mesh : (dueR s t).mesh = s.mesh := rfl
@[simp] theorem dueR_queues : (dueR s t).queues = s.queues := rfl
@[simp] theorem dueR_hbm : (dueR s t).hbm = s.hbm := rfl
@[simp] theorem dueR_power : (dueR s t).power = s.power := rfl
@[simp] theorem dueR_heat : (dueR s t).heat = s.heat := rfl
@[simp] theorem dueR_flash : (dueR s t).flash = s.flash := rfl
@[simp] theorem dueR_boot : (dueR s t).boot = s.boot := rfl
@[simp] theorem dueR_stop : (dueR s t).stop = s.stop := rfl
@[simp] theorem dueR_sec : (dueR s t).sec = s.sec := rfl
@[simp] theorem dueR_side : (dueR s t).side = s.side := rfl
@[simp] theorem dueR_ports : (dueR s t).ports = s.ports := rfl
@[simp] theorem dueR_vly : (dueR s t).vly = s.vly := rfl
@[simp] theorem dueR_free : (dueR s t).free = s.free := rfl
@[simp] theorem dueR_rdata : (dueR s t).rdata = s.rdata := rfl

end

/-! ### dueT -/

section

variable (s : State) (t : Nat)

@[simp] theorem dueT_work : (dueT s t).work = s.work := rfl
@[simp] theorem dueT_pending : (dueT s t).pending = s.pending := rfl
@[simp] theorem dueT_fuses : (dueT s t).fuses = s.fuses := rfl
@[simp] theorem dueT_regs : (dueT s t).regs = s.regs := rfl
@[simp] theorem dueT_mem : (dueT s t).mem = s.mem := rfl
@[simp] theorem dueT_syn : (dueT s t).syn = s.syn := rfl
@[simp] theorem dueT_notices : (dueT s t).notices = s.notices := rfl
@[simp] theorem dueT_host : (dueT s t).host = s.host := rfl
@[simp] theorem dueT_ses : (dueT s t).ses = s.ses := rfl
@[simp] theorem dueT_bat : (dueT s t).bat = s.bat := rfl
@[simp] theorem dueT_gate : (dueT s t).gate = s.gate := rfl
@[simp] theorem dueT_rafters : (dueT s t).rafters = s.rafters := rfl
@[simp] theorem dueT_bays : (dueT s t).bays = s.bays := rfl
@[simp] theorem dueT_spars : (dueT s t).spars = s.spars := rfl
@[simp] theorem dueT_eaves : (dueT s t).eaves = s.eaves := rfl
@[simp] theorem dueT_mesh : (dueT s t).mesh = s.mesh := rfl
@[simp] theorem dueT_queues : (dueT s t).queues = s.queues := rfl
@[simp] theorem dueT_hbm : (dueT s t).hbm = s.hbm := rfl
@[simp] theorem dueT_power : (dueT s t).power = s.power := rfl
@[simp] theorem dueT_heat : (dueT s t).heat = s.heat := rfl
@[simp] theorem dueT_flash : (dueT s t).flash = s.flash := rfl
@[simp] theorem dueT_boot : (dueT s t).boot = s.boot := rfl
@[simp] theorem dueT_stop : (dueT s t).stop = s.stop := rfl
@[simp] theorem dueT_sec : (dueT s t).sec = s.sec := rfl
@[simp] theorem dueT_side : (dueT s t).side = s.side := rfl
@[simp] theorem dueT_ports : (dueT s t).ports = s.ports := rfl
@[simp] theorem dueT_vly : (dueT s t).vly = s.vly := rfl
@[simp] theorem dueT_free : (dueT s t).free = s.free := rfl
@[simp] theorem dueT_rdata : (dueT s t).rdata = s.rdata := rfl

end

/-! ### hostSend -/

section

variable (s : State) (x : HostTxn)

@[simp] theorem hostSend_work : (hostSend s x).work = s.work := rfl
@[simp] theorem hostSend_pending : (hostSend s x).pending = s.pending := rfl
@[simp] theorem hostSend_fuses : (hostSend s x).fuses = s.fuses := rfl
@[simp] theorem hostSend_time : (hostSend s x).time = s.time := rfl
@[simp] theorem hostSend_regs : (hostSend s x).regs = s.regs := rfl
@[simp] theorem hostSend_mem : (hostSend s x).mem = s.mem := rfl
@[simp] theorem hostSend_syn : (hostSend s x).syn = s.syn := rfl
@[simp] theorem hostSend_notices : (hostSend s x).notices = s.notices := rfl
@[simp] theorem hostSend_ses : (hostSend s x).ses = s.ses := rfl
@[simp] theorem hostSend_bat : (hostSend s x).bat = s.bat := rfl
@[simp] theorem hostSend_gate : (hostSend s x).gate = s.gate := rfl
@[simp] theorem hostSend_rafters : (hostSend s x).rafters = s.rafters := rfl
@[simp] theorem hostSend_bays : (hostSend s x).bays = s.bays := rfl
@[simp] theorem hostSend_spars : (hostSend s x).spars = s.spars := rfl
@[simp] theorem hostSend_eaves : (hostSend s x).eaves = s.eaves := rfl
@[simp] theorem hostSend_mesh : (hostSend s x).mesh = s.mesh := rfl
@[simp] theorem hostSend_queues : (hostSend s x).queues = s.queues := rfl
@[simp] theorem hostSend_hbm : (hostSend s x).hbm = s.hbm := rfl
@[simp] theorem hostSend_power : (hostSend s x).power = s.power := rfl
@[simp] theorem hostSend_heat : (hostSend s x).heat = s.heat := rfl
@[simp] theorem hostSend_flash : (hostSend s x).flash = s.flash := rfl
@[simp] theorem hostSend_boot : (hostSend s x).boot = s.boot := rfl
@[simp] theorem hostSend_stop : (hostSend s x).stop = s.stop := rfl
@[simp] theorem hostSend_sec : (hostSend s x).sec = s.sec := rfl
@[simp] theorem hostSend_side : (hostSend s x).side = s.side := rfl
@[simp] theorem hostSend_ports : (hostSend s x).ports = s.ports := rfl
@[simp] theorem hostSend_vly : (hostSend s x).vly = s.vly := rfl
@[simp] theorem hostSend_free : (hostSend s x).free = s.free := rfl
@[simp] theorem hostSend_rdata : (hostSend s x).rdata = s.rdata := rfl

end

/-! ### hostRecord -/

section

variable (s : State) (a : Nat) (w0 w1 w2 w3 : Word)

@[simp] theorem hostRecord_work : (hostRecord s a w0 w1 w2 w3).work = s.work := rfl
@[simp] theorem hostRecord_pending : (hostRecord s a w0 w1 w2 w3).pending = s.pending := rfl
@[simp] theorem hostRecord_fuses : (hostRecord s a w0 w1 w2 w3).fuses = s.fuses := rfl
@[simp] theorem hostRecord_time : (hostRecord s a w0 w1 w2 w3).time = s.time := rfl
@[simp] theorem hostRecord_regs : (hostRecord s a w0 w1 w2 w3).regs = s.regs := rfl
@[simp] theorem hostRecord_mem : (hostRecord s a w0 w1 w2 w3).mem = s.mem := rfl
@[simp] theorem hostRecord_syn : (hostRecord s a w0 w1 w2 w3).syn = s.syn := rfl
@[simp] theorem hostRecord_notices : (hostRecord s a w0 w1 w2 w3).notices = s.notices := rfl
@[simp] theorem hostRecord_ses : (hostRecord s a w0 w1 w2 w3).ses = s.ses := rfl
@[simp] theorem hostRecord_bat : (hostRecord s a w0 w1 w2 w3).bat = s.bat := rfl
@[simp] theorem hostRecord_gate : (hostRecord s a w0 w1 w2 w3).gate = s.gate := rfl
@[simp] theorem hostRecord_rafters : (hostRecord s a w0 w1 w2 w3).rafters = s.rafters := rfl
@[simp] theorem hostRecord_bays : (hostRecord s a w0 w1 w2 w3).bays = s.bays := rfl
@[simp] theorem hostRecord_spars : (hostRecord s a w0 w1 w2 w3).spars = s.spars := rfl
@[simp] theorem hostRecord_eaves : (hostRecord s a w0 w1 w2 w3).eaves = s.eaves := rfl
@[simp] theorem hostRecord_mesh : (hostRecord s a w0 w1 w2 w3).mesh = s.mesh := rfl
@[simp] theorem hostRecord_queues : (hostRecord s a w0 w1 w2 w3).queues = s.queues := rfl
@[simp] theorem hostRecord_hbm : (hostRecord s a w0 w1 w2 w3).hbm = s.hbm := rfl
@[simp] theorem hostRecord_power : (hostRecord s a w0 w1 w2 w3).power = s.power := rfl
@[simp] theorem hostRecord_heat : (hostRecord s a w0 w1 w2 w3).heat = s.heat := rfl
@[simp] theorem hostRecord_flash : (hostRecord s a w0 w1 w2 w3).flash = s.flash := rfl
@[simp] theorem hostRecord_boot : (hostRecord s a w0 w1 w2 w3).boot = s.boot := rfl
@[simp] theorem hostRecord_stop : (hostRecord s a w0 w1 w2 w3).stop = s.stop := rfl
@[simp] theorem hostRecord_sec : (hostRecord s a w0 w1 w2 w3).sec = s.sec := rfl
@[simp] theorem hostRecord_side : (hostRecord s a w0 w1 w2 w3).side = s.side := rfl
@[simp] theorem hostRecord_ports : (hostRecord s a w0 w1 w2 w3).ports = s.ports := rfl
@[simp] theorem hostRecord_vly : (hostRecord s a w0 w1 w2 w3).vly = s.vly := rfl
@[simp] theorem hostRecord_free : (hostRecord s a w0 w1 w2 w3).free = s.free := rfl
@[simp] theorem hostRecord_rdata : (hostRecord s a w0 w1 w2 w3).rdata = s.rdata := rfl

end

/-! ### setRaf -/

section

variable (s : State) (n : Nat) (r : Rafter)

@[simp] theorem setRaf_pending : (setRaf s n r).pending = s.pending := rfl
@[simp] theorem setRaf_fuses : (setRaf s n r).fuses = s.fuses := rfl
@[simp] theorem setRaf_time : (setRaf s n r).time = s.time := rfl
@[simp] theorem setRaf_regs : (setRaf s n r).regs = s.regs := rfl
@[simp] theorem setRaf_mem : (setRaf s n r).mem = s.mem := rfl
@[simp] theorem setRaf_syn : (setRaf s n r).syn = s.syn := rfl
@[simp] theorem setRaf_notices : (setRaf s n r).notices = s.notices := rfl
@[simp] theorem setRaf_host : (setRaf s n r).host = s.host := rfl
@[simp] theorem setRaf_ses : (setRaf s n r).ses = s.ses := rfl
@[simp] theorem setRaf_bat : (setRaf s n r).bat = s.bat := rfl
@[simp] theorem setRaf_gate : (setRaf s n r).gate = s.gate := rfl
@[simp] theorem setRaf_bays : (setRaf s n r).bays = s.bays := rfl
@[simp] theorem setRaf_spars : (setRaf s n r).spars = s.spars := rfl
@[simp] theorem setRaf_eaves : (setRaf s n r).eaves = s.eaves := rfl
@[simp] theorem setRaf_mesh : (setRaf s n r).mesh = s.mesh := rfl
@[simp] theorem setRaf_queues : (setRaf s n r).queues = s.queues := rfl
@[simp] theorem setRaf_hbm : (setRaf s n r).hbm = s.hbm := rfl
@[simp] theorem setRaf_power : (setRaf s n r).power = s.power := rfl
@[simp] theorem setRaf_heat : (setRaf s n r).heat = s.heat := rfl
@[simp] theorem setRaf_flash : (setRaf s n r).flash = s.flash := rfl
@[simp] theorem setRaf_boot : (setRaf s n r).boot = s.boot := rfl
@[simp] theorem setRaf_stop : (setRaf s n r).stop = s.stop := rfl
@[simp] theorem setRaf_sec : (setRaf s n r).sec = s.sec := rfl
@[simp] theorem setRaf_side : (setRaf s n r).side = s.side := rfl
@[simp] theorem setRaf_ports : (setRaf s n r).ports = s.ports := rfl
@[simp] theorem setRaf_vly : (setRaf s n r).vly = s.vly := rfl
@[simp] theorem setRaf_free : (setRaf s n r).free = s.free := rfl
@[simp] theorem setRaf_rdata : (setRaf s n r).rdata = s.rdata := rfl

end

/-! ### modRaf -/

section

variable (s : State) (n : Nat) (f : Rafter → Rafter)

@[simp] theorem modRaf_pending : (modRaf s n f).pending = s.pending := rfl
@[simp] theorem modRaf_fuses : (modRaf s n f).fuses = s.fuses := rfl
@[simp] theorem modRaf_time : (modRaf s n f).time = s.time := rfl
@[simp] theorem modRaf_regs : (modRaf s n f).regs = s.regs := rfl
@[simp] theorem modRaf_mem : (modRaf s n f).mem = s.mem := rfl
@[simp] theorem modRaf_syn : (modRaf s n f).syn = s.syn := rfl
@[simp] theorem modRaf_notices : (modRaf s n f).notices = s.notices := rfl
@[simp] theorem modRaf_host : (modRaf s n f).host = s.host := rfl
@[simp] theorem modRaf_ses : (modRaf s n f).ses = s.ses := rfl
@[simp] theorem modRaf_bat : (modRaf s n f).bat = s.bat := rfl
@[simp] theorem modRaf_gate : (modRaf s n f).gate = s.gate := rfl
@[simp] theorem modRaf_bays : (modRaf s n f).bays = s.bays := rfl
@[simp] theorem modRaf_spars : (modRaf s n f).spars = s.spars := rfl
@[simp] theorem modRaf_eaves : (modRaf s n f).eaves = s.eaves := rfl
@[simp] theorem modRaf_mesh : (modRaf s n f).mesh = s.mesh := rfl
@[simp] theorem modRaf_queues : (modRaf s n f).queues = s.queues := rfl
@[simp] theorem modRaf_hbm : (modRaf s n f).hbm = s.hbm := rfl
@[simp] theorem modRaf_power : (modRaf s n f).power = s.power := rfl
@[simp] theorem modRaf_heat : (modRaf s n f).heat = s.heat := rfl
@[simp] theorem modRaf_flash : (modRaf s n f).flash = s.flash := rfl
@[simp] theorem modRaf_boot : (modRaf s n f).boot = s.boot := rfl
@[simp] theorem modRaf_stop : (modRaf s n f).stop = s.stop := rfl
@[simp] theorem modRaf_sec : (modRaf s n f).sec = s.sec := rfl
@[simp] theorem modRaf_side : (modRaf s n f).side = s.side := rfl
@[simp] theorem modRaf_ports : (modRaf s n f).ports = s.ports := rfl
@[simp] theorem modRaf_vly : (modRaf s n f).vly = s.vly := rfl
@[simp] theorem modRaf_free : (modRaf s n f).free = s.free := rfl
@[simp] theorem modRaf_rdata : (modRaf s n f).rdata = s.rdata := rfl

end

/-! ### setBay -/

section

variable (s : State) (b : Nat) (x : Bay)

@[simp] theorem setBay_work : (setBay s b x).work = s.work := rfl
@[simp] theorem setBay_pending : (setBay s b x).pending = s.pending := rfl
@[simp] theorem setBay_fuses : (setBay s b x).fuses = s.fuses := rfl
@[simp] theorem setBay_time : (setBay s b x).time = s.time := rfl
@[simp] theorem setBay_regs : (setBay s b x).regs = s.regs := rfl
@[simp] theorem setBay_mem : (setBay s b x).mem = s.mem := rfl
@[simp] theorem setBay_syn : (setBay s b x).syn = s.syn := rfl
@[simp] theorem setBay_notices : (setBay s b x).notices = s.notices := rfl
@[simp] theorem setBay_host : (setBay s b x).host = s.host := rfl
@[simp] theorem setBay_ses : (setBay s b x).ses = s.ses := rfl
@[simp] theorem setBay_bat : (setBay s b x).bat = s.bat := rfl
@[simp] theorem setBay_gate : (setBay s b x).gate = s.gate := rfl
@[simp] theorem setBay_rafters : (setBay s b x).rafters = s.rafters := rfl
@[simp] theorem setBay_spars : (setBay s b x).spars = s.spars := rfl
@[simp] theorem setBay_eaves : (setBay s b x).eaves = s.eaves := rfl
@[simp] theorem setBay_mesh : (setBay s b x).mesh = s.mesh := rfl
@[simp] theorem setBay_queues : (setBay s b x).queues = s.queues := rfl
@[simp] theorem setBay_hbm : (setBay s b x).hbm = s.hbm := rfl
@[simp] theorem setBay_power : (setBay s b x).power = s.power := rfl
@[simp] theorem setBay_heat : (setBay s b x).heat = s.heat := rfl
@[simp] theorem setBay_flash : (setBay s b x).flash = s.flash := rfl
@[simp] theorem setBay_boot : (setBay s b x).boot = s.boot := rfl
@[simp] theorem setBay_stop : (setBay s b x).stop = s.stop := rfl
@[simp] theorem setBay_sec : (setBay s b x).sec = s.sec := rfl
@[simp] theorem setBay_side : (setBay s b x).side = s.side := rfl
@[simp] theorem setBay_ports : (setBay s b x).ports = s.ports := rfl
@[simp] theorem setBay_vly : (setBay s b x).vly = s.vly := rfl
@[simp] theorem setBay_free : (setBay s b x).free = s.free := rfl
@[simp] theorem setBay_rdata : (setBay s b x).rdata = s.rdata := rfl

end

/-! ### setStack -/

section

variable (s : State) (t : Nat) (x : Stack)

@[simp] theorem setStack_work : (setStack s t x).work = s.work := rfl
@[simp] theorem setStack_pending : (setStack s t x).pending = s.pending := rfl
@[simp] theorem setStack_fuses : (setStack s t x).fuses = s.fuses := rfl
@[simp] theorem setStack_time : (setStack s t x).time = s.time := rfl
@[simp] theorem setStack_regs : (setStack s t x).regs = s.regs := rfl
@[simp] theorem setStack_mem : (setStack s t x).mem = s.mem := rfl
@[simp] theorem setStack_syn : (setStack s t x).syn = s.syn := rfl
@[simp] theorem setStack_notices : (setStack s t x).notices = s.notices := rfl
@[simp] theorem setStack_host : (setStack s t x).host = s.host := rfl
@[simp] theorem setStack_ses : (setStack s t x).ses = s.ses := rfl
@[simp] theorem setStack_bat : (setStack s t x).bat = s.bat := rfl
@[simp] theorem setStack_gate : (setStack s t x).gate = s.gate := rfl
@[simp] theorem setStack_rafters : (setStack s t x).rafters = s.rafters := rfl
@[simp] theorem setStack_bays : (setStack s t x).bays = s.bays := rfl
@[simp] theorem setStack_spars : (setStack s t x).spars = s.spars := rfl
@[simp] theorem setStack_eaves : (setStack s t x).eaves = s.eaves := rfl
@[simp] theorem setStack_mesh : (setStack s t x).mesh = s.mesh := rfl
@[simp] theorem setStack_queues : (setStack s t x).queues = s.queues := rfl
@[simp] theorem setStack_power : (setStack s t x).power = s.power := rfl
@[simp] theorem setStack_heat : (setStack s t x).heat = s.heat := rfl
@[simp] theorem setStack_flash : (setStack s t x).flash = s.flash := rfl
@[simp] theorem setStack_boot : (setStack s t x).boot = s.boot := rfl
@[simp] theorem setStack_stop : (setStack s t x).stop = s.stop := rfl
@[simp] theorem setStack_sec : (setStack s t x).sec = s.sec := rfl
@[simp] theorem setStack_side : (setStack s t x).side = s.side := rfl
@[simp] theorem setStack_ports : (setStack s t x).ports = s.ports := rfl
@[simp] theorem setStack_vly : (setStack s t x).vly = s.vly := rfl
@[simp] theorem setStack_free : (setStack s t x).free = s.free := rfl
@[simp] theorem setStack_rdata : (setStack s t x).rdata = s.rdata := rfl

end

/-! ### setPort -/

section

variable (s : State) (p : Nat) (x : Port)

@[simp] theorem setPort_work : (setPort s p x).work = s.work := rfl
@[simp] theorem setPort_pending : (setPort s p x).pending = s.pending := rfl
@[simp] theorem setPort_fuses : (setPort s p x).fuses = s.fuses := rfl
@[simp] theorem setPort_time : (setPort s p x).time = s.time := rfl
@[simp] theorem setPort_regs : (setPort s p x).regs = s.regs := rfl
@[simp] theorem setPort_mem : (setPort s p x).mem = s.mem := rfl
@[simp] theorem setPort_syn : (setPort s p x).syn = s.syn := rfl
@[simp] theorem setPort_notices : (setPort s p x).notices = s.notices := rfl
@[simp] theorem setPort_host : (setPort s p x).host = s.host := rfl
@[simp] theorem setPort_ses : (setPort s p x).ses = s.ses := rfl
@[simp] theorem setPort_bat : (setPort s p x).bat = s.bat := rfl
@[simp] theorem setPort_gate : (setPort s p x).gate = s.gate := rfl
@[simp] theorem setPort_rafters : (setPort s p x).rafters = s.rafters := rfl
@[simp] theorem setPort_bays : (setPort s p x).bays = s.bays := rfl
@[simp] theorem setPort_spars : (setPort s p x).spars = s.spars := rfl
@[simp] theorem setPort_eaves : (setPort s p x).eaves = s.eaves := rfl
@[simp] theorem setPort_mesh : (setPort s p x).mesh = s.mesh := rfl
@[simp] theorem setPort_queues : (setPort s p x).queues = s.queues := rfl
@[simp] theorem setPort_hbm : (setPort s p x).hbm = s.hbm := rfl
@[simp] theorem setPort_power : (setPort s p x).power = s.power := rfl
@[simp] theorem setPort_heat : (setPort s p x).heat = s.heat := rfl
@[simp] theorem setPort_flash : (setPort s p x).flash = s.flash := rfl
@[simp] theorem setPort_boot : (setPort s p x).boot = s.boot := rfl
@[simp] theorem setPort_stop : (setPort s p x).stop = s.stop := rfl
@[simp] theorem setPort_sec : (setPort s p x).sec = s.sec := rfl
@[simp] theorem setPort_side : (setPort s p x).side = s.side := rfl
@[simp] theorem setPort_vly : (setPort s p x).vly = s.vly := rfl
@[simp] theorem setPort_free : (setPort s p x).free = s.free := rfl
@[simp] theorem setPort_rdata : (setPort s p x).rdata = s.rdata := rfl

end

/-! ### setVend -/

section

variable (s : State) (i : Nat) (e : VEnd)

@[simp] theorem setVend_work : (setVend s i e).work = s.work := rfl
@[simp] theorem setVend_pending : (setVend s i e).pending = s.pending := rfl
@[simp] theorem setVend_fuses : (setVend s i e).fuses = s.fuses := rfl
@[simp] theorem setVend_time : (setVend s i e).time = s.time := rfl
@[simp] theorem setVend_regs : (setVend s i e).regs = s.regs := rfl
@[simp] theorem setVend_mem : (setVend s i e).mem = s.mem := rfl
@[simp] theorem setVend_syn : (setVend s i e).syn = s.syn := rfl
@[simp] theorem setVend_notices : (setVend s i e).notices = s.notices := rfl
@[simp] theorem setVend_host : (setVend s i e).host = s.host := rfl
@[simp] theorem setVend_ses : (setVend s i e).ses = s.ses := rfl
@[simp] theorem setVend_bat : (setVend s i e).bat = s.bat := rfl
@[simp] theorem setVend_gate : (setVend s i e).gate = s.gate := rfl
@[simp] theorem setVend_rafters : (setVend s i e).rafters = s.rafters := rfl
@[simp] theorem setVend_bays : (setVend s i e).bays = s.bays := rfl
@[simp] theorem setVend_spars : (setVend s i e).spars = s.spars := rfl
@[simp] theorem setVend_eaves : (setVend s i e).eaves = s.eaves := rfl
@[simp] theorem setVend_mesh : (setVend s i e).mesh = s.mesh := rfl
@[simp] theorem setVend_queues : (setVend s i e).queues = s.queues := rfl
@[simp] theorem setVend_hbm : (setVend s i e).hbm = s.hbm := rfl
@[simp] theorem setVend_power : (setVend s i e).power = s.power := rfl
@[simp] theorem setVend_heat : (setVend s i e).heat = s.heat := rfl
@[simp] theorem setVend_flash : (setVend s i e).flash = s.flash := rfl
@[simp] theorem setVend_boot : (setVend s i e).boot = s.boot := rfl
@[simp] theorem setVend_stop : (setVend s i e).stop = s.stop := rfl
@[simp] theorem setVend_sec : (setVend s i e).sec = s.sec := rfl
@[simp] theorem setVend_side : (setVend s i e).side = s.side := rfl
@[simp] theorem setVend_ports : (setVend s i e).ports = s.ports := rfl
@[simp] theorem setVend_free : (setVend s i e).free = s.free := rfl
@[simp] theorem setVend_rdata : (setVend s i e).rdata = s.rdata := rfl

end

/-! ### modVend -/

section

variable (s : State) (i : Nat) (f : VEnd → VEnd)

@[simp] theorem modVend_work : (modVend s i f).work = s.work := rfl
@[simp] theorem modVend_pending : (modVend s i f).pending = s.pending := rfl
@[simp] theorem modVend_fuses : (modVend s i f).fuses = s.fuses := rfl
@[simp] theorem modVend_time : (modVend s i f).time = s.time := rfl
@[simp] theorem modVend_regs : (modVend s i f).regs = s.regs := rfl
@[simp] theorem modVend_mem : (modVend s i f).mem = s.mem := rfl
@[simp] theorem modVend_syn : (modVend s i f).syn = s.syn := rfl
@[simp] theorem modVend_notices : (modVend s i f).notices = s.notices := rfl
@[simp] theorem modVend_host : (modVend s i f).host = s.host := rfl
@[simp] theorem modVend_ses : (modVend s i f).ses = s.ses := rfl
@[simp] theorem modVend_bat : (modVend s i f).bat = s.bat := rfl
@[simp] theorem modVend_gate : (modVend s i f).gate = s.gate := rfl
@[simp] theorem modVend_rafters : (modVend s i f).rafters = s.rafters := rfl
@[simp] theorem modVend_bays : (modVend s i f).bays = s.bays := rfl
@[simp] theorem modVend_spars : (modVend s i f).spars = s.spars := rfl
@[simp] theorem modVend_eaves : (modVend s i f).eaves = s.eaves := rfl
@[simp] theorem modVend_mesh : (modVend s i f).mesh = s.mesh := rfl
@[simp] theorem modVend_queues : (modVend s i f).queues = s.queues := rfl
@[simp] theorem modVend_hbm : (modVend s i f).hbm = s.hbm := rfl
@[simp] theorem modVend_power : (modVend s i f).power = s.power := rfl
@[simp] theorem modVend_heat : (modVend s i f).heat = s.heat := rfl
@[simp] theorem modVend_flash : (modVend s i f).flash = s.flash := rfl
@[simp] theorem modVend_boot : (modVend s i f).boot = s.boot := rfl
@[simp] theorem modVend_stop : (modVend s i f).stop = s.stop := rfl
@[simp] theorem modVend_sec : (modVend s i f).sec = s.sec := rfl
@[simp] theorem modVend_side : (modVend s i f).side = s.side := rfl
@[simp] theorem modVend_ports : (modVend s i f).ports = s.ports := rfl
@[simp] theorem modVend_free : (modVend s i f).free = s.free := rfl
@[simp] theorem modVend_rdata : (modVend s i f).rdata = s.rdata := rfl

end

/-! ### setSes -/

section

variable (s : State) (i : Nat) (x : Session)

@[simp] theorem setSes_work : (setSes s i x).work = s.work := rfl
@[simp] theorem setSes_pending : (setSes s i x).pending = s.pending := rfl
@[simp] theorem setSes_fuses : (setSes s i x).fuses = s.fuses := rfl
@[simp] theorem setSes_time : (setSes s i x).time = s.time := rfl
@[simp] theorem setSes_regs : (setSes s i x).regs = s.regs := rfl
@[simp] theorem setSes_mem : (setSes s i x).mem = s.mem := rfl
@[simp] theorem setSes_syn : (setSes s i x).syn = s.syn := rfl
@[simp] theorem setSes_notices : (setSes s i x).notices = s.notices := rfl
@[simp] theorem setSes_host : (setSes s i x).host = s.host := rfl
@[simp] theorem setSes_bat : (setSes s i x).bat = s.bat := rfl
@[simp] theorem setSes_gate : (setSes s i x).gate = s.gate := rfl
@[simp] theorem setSes_rafters : (setSes s i x).rafters = s.rafters := rfl
@[simp] theorem setSes_bays : (setSes s i x).bays = s.bays := rfl
@[simp] theorem setSes_spars : (setSes s i x).spars = s.spars := rfl
@[simp] theorem setSes_eaves : (setSes s i x).eaves = s.eaves := rfl
@[simp] theorem setSes_mesh : (setSes s i x).mesh = s.mesh := rfl
@[simp] theorem setSes_queues : (setSes s i x).queues = s.queues := rfl
@[simp] theorem setSes_hbm : (setSes s i x).hbm = s.hbm := rfl
@[simp] theorem setSes_power : (setSes s i x).power = s.power := rfl
@[simp] theorem setSes_heat : (setSes s i x).heat = s.heat := rfl
@[simp] theorem setSes_flash : (setSes s i x).flash = s.flash := rfl
@[simp] theorem setSes_boot : (setSes s i x).boot = s.boot := rfl
@[simp] theorem setSes_stop : (setSes s i x).stop = s.stop := rfl
@[simp] theorem setSes_sec : (setSes s i x).sec = s.sec := rfl
@[simp] theorem setSes_side : (setSes s i x).side = s.side := rfl
@[simp] theorem setSes_ports : (setSes s i x).ports = s.ports := rfl
@[simp] theorem setSes_vly : (setSes s i x).vly = s.vly := rfl
@[simp] theorem setSes_free : (setSes s i x).free = s.free := rfl
@[simp] theorem setSes_rdata : (setSes s i x).rdata = s.rdata := rfl

end

/-! ### modSes -/

section

variable (s : State) (i : Nat) (f : Session → Session)

@[simp] theorem modSes_work : (modSes s i f).work = s.work := rfl
@[simp] theorem modSes_pending : (modSes s i f).pending = s.pending := rfl
@[simp] theorem modSes_fuses : (modSes s i f).fuses = s.fuses := rfl
@[simp] theorem modSes_time : (modSes s i f).time = s.time := rfl
@[simp] theorem modSes_regs : (modSes s i f).regs = s.regs := rfl
@[simp] theorem modSes_mem : (modSes s i f).mem = s.mem := rfl
@[simp] theorem modSes_syn : (modSes s i f).syn = s.syn := rfl
@[simp] theorem modSes_notices : (modSes s i f).notices = s.notices := rfl
@[simp] theorem modSes_host : (modSes s i f).host = s.host := rfl
@[simp] theorem modSes_bat : (modSes s i f).bat = s.bat := rfl
@[simp] theorem modSes_gate : (modSes s i f).gate = s.gate := rfl
@[simp] theorem modSes_rafters : (modSes s i f).rafters = s.rafters := rfl
@[simp] theorem modSes_bays : (modSes s i f).bays = s.bays := rfl
@[simp] theorem modSes_spars : (modSes s i f).spars = s.spars := rfl
@[simp] theorem modSes_eaves : (modSes s i f).eaves = s.eaves := rfl
@[simp] theorem modSes_mesh : (modSes s i f).mesh = s.mesh := rfl
@[simp] theorem modSes_queues : (modSes s i f).queues = s.queues := rfl
@[simp] theorem modSes_hbm : (modSes s i f).hbm = s.hbm := rfl
@[simp] theorem modSes_power : (modSes s i f).power = s.power := rfl
@[simp] theorem modSes_heat : (modSes s i f).heat = s.heat := rfl
@[simp] theorem modSes_flash : (modSes s i f).flash = s.flash := rfl
@[simp] theorem modSes_boot : (modSes s i f).boot = s.boot := rfl
@[simp] theorem modSes_stop : (modSes s i f).stop = s.stop := rfl
@[simp] theorem modSes_sec : (modSes s i f).sec = s.sec := rfl
@[simp] theorem modSes_side : (modSes s i f).side = s.side := rfl
@[simp] theorem modSes_ports : (modSes s i f).ports = s.ports := rfl
@[simp] theorem modSes_vly : (modSes s i f).vly = s.vly := rfl
@[simp] theorem modSes_free : (modSes s i f).free = s.free := rfl
@[simp] theorem modSes_rdata : (modSes s i f).rdata = s.rdata := rfl

end

/-! ### setSpar -/

section

variable (s : State) (n : Nat) (x : Spar)

@[simp] theorem setSpar_work : (setSpar s n x).work = s.work := rfl
@[simp] theorem setSpar_pending : (setSpar s n x).pending = s.pending := rfl
@[simp] theorem setSpar_fuses : (setSpar s n x).fuses = s.fuses := rfl
@[simp] theorem setSpar_time : (setSpar s n x).time = s.time := rfl
@[simp] theorem setSpar_regs : (setSpar s n x).regs = s.regs := rfl
@[simp] theorem setSpar_mem : (setSpar s n x).mem = s.mem := rfl
@[simp] theorem setSpar_syn : (setSpar s n x).syn = s.syn := rfl
@[simp] theorem setSpar_notices : (setSpar s n x).notices = s.notices := rfl
@[simp] theorem setSpar_host : (setSpar s n x).host = s.host := rfl
@[simp] theorem setSpar_ses : (setSpar s n x).ses = s.ses := rfl
@[simp] theorem setSpar_bat : (setSpar s n x).bat = s.bat := rfl
@[simp] theorem setSpar_gate : (setSpar s n x).gate = s.gate := rfl
@[simp] theorem setSpar_rafters : (setSpar s n x).rafters = s.rafters := rfl
@[simp] theorem setSpar_bays : (setSpar s n x).bays = s.bays := rfl
@[simp] theorem setSpar_eaves : (setSpar s n x).eaves = s.eaves := rfl
@[simp] theorem setSpar_mesh : (setSpar s n x).mesh = s.mesh := rfl
@[simp] theorem setSpar_queues : (setSpar s n x).queues = s.queues := rfl
@[simp] theorem setSpar_hbm : (setSpar s n x).hbm = s.hbm := rfl
@[simp] theorem setSpar_power : (setSpar s n x).power = s.power := rfl
@[simp] theorem setSpar_heat : (setSpar s n x).heat = s.heat := rfl
@[simp] theorem setSpar_flash : (setSpar s n x).flash = s.flash := rfl
@[simp] theorem setSpar_boot : (setSpar s n x).boot = s.boot := rfl
@[simp] theorem setSpar_stop : (setSpar s n x).stop = s.stop := rfl
@[simp] theorem setSpar_sec : (setSpar s n x).sec = s.sec := rfl
@[simp] theorem setSpar_side : (setSpar s n x).side = s.side := rfl
@[simp] theorem setSpar_ports : (setSpar s n x).ports = s.ports := rfl
@[simp] theorem setSpar_vly : (setSpar s n x).vly = s.vly := rfl
@[simp] theorem setSpar_free : (setSpar s n x).free = s.free := rfl
@[simp] theorem setSpar_rdata : (setSpar s n x).rdata = s.rdata := rfl

end

/-! ### setEaves -/

section

variable (s : State) (e : Nat) (x : Eaves)

@[simp] theorem setEaves_work : (setEaves s e x).work = s.work := rfl
@[simp] theorem setEaves_pending : (setEaves s e x).pending = s.pending := rfl
@[simp] theorem setEaves_fuses : (setEaves s e x).fuses = s.fuses := rfl
@[simp] theorem setEaves_time : (setEaves s e x).time = s.time := rfl
@[simp] theorem setEaves_regs : (setEaves s e x).regs = s.regs := rfl
@[simp] theorem setEaves_mem : (setEaves s e x).mem = s.mem := rfl
@[simp] theorem setEaves_syn : (setEaves s e x).syn = s.syn := rfl
@[simp] theorem setEaves_notices : (setEaves s e x).notices = s.notices := rfl
@[simp] theorem setEaves_host : (setEaves s e x).host = s.host := rfl
@[simp] theorem setEaves_ses : (setEaves s e x).ses = s.ses := rfl
@[simp] theorem setEaves_bat : (setEaves s e x).bat = s.bat := rfl
@[simp] theorem setEaves_gate : (setEaves s e x).gate = s.gate := rfl
@[simp] theorem setEaves_rafters : (setEaves s e x).rafters = s.rafters := rfl
@[simp] theorem setEaves_bays : (setEaves s e x).bays = s.bays := rfl
@[simp] theorem setEaves_spars : (setEaves s e x).spars = s.spars := rfl
@[simp] theorem setEaves_mesh : (setEaves s e x).mesh = s.mesh := rfl
@[simp] theorem setEaves_queues : (setEaves s e x).queues = s.queues := rfl
@[simp] theorem setEaves_hbm : (setEaves s e x).hbm = s.hbm := rfl
@[simp] theorem setEaves_power : (setEaves s e x).power = s.power := rfl
@[simp] theorem setEaves_heat : (setEaves s e x).heat = s.heat := rfl
@[simp] theorem setEaves_flash : (setEaves s e x).flash = s.flash := rfl
@[simp] theorem setEaves_boot : (setEaves s e x).boot = s.boot := rfl
@[simp] theorem setEaves_stop : (setEaves s e x).stop = s.stop := rfl
@[simp] theorem setEaves_sec : (setEaves s e x).sec = s.sec := rfl
@[simp] theorem setEaves_side : (setEaves s e x).side = s.side := rfl
@[simp] theorem setEaves_ports : (setEaves s e x).ports = s.ports := rfl
@[simp] theorem setEaves_vly : (setEaves s e x).vly = s.vly := rfl
@[simp] theorem setEaves_free : (setEaves s e x).free = s.free := rfl
@[simp] theorem setEaves_rdata : (setEaves s e x).rdata = s.rdata := rfl

end

/-! ### setFeed -/

section

variable (s : State) (f : Nat) (x : Feed)

@[simp] theorem setFeed_work : (setFeed s f x).work = s.work := rfl
@[simp] theorem setFeed_pending : (setFeed s f x).pending = s.pending := rfl
@[simp] theorem setFeed_fuses : (setFeed s f x).fuses = s.fuses := rfl
@[simp] theorem setFeed_time : (setFeed s f x).time = s.time := rfl
@[simp] theorem setFeed_regs : (setFeed s f x).regs = s.regs := rfl
@[simp] theorem setFeed_mem : (setFeed s f x).mem = s.mem := rfl
@[simp] theorem setFeed_syn : (setFeed s f x).syn = s.syn := rfl
@[simp] theorem setFeed_notices : (setFeed s f x).notices = s.notices := rfl
@[simp] theorem setFeed_host : (setFeed s f x).host = s.host := rfl
@[simp] theorem setFeed_ses : (setFeed s f x).ses = s.ses := rfl
@[simp] theorem setFeed_bat : (setFeed s f x).bat = s.bat := rfl
@[simp] theorem setFeed_gate : (setFeed s f x).gate = s.gate := rfl
@[simp] theorem setFeed_rafters : (setFeed s f x).rafters = s.rafters := rfl
@[simp] theorem setFeed_bays : (setFeed s f x).bays = s.bays := rfl
@[simp] theorem setFeed_spars : (setFeed s f x).spars = s.spars := rfl
@[simp] theorem setFeed_eaves : (setFeed s f x).eaves = s.eaves := rfl
@[simp] theorem setFeed_mesh : (setFeed s f x).mesh = s.mesh := rfl
@[simp] theorem setFeed_queues : (setFeed s f x).queues = s.queues := rfl
@[simp] theorem setFeed_hbm : (setFeed s f x).hbm = s.hbm := rfl
@[simp] theorem setFeed_heat : (setFeed s f x).heat = s.heat := rfl
@[simp] theorem setFeed_flash : (setFeed s f x).flash = s.flash := rfl
@[simp] theorem setFeed_boot : (setFeed s f x).boot = s.boot := rfl
@[simp] theorem setFeed_stop : (setFeed s f x).stop = s.stop := rfl
@[simp] theorem setFeed_sec : (setFeed s f x).sec = s.sec := rfl
@[simp] theorem setFeed_side : (setFeed s f x).side = s.side := rfl
@[simp] theorem setFeed_ports : (setFeed s f x).ports = s.ports := rfl
@[simp] theorem setFeed_vly : (setFeed s f x).vly = s.vly := rfl
@[simp] theorem setFeed_free : (setFeed s f x).free = s.free := rfl
@[simp] theorem setFeed_rdata : (setFeed s f x).rdata = s.rdata := rfl

end

/-! ### setQueue -/

section

variable (s : State) (q : Nat) (x : Queue)

@[simp] theorem setQueue_work : (setQueue s q x).work = s.work := rfl
@[simp] theorem setQueue_pending : (setQueue s q x).pending = s.pending := rfl
@[simp] theorem setQueue_fuses : (setQueue s q x).fuses = s.fuses := rfl
@[simp] theorem setQueue_time : (setQueue s q x).time = s.time := rfl
@[simp] theorem setQueue_regs : (setQueue s q x).regs = s.regs := rfl
@[simp] theorem setQueue_mem : (setQueue s q x).mem = s.mem := rfl
@[simp] theorem setQueue_syn : (setQueue s q x).syn = s.syn := rfl
@[simp] theorem setQueue_notices : (setQueue s q x).notices = s.notices := rfl
@[simp] theorem setQueue_host : (setQueue s q x).host = s.host := rfl
@[simp] theorem setQueue_ses : (setQueue s q x).ses = s.ses := rfl
@[simp] theorem setQueue_bat : (setQueue s q x).bat = s.bat := rfl
@[simp] theorem setQueue_gate : (setQueue s q x).gate = s.gate := rfl
@[simp] theorem setQueue_rafters : (setQueue s q x).rafters = s.rafters := rfl
@[simp] theorem setQueue_bays : (setQueue s q x).bays = s.bays := rfl
@[simp] theorem setQueue_spars : (setQueue s q x).spars = s.spars := rfl
@[simp] theorem setQueue_eaves : (setQueue s q x).eaves = s.eaves := rfl
@[simp] theorem setQueue_mesh : (setQueue s q x).mesh = s.mesh := rfl
@[simp] theorem setQueue_hbm : (setQueue s q x).hbm = s.hbm := rfl
@[simp] theorem setQueue_power : (setQueue s q x).power = s.power := rfl
@[simp] theorem setQueue_heat : (setQueue s q x).heat = s.heat := rfl
@[simp] theorem setQueue_flash : (setQueue s q x).flash = s.flash := rfl
@[simp] theorem setQueue_boot : (setQueue s q x).boot = s.boot := rfl
@[simp] theorem setQueue_stop : (setQueue s q x).stop = s.stop := rfl
@[simp] theorem setQueue_sec : (setQueue s q x).sec = s.sec := rfl
@[simp] theorem setQueue_side : (setQueue s q x).side = s.side := rfl
@[simp] theorem setQueue_ports : (setQueue s q x).ports = s.ports := rfl
@[simp] theorem setQueue_vly : (setQueue s q x).vly = s.vly := rfl
@[simp] theorem setQueue_free : (setQueue s q x).free = s.free := rfl
@[simp] theorem setQueue_rdata : (setQueue s q x).rdata = s.rdata := rfl

end

/-! ### takeFree -/

section

variable (s : State)

@[simp] theorem takeFree_work : (takeFree s).1.work = s.work := rfl
@[simp] theorem takeFree_pending : (takeFree s).1.pending = s.pending := rfl
@[simp] theorem takeFree_fuses : (takeFree s).1.fuses = s.fuses := rfl
@[simp] theorem takeFree_time : (takeFree s).1.time = s.time := rfl
@[simp] theorem takeFree_regs : (takeFree s).1.regs = s.regs := rfl
@[simp] theorem takeFree_mem : (takeFree s).1.mem = s.mem := rfl
@[simp] theorem takeFree_syn : (takeFree s).1.syn = s.syn := rfl
@[simp] theorem takeFree_notices : (takeFree s).1.notices = s.notices := rfl
@[simp] theorem takeFree_host : (takeFree s).1.host = s.host := rfl
@[simp] theorem takeFree_ses : (takeFree s).1.ses = s.ses := rfl
@[simp] theorem takeFree_bat : (takeFree s).1.bat = s.bat := rfl
@[simp] theorem takeFree_gate : (takeFree s).1.gate = s.gate := rfl
@[simp] theorem takeFree_rafters : (takeFree s).1.rafters = s.rafters := rfl
@[simp] theorem takeFree_bays : (takeFree s).1.bays = s.bays := rfl
@[simp] theorem takeFree_spars : (takeFree s).1.spars = s.spars := rfl
@[simp] theorem takeFree_eaves : (takeFree s).1.eaves = s.eaves := rfl
@[simp] theorem takeFree_mesh : (takeFree s).1.mesh = s.mesh := rfl
@[simp] theorem takeFree_queues : (takeFree s).1.queues = s.queues := rfl
@[simp] theorem takeFree_hbm : (takeFree s).1.hbm = s.hbm := rfl
@[simp] theorem takeFree_power : (takeFree s).1.power = s.power := rfl
@[simp] theorem takeFree_heat : (takeFree s).1.heat = s.heat := rfl
@[simp] theorem takeFree_flash : (takeFree s).1.flash = s.flash := rfl
@[simp] theorem takeFree_boot : (takeFree s).1.boot = s.boot := rfl
@[simp] theorem takeFree_stop : (takeFree s).1.stop = s.stop := rfl
@[simp] theorem takeFree_sec : (takeFree s).1.sec = s.sec := rfl
@[simp] theorem takeFree_side : (takeFree s).1.side = s.side := rfl
@[simp] theorem takeFree_ports : (takeFree s).1.ports = s.ports := rfl
@[simp] theorem takeFree_vly : (takeFree s).1.vly = s.vly := rfl
@[simp] theorem takeFree_free : (takeFree s).1.free = s.free + 1 := rfl
@[simp] theorem takeFree_rdata : (takeFree s).1.rdata = s.rdata := rfl

/-- The value taken is the next free value. -/
@[simp] theorem takeFree_value : (takeFree s).2 = Config.free s.free := rfl

end

/-! ## The updates of a rafter -/

section

variable (r : Rafter) (c : Nat) (x : Chan)

@[simp] theorem setChan_st : (setChan r c x).st = r.st := rfl
@[simp] theorem setChan_cause : (setChan r c x).cause = r.cause := rfl
@[simp] theorem setChan_pass : (setChan r c x).pass = r.pass := rfl
@[simp] theorem setChan_passCtr : (setChan r c x).passCtr = r.passCtr := rfl
@[simp] theorem setChan_sr : (setChan r c x).sr = r.sr := rfl
@[simp] theorem setChan_pc : (setChan r c x).pc = r.pc := rfl
@[simp] theorem setChan_wait : (setChan r c x).wait = r.wait := rfl
@[simp] theorem setChan_store : (setChan r c x).store = r.store := rfl
@[simp] theorem setChan_slot0 : (setChan r c x).slot0 = r.slot0 := rfl
@[simp] theorem setChan_slot1 : (setChan r c x).slot1 = r.slot1 := rfl
@[simp] theorem setChan_first1 : (setChan r c x).first1 = r.first1 := rfl
@[simp] theorem setChan_cur : (setChan r c x).cur = r.cur := rfl
@[simp] theorem setChan_size : (setChan r c x).size = r.size := rfl
@[simp] theorem setChan_trap : (setChan r c x).trap = r.trap := rfl
@[simp] theorem setChan_slateEn : (setChan r c x).slateEn = r.slateEn := rfl
@[simp] theorem setChan_slates : (setChan r c x).slates = r.slates := rfl
@[simp] theorem setChan_scmds : (setChan r c x).scmds = r.scmds := rfl
@[simp] theorem setChan_launch : (setChan r c x).launch = r.launch := rfl
@[simp] theorem setChan_ys : (setChan r c x).ys = r.ys := rfl
@[simp] theorem setChan_ylast : (setChan r c x).ylast = r.ylast := rfl
@[simp] theorem setChan_reads : (setChan r c x).reads = r.reads := rfl
@[simp] theorem setChan_beats : (setChan r c x).beats = r.beats := rfl
@[simp] theorem setChan_ibuf : (setChan r c x).ibuf = r.ibuf := rfl
@[simp] theorem setChan_sweep : (setChan r c x).sweep = r.sweep := rfl
@[simp] theorem setChan_cadds : (setChan r c x).cadds = r.cadds := rfl
@[simp] theorem setChan_insn : (setChan r c x).insn = r.insn := rfl
@[simp] theorem setChan_insnh : (setChan r c x).insnh = r.insnh := rfl

end

section

variable (r : Rafter) (p : Nat) (x : Slate)

@[simp] theorem setSlate_st : (setSlate r p x).st = r.st := rfl
@[simp] theorem setSlate_cause : (setSlate r p x).cause = r.cause := rfl
@[simp] theorem setSlate_pass : (setSlate r p x).pass = r.pass := rfl
@[simp] theorem setSlate_passCtr : (setSlate r p x).passCtr = r.passCtr := rfl
@[simp] theorem setSlate_sr : (setSlate r p x).sr = r.sr := rfl
@[simp] theorem setSlate_pc : (setSlate r p x).pc = r.pc := rfl
@[simp] theorem setSlate_wait : (setSlate r p x).wait = r.wait := rfl
@[simp] theorem setSlate_store : (setSlate r p x).store = r.store := rfl
@[simp] theorem setSlate_slot0 : (setSlate r p x).slot0 = r.slot0 := rfl
@[simp] theorem setSlate_slot1 : (setSlate r p x).slot1 = r.slot1 := rfl
@[simp] theorem setSlate_first1 : (setSlate r p x).first1 = r.first1 := rfl
@[simp] theorem setSlate_cur : (setSlate r p x).cur = r.cur := rfl
@[simp] theorem setSlate_size : (setSlate r p x).size = r.size := rfl
@[simp] theorem setSlate_trap : (setSlate r p x).trap = r.trap := rfl
@[simp] theorem setSlate_slateEn : (setSlate r p x).slateEn = r.slateEn := rfl
@[simp] theorem setSlate_scmds : (setSlate r p x).scmds = r.scmds := rfl
@[simp] theorem setSlate_chans : (setSlate r p x).chans = r.chans := rfl
@[simp] theorem setSlate_launch : (setSlate r p x).launch = r.launch := rfl
@[simp] theorem setSlate_ys : (setSlate r p x).ys = r.ys := rfl
@[simp] theorem setSlate_ylast : (setSlate r p x).ylast = r.ylast := rfl
@[simp] theorem setSlate_reads : (setSlate r p x).reads = r.reads := rfl
@[simp] theorem setSlate_beats : (setSlate r p x).beats = r.beats := rfl
@[simp] theorem setSlate_ibuf : (setSlate r p x).ibuf = r.ibuf := rfl
@[simp] theorem setSlate_sweep : (setSlate r p x).sweep = r.sweep := rfl
@[simp] theorem setSlate_cadds : (setSlate r p x).cadds = r.cadds := rfl
@[simp] theorem setSlate_insn : (setSlate r p x).insn = r.insn := rfl
@[simp] theorem setSlate_insnh : (setSlate r p x).insnh = r.insnh := rfl

end

section

variable (r : Rafter) (y : Nat) (x : YSlot)

@[simp] theorem setYslot_st : (setYslot r y x).st = r.st := rfl
@[simp] theorem setYslot_cause : (setYslot r y x).cause = r.cause := rfl
@[simp] theorem setYslot_pass : (setYslot r y x).pass = r.pass := rfl
@[simp] theorem setYslot_passCtr : (setYslot r y x).passCtr = r.passCtr := rfl
@[simp] theorem setYslot_sr : (setYslot r y x).sr = r.sr := rfl
@[simp] theorem setYslot_pc : (setYslot r y x).pc = r.pc := rfl
@[simp] theorem setYslot_wait : (setYslot r y x).wait = r.wait := rfl
@[simp] theorem setYslot_store : (setYslot r y x).store = r.store := rfl
@[simp] theorem setYslot_slot0 : (setYslot r y x).slot0 = r.slot0 := rfl
@[simp] theorem setYslot_slot1 : (setYslot r y x).slot1 = r.slot1 := rfl
@[simp] theorem setYslot_first1 : (setYslot r y x).first1 = r.first1 := rfl
@[simp] theorem setYslot_cur : (setYslot r y x).cur = r.cur := rfl
@[simp] theorem setYslot_size : (setYslot r y x).size = r.size := rfl
@[simp] theorem setYslot_trap : (setYslot r y x).trap = r.trap := rfl
@[simp] theorem setYslot_slateEn : (setYslot r y x).slateEn = r.slateEn := rfl
@[simp] theorem setYslot_slates : (setYslot r y x).slates = r.slates := rfl
@[simp] theorem setYslot_scmds : (setYslot r y x).scmds = r.scmds := rfl
@[simp] theorem setYslot_chans : (setYslot r y x).chans = r.chans := rfl
@[simp] theorem setYslot_launch : (setYslot r y x).launch = r.launch := rfl
@[simp] theorem setYslot_ylast : (setYslot r y x).ylast = r.ylast := rfl
@[simp] theorem setYslot_reads : (setYslot r y x).reads = r.reads := rfl
@[simp] theorem setYslot_beats : (setYslot r y x).beats = r.beats := rfl
@[simp] theorem setYslot_ibuf : (setYslot r y x).ibuf = r.ibuf := rfl
@[simp] theorem setYslot_sweep : (setYslot r y x).sweep = r.sweep := rfl
@[simp] theorem setYslot_cadds : (setYslot r y x).cadds = r.cadds := rfl
@[simp] theorem setYslot_insn : (setYslot r y x).insn = r.insn := rfl
@[simp] theorem setYslot_insnh : (setYslot r y x).insnh = r.insnh := rfl

end

section

variable (r : Rafter) (o : Nat) (w : Word)

@[simp] theorem setStoreWord_st : (setStoreWord r o w).st = r.st := rfl
@[simp] theorem setStoreWord_cause : (setStoreWord r o w).cause = r.cause := rfl
@[simp] theorem setStoreWord_pass : (setStoreWord r o w).pass = r.pass := rfl
@[simp] theorem setStoreWord_passCtr : (setStoreWord r o w).passCtr = r.passCtr := rfl
@[simp] theorem setStoreWord_sr : (setStoreWord r o w).sr = r.sr := rfl
@[simp] theorem setStoreWord_pc : (setStoreWord r o w).pc = r.pc := rfl
@[simp] theorem setStoreWord_wait : (setStoreWord r o w).wait = r.wait := rfl
@[simp] theorem setStoreWord_slot0 : (setStoreWord r o w).slot0 = r.slot0 := rfl
@[simp] theorem setStoreWord_slot1 : (setStoreWord r o w).slot1 = r.slot1 := rfl
@[simp] theorem setStoreWord_first1 : (setStoreWord r o w).first1 = r.first1 := rfl
@[simp] theorem setStoreWord_cur : (setStoreWord r o w).cur = r.cur := rfl
@[simp] theorem setStoreWord_size : (setStoreWord r o w).size = r.size := rfl
@[simp] theorem setStoreWord_trap : (setStoreWord r o w).trap = r.trap := rfl
@[simp] theorem setStoreWord_slateEn : (setStoreWord r o w).slateEn = r.slateEn := rfl
@[simp] theorem setStoreWord_slates : (setStoreWord r o w).slates = r.slates := rfl
@[simp] theorem setStoreWord_scmds : (setStoreWord r o w).scmds = r.scmds := rfl
@[simp] theorem setStoreWord_chans : (setStoreWord r o w).chans = r.chans := rfl
@[simp] theorem setStoreWord_launch : (setStoreWord r o w).launch = r.launch := rfl
@[simp] theorem setStoreWord_ys : (setStoreWord r o w).ys = r.ys := rfl
@[simp] theorem setStoreWord_ylast : (setStoreWord r o w).ylast = r.ylast := rfl
@[simp] theorem setStoreWord_reads : (setStoreWord r o w).reads = r.reads := rfl
@[simp] theorem setStoreWord_beats : (setStoreWord r o w).beats = r.beats := rfl
@[simp] theorem setStoreWord_ibuf : (setStoreWord r o w).ibuf = r.ibuf := rfl
@[simp] theorem setStoreWord_sweep : (setStoreWord r o w).sweep = r.sweep := rfl
@[simp] theorem setStoreWord_cadds : (setStoreWord r o w).cadds = r.cadds := rfl
@[simp] theorem setStoreWord_insn : (setStoreWord r o w).insn = r.insn := rfl
@[simp] theorem setStoreWord_insnh : (setStoreWord r o w).insnh = r.insnh := rfl

end

section

variable (r : Rafter) (i : Nat) (w : Word)

@[simp] theorem setSreg_st : (setSreg r i w).st = r.st := by unfold setSreg; split <;> rfl
@[simp] theorem setSreg_cause : (setSreg r i w).cause = r.cause := by unfold setSreg; split <;> rfl
@[simp] theorem setSreg_pass : (setSreg r i w).pass = r.pass := by unfold setSreg; split <;> rfl
@[simp] theorem setSreg_passCtr : (setSreg r i w).passCtr = r.passCtr := by unfold setSreg; split <;> rfl
@[simp] theorem setSreg_pc : (setSreg r i w).pc = r.pc := by unfold setSreg; split <;> rfl
@[simp] theorem setSreg_wait : (setSreg r i w).wait = r.wait := by unfold setSreg; split <;> rfl
@[simp] theorem setSreg_store : (setSreg r i w).store = r.store := by unfold setSreg; split <;> rfl
@[simp] theorem setSreg_slot0 : (setSreg r i w).slot0 = r.slot0 := by unfold setSreg; split <;> rfl
@[simp] theorem setSreg_slot1 : (setSreg r i w).slot1 = r.slot1 := by unfold setSreg; split <;> rfl
@[simp] theorem setSreg_first1 : (setSreg r i w).first1 = r.first1 := by unfold setSreg; split <;> rfl
@[simp] theorem setSreg_cur : (setSreg r i w).cur = r.cur := by unfold setSreg; split <;> rfl
@[simp] theorem setSreg_size : (setSreg r i w).size = r.size := by unfold setSreg; split <;> rfl
@[simp] theorem setSreg_trap : (setSreg r i w).trap = r.trap := by unfold setSreg; split <;> rfl
@[simp] theorem setSreg_slateEn : (setSreg r i w).slateEn = r.slateEn := by unfold setSreg; split <;> rfl
@[simp] theorem setSreg_slates : (setSreg r i w).slates = r.slates := by unfold setSreg; split <;> rfl
@[simp] theorem setSreg_scmds : (setSreg r i w).scmds = r.scmds := by unfold setSreg; split <;> rfl
@[simp] theorem setSreg_chans : (setSreg r i w).chans = r.chans := by unfold setSreg; split <;> rfl
@[simp] theorem setSreg_launch : (setSreg r i w).launch = r.launch := by unfold setSreg; split <;> rfl
@[simp] theorem setSreg_ys : (setSreg r i w).ys = r.ys := by unfold setSreg; split <;> rfl
@[simp] theorem setSreg_ylast : (setSreg r i w).ylast = r.ylast := by unfold setSreg; split <;> rfl
@[simp] theorem setSreg_reads : (setSreg r i w).reads = r.reads := by unfold setSreg; split <;> rfl
@[simp] theorem setSreg_beats : (setSreg r i w).beats = r.beats := by unfold setSreg; split <;> rfl
@[simp] theorem setSreg_ibuf : (setSreg r i w).ibuf = r.ibuf := by unfold setSreg; split <;> rfl
@[simp] theorem setSreg_sweep : (setSreg r i w).sweep = r.sweep := by unfold setSreg; split <;> rfl
@[simp] theorem setSreg_cadds : (setSreg r i w).cadds = r.cadds := by unfold setSreg; split <;> rfl
@[simp] theorem setSreg_insn : (setSreg r i w).insn = r.insn := by unfold setSreg; split <;> rfl
@[simp] theorem setSreg_insnh : (setSreg r i w).insnh = r.insnh := by unfold setSreg; split <;> rfl

end

end Sys2Proof.Machine
end

