-- ==== Sys2Proof/Laws/Keeps.lean ====
section
/-! SUPPORT. What the shared operations never touch: the queue of commands, the fuses, and the canonical form of the
memory. Each shared operation has one lemma here; a proof about a meaning cites them in place of unfolding. -/

namespace Sys2Proof.Machine

/-- `t` has the commands and the fuses of `s`, and a memory in canonical form where `s` has one. -/
structure Keeps (s t : State) : Prop where
  pending : t.pending = s.pending
  fuses : t.fuses = s.fuses
  wf : Memory.wf s.mem = true → Memory.wf t.mem = true

theorem Keeps.refl (s : State) : Keeps s s := ⟨rfl, rfl, id⟩

theorem Keeps.trans {s t u : State} (h : Keeps s t) (k : Keeps t u) : Keeps s u :=
  ⟨k.pending.trans h.pending, k.fuses.trans h.fuses, fun w => k.wf (h.wf w)⟩

/-- A state that differs from `t` in none of the three fields. -/
theorem Keeps.same {s t u : State} (h : Keeps s t) (hp : u.pending = t.pending := by rfl) (hf : u.fuses = t.fuses := by rfl)
    (hm : u.mem = t.mem := by rfl) : Keeps s u :=
  ⟨hp.trans h.pending, hf.trans h.fuses, fun w => by rw [hm]; exact h.wf w⟩

theorem Keeps.foldl {α : Type} {s : State} {f : State → α → State} (h : ∀ t a, Keeps t (f t a)) (l : List α) {t : State}
    (k : Keeps s t) : Keeps s (l.foldl f t) := by
  induction l generalizing t with
  | nil => exact k
  | cons a l ih => exact ih (k.trans (h t a))

theorem Keeps.foldl_fst {α β : Type} {s : State} {f : State × β → α → State × β} (h : ∀ x a, Keeps x.1 (f x a).1)
    (l : List α) {x : State × β} (k : Keeps s x.1) : Keeps s (l.foldl f x).1 := by
  induction l generalizing x with
  | nil => exact k
  | cons a l ih => exact ih (k.trans (h x a))

theorem Keeps.ite {s t u : State} {c : Prop} [Decidable c] (h : Keeps s t) (k : Keeps s u) : Keeps s (if c then t else u) := by
  split <;> assumption

/-! ## Registers, time, rafters -/

theorem keeps_rgSet (s : State) (r : Reg) (i j : Nat) (v : Word) : Keeps s (rgSet s r i j v) := (Keeps.refl s).same

theorem keeps_rfSet (s : State) (r : Reg) (i lo n v : Nat) : Keeps s (rfSet s r i lo n v) := (Keeps.refl s).same

theorem keeps_rfSat (s : State) (r : Reg) (i lo n k : Nat) : Keeps s (rfSat s r i lo n k) := (Keeps.refl s).same

theorem keeps_dueR (s : State) (t : Nat) : Keeps s (dueR s t) := (Keeps.refl s).same

theorem keeps_dueT (s : State) (t : Nat) : Keeps s (dueT s t) := (Keeps.refl s).same

theorem keeps_takeFree (s : State) : Keeps s (takeFree s).1 := (Keeps.refl s).same

theorem keeps_hostSend (s : State) (x : HostTxn) : Keeps s (hostSend s x) := (Keeps.refl s).same

theorem keeps_setRaf (s : State) (n : Nat) (r : Rafter) : Keeps s (setRaf s n r) := (Keeps.refl s).same

theorem keeps_modRaf (s : State) (n : Nat) (f : Rafter → Rafter) : Keeps s (modRaf s n f) := (Keeps.refl s).same

theorem keeps_notifyRaf (s : State) (n i status v : Nat) : Keeps s (notifyRaf s n i status v) :=
  (Keeps.refl s).ite (keeps_modRaf s n _)

theorem keeps_setBay (s : State) (b : Nat) (x : Bay) : Keeps s (setBay s b x) := (Keeps.refl s).same

theorem keeps_setStack (s : State) (t : Nat) (x : Stack) : Keeps s (setStack s t x) := (Keeps.refl s).same

theorem keeps_setSes (s : State) (i : Nat) (x : Session) : Keeps s (setSes s i x) := (Keeps.refl s).same

theorem keeps_setVend (s : State) (i : Nat) (e : VEnd) : Keeps s (setVend s i e) := (Keeps.refl s).same

theorem keeps_setPort (s : State) (p : Nat) (x : Port) : Keeps s (setPort s p x) := (Keeps.refl s).same

/-! ## Counters and notices -/

theorem keeps_bumpOne (sel cnt : Reg) (i j src unit k : Nat) (s : State) : Keeps s (bumpOne sel cnt i j src unit k s) := by
  unfold bumpOne
  exact (keeps_rgSet s cnt i j _).ite (Keeps.refl s)

theorem keeps_countR (s : State) (n src k : Nat) : Keeps s (countR s n src k) :=
  (Keeps.foldl (fun t _ => keeps_bumpOne _ _ _ _ _ _ _ t) _ (Keeps.refl s)).ite (Keeps.refl s)

theorem keeps_countT (s : State) (src unit k : Nat) : Keeps s (countT s src unit k) :=
  (Keeps.foldl (fun t _ => keeps_bumpOne _ _ _ _ _ _ _ t) _ (Keeps.refl s)).ite (Keeps.refl s)

theorem keeps_countG (s : State) (src unit k : Nat) : Keeps s (countG s src unit k) :=
  (Keeps.foldl (fun t _ => keeps_bumpOne _ _ _ _ _ _ _ t) _ (Keeps.refl s)).ite (Keeps.refl s)

theorem keeps_countH (s : State) (st src unit k : Nat) : Keeps s (countH s st src unit k) :=
  (Keeps.foldl (fun t _ => ((keeps_bumpOne _ _ _ _ _ _ _ t)).ite
    ((keeps_bumpOne _ _ _ _ _ _ _ t).trans (keeps_bumpOne _ _ _ _ _ _ _ _))) _ (Keeps.refl s)).ite (Keeps.refl s)

theorem keeps_hostRecord (s : State) (a : Nat) (w0 w1 w2 w3 : Word) : Keeps s (hostRecord s a w0 w1 w2 w3) := (Keeps.refl s).same

theorem keeps_noticeRecord (s : State) (a : Nat) (w0 w1 w2 w3 : Word) : Keeps s (noticeRecord s a w0 w1 w2 w3) :=
  (Keeps.refl s).same.ite (keeps_hostRecord ..)

theorem keeps_ringWrite (s : State) (q : BitVec 31) (m : Notice) : Keeps s (ringWrite s q m) := by
  unfold ringWrite
  extract_lets tail w0 t tail' u
  have h : Keeps s t := keeps_noticeRecord ..
  have k : Keeps s u := h.trans (keeps_rfSet ..)
  exact k.same

theorem keeps_forget (s : State) (b : Nat) (ws : List Nat) : Keeps s (forget s b ws) := keeps_setBay ..

/-- Bytes stored in the memory, and any new syndromes. -/
theorem Keeps.stored {s t : State} (h : Keeps s t) (a : Nat) (bs : List Byte) (y : Tbl Byte) :
    Keeps s { t with mem := writeBytes t.mem a bs, syn := y } :=
  ⟨h.pending, h.fuses, fun w => wf_writeBytes _ _ _ (h.wf w)⟩

theorem keeps_logWrite (s : State) (q : BitVec 31) (m : Notice) : Keeps s (logWrite s q m) := by
  unfold logWrite
  exact Keeps.ite (((keeps_countT ..).trans (keeps_forget ..)).stored ..) (Keeps.refl s)

theorem keeps_setNext (s : State) (q : BitVec 31) : Keeps s (setNext s q) := (Keeps.refl s).same

theorem keeps_emitNotice (s : State) (q : BitVec 31) (m : Notice) : Keeps s (emitNotice s q m) := by
  unfold emitNotice
  extract_lets t u
  have h : Keeps s t := keeps_logWrite ..
  have k : Keeps s u := h.trans (keeps_rfSat ..)
  exact (h.trans (keeps_ringWrite ..)).ite (k.same.ite h)

theorem keeps_putNotice (s : State) (m : Notice) : Keeps s (putNotice s m) := (keeps_setNext ..).trans (keeps_emitNotice ..)

theorem keeps_lostNotice (s : State) : Keeps s (lostNotice s) := by
  unfold lostNotice
  split
  · exact (((Keeps.refl s).same).trans (keeps_putNotice _ _)).ite (Keeps.refl s)
  · exact Keeps.refl s

theorem keeps_holdNotice (s : State) (m : Notice) : Keeps s (holdNotice s m) := (Keeps.refl s).same.ite (Keeps.refl s).same

/-- A notice is the one event of the monitors that can reach the memory: through the log (R522). -/
theorem keeps_raiseAt (s : State) (t : Word) (typ src : Nat) (w2 w3 : Word) : Keeps s (raiseAt s t typ src w2 w3) :=
  (Keeps.refl s).ite (((keeps_lostNotice s).trans (keeps_putNotice _ _)).ite (keeps_holdNotice s _))

theorem keeps_raiseR (s : State) (typ src : Nat) (w2 w3 : Word) : Keeps s (raiseR s typ src w2 w3) := keeps_raiseAt ..

theorem keeps_raiseT (s : State) (typ src : Nat) (w2 w3 : Word) : Keeps s (raiseT s typ src w2 w3) := keeps_raiseAt ..

theorem keeps_accessNotice (s : State) (m : Master) (kind addr : Nat) (v : Word) : Keeps s (accessNotice s m kind addr v) :=
  keeps_raiseR ..

/-! ## Bay space and HBM -/

theorem keeps_bucketEvent (s : State) (b : Nat) : Keeps s (bucketEvent s b) := by
  unfold bucketEvent
  extract_lets lv t u
  exact (Keeps.ite ((Keeps.refl s).same) (((Keeps.refl s).same).trans (keeps_raiseT ..))).ite (keeps_rfSet ..)

theorem keeps_ceCount (s : State) (b a src : Nat) : Keeps s (ceCount s b a src) := by
  unfold ceCount
  extract_lets t u
  exact (((keeps_rfSat s ..).trans (keeps_rgSet t ..)).trans (keeps_countT u ..)).trans (keeps_bucketEvent ..)

theorem keeps_ceEvent (s : State) (b a src : Nat) : Keeps s (ceEvent s b a src) :=
  (keeps_ceCount ..).ite ((keeps_ceCount ..).trans (keeps_setBay ..))

theorem keeps_ueEvent (s : State) (b a src : Nat) (acc : Acc) (notice : Bool) : Keeps s (ueEvent s b a src acc notice) := by
  unfold ueEvent
  extract_lets t u
  have h1 : Keeps s t := keeps_rfSat s ..
  have h : Keeps s u := h1.trans (keeps_rgSet t ..)
  exact (h.trans (keeps_raiseT ..)).ite h

theorem keeps_readEvents (s : State) (l src : Nat) (acc : Acc) (notice : Bool) : Keeps s (readEvents s l src acc notice) := by
  unfold readEvents
  extract_lets t
  have h : Keeps s t := Keeps.foldl (fun _ _ => keeps_ceEvent ..) _ (Keeps.refl s)
  split
  · exact h
  · exact h.trans (keeps_ueEvent ..)

theorem keeps_setSpar (s : State) (n : Nat) (x : Spar) : Keeps s (setSpar s n x) := (Keeps.refl s).same

theorem keeps_notifyOver (s : State) (n i status v : Nat) : Keeps s (notifyOver s n i status v) :=
  (Keeps.refl s).ite ((keeps_setSpar ..).ite ((keeps_notifyRaf ..).trans (keeps_countR ..)))

theorem keeps_fireWatches (s : State) (b lo hi : Nat) : Keeps s (fireWatches s b lo hi) := by
  unfold fireWatches
  extract_lets inR due t
  exact (Keeps.refl s).ite (Keeps.foldl (fun _ _ => keeps_notifyOver ..) _ ((Keeps.refl s).same))

theorem keeps_setSyn (s : State) (a : Nat) (y : Byte) : Keeps s (setSyn s a y) := (Keeps.refl s).same

theorem keeps_putWord (s : State) (a : Nat) (w : Word) : Keeps s (putWord s a w) :=
  ⟨rfl, rfl, fun h => wf_writeBytes _ _ _ h⟩

theorem keeps_writeFix (s : State) (b w : Nat) : Keeps s (writeFix s b w) := by
  unfold writeFix
  have h := keeps_setBay s b { bay s b with fix := (bay s b).fix.filter (· ≠ w) }
  simp only
  split
  · exact h
  · exact h
  · exact (h.trans (keeps_putWord ..)).trans (keeps_countT ..)

theorem keeps_flushFixes (s : State) (l : Nat) : Keeps s (flushFixes s l) :=
  Keeps.foldl (fun _ _ => keeps_writeFix ..) _ (Keeps.refl s)

theorem keeps_arrayRead (s : State) (l src : Nat) (acc : Acc) (notice : Bool) : Keeps s (arrayRead s l src acc notice) :=
  ((keeps_flushFixes ..).trans (keeps_countT ..)).trans (keeps_readEvents ..)

theorem wf_writeRuns (runs : List (Nat × List Byte)) {m : Memory} (h : Memory.wf m = true) :
    Memory.wf (runs.foldl (fun m r => writeBytes m r.1 r.2) m) = true := by
  induction runs generalizing m with
  | nil => exact h
  | cons r l ih => exact ih (wf_writeBytes _ _ _ h)

theorem keeps_putRuns (s : State) (l : Nat) (runs : List (Nat × List Byte)) : Keeps s (putRuns s l runs) := by
  unfold putRuns
  extract_lets t
  have h : Keeps s t := Keeps.foldl (fun u w => (keeps_setSyn u w 0).ite
    (((Keeps.refl u).stored _ _ u.syn).trans (keeps_setSyn ..))) _ (Keeps.refl s)
  refine ⟨h.pending, h.fuses, fun w => ?_⟩
  exact wf_writeRuns runs (h.wf w)

theorem keeps_arrayRuns (s : State) (l : Nat) (runs : List (Nat × List Byte)) (acc : Acc) (notice : Bool) :
    Keeps s (arrayRuns s l runs acc notice) := by
  unfold arrayRuns
  extract_lets b ps t u
  have h : Keeps s t := (keeps_flushFixes ..).ite ((keeps_countT ..).trans (keeps_arrayRead ..))
  have k : Keeps t u := (keeps_countT ..).trans (keeps_forget ..)
  exact Keeps.foldl (fun _ _ => keeps_fireWatches ..) _ ((h.trans k).trans (keeps_putRuns ..))

theorem keeps_hbmCount (s : State) (h cls n : Nat) (w : Bool) : Keeps s (hbmCount s h cls n w) :=
  ((keeps_rgSet ..).trans (keeps_setStack ..)).trans (keeps_countH ..)

theorem keeps_setPoison (s : State) (l : Nat) (mask : BitVec 32) : Keeps s (setPoison s l mask) :=
  ((keeps_rfSet ..).trans (keeps_raiseT ..)).ite (keeps_setStack ..)

theorem keeps_measure (s : State) (t c hops tctl : Nat) : Keeps s (measure s t c hops tctl) := keeps_setStack ..

theorem keeps_hopsFrom (s : State) (t : Nat) (p : Option (Nat × Nat)) : Keeps s (hopsFrom s t p).1 := by
  cases p
  · exact keeps_takeFree s
  · exact Keeps.refl s

theorem keeps_qosUpdate (s : State) : Keeps s (qosUpdate s) := by
  unfold qosUpdate
  extract_lets old row sust fsum eff src t u v
  have h0 : Keeps s t := (Keeps.refl s).same
  have h : Keeps s u := h0.trans (keeps_rgSet ..)
  have k : Keeps s v := Keeps.foldl (fun w _ => (keeps_rfSet w ..).trans (keeps_rfSet ..)) _ h
  exact k.ite ((k.trans (keeps_raiseT ..)).ite (k.trans (keeps_raiseT ..)))

theorem keeps_stageQos (s : State) : Keeps s (stageQos s) := (keeps_qosUpdate s).ite (Keeps.refl s)

theorem keeps_raiseHolds (s : State) (t : Nat) : Keeps s (raiseHolds s t) := by
  unfold raiseHolds
  exact Keeps.foldl (fun u _ => ((keeps_rfSet u ..).trans (keeps_countH ..)).ite (Keeps.refl u)) _ (keeps_takeFree s)

theorem keeps_levelChanged (s : State) (t : Nat) : Keeps s (levelChanged s t) := by
  unfold levelChanged
  extract_lets n u
  have h : Keeps s u := keeps_rfSet ..
  exact h.ite ((h.trans (keeps_raiseHolds ..)).ite ((h.trans (keeps_rfSet ..)).ite h))

theorem keeps_columnAccess (s : State) (t pc bank row : Nat) : Keeps s (columnAccess s t pc bank row) := by
  unfold columnAccess
  extract_lets o u x more
  have h : Keeps s u := (keeps_countH ..).ite ((keeps_countH ..).ite (Keeps.refl s))
  exact h.trans (keeps_setStack ..)

theorem keeps_hbmRead (s : State) (h n : Nat) (acc : Acc) : Keeps s (hbmRead s h n acc) :=
  (Keeps.refl s).ite ((((keeps_hbmCount s h acc.cls n false).trans (keeps_hopsFrom _ _ _)).trans (keeps_measure ..)).trans
    (keeps_columnAccess ..))

theorem keeps_hbmNotice (s : State) (t ev x : Nat) : Keeps s (hbmNotice s t ev x) := keeps_raiseT ..

theorem keeps_ueRead (s : State) (t pc : Nat) : Keeps s (ueRead s t pc) := by
  unfold ueRead
  extract_lets x n u v
  have h : Keeps s u := keeps_setStack ..
  exact ((((h.trans (keeps_rfSet ..)).trans (keeps_hbmNotice ..)).trans (keeps_setStack ..)).trans (keeps_stageQos _)).ite h

theorem keeps_dropFlags (s : State) (l : Nat) (ws : List Nat) : Keeps s (dropFlags s l ws) := keeps_setStack ..

theorem keeps_takeFlags (s : State) (l : Nat) : Keeps s (takeFlags s l) := keeps_dropFlags ..

theorem keeps_hbmStore (s : State) (a : Nat) (bs : List Byte) (poison : List Nat) (acc : Acc) :
    Keeps s (hbmStore s a bs poison acc) := by
  unfold hbmStore
  extract_lets l full keep t
  have h : Keeps s { s with mem := writeBytes s.mem a bs } := (Keeps.refl s).stored a bs s.syn
  exact (Keeps.refl s).ite (((h.trans (keeps_hbmCount ..)).trans (keeps_setPoison ..)).trans (keeps_dropFlags ..))

theorem keeps_hbmUe (s : State) (a : Nat) (acc : Acc) : Keeps s (hbmUe s a acc) := keeps_raiseT ..

theorem keeps_reqUe (s : State) (r : HReq) (a : Nat) : Keeps s (reqUe s r a) := (keeps_hbmUe ..).ite (Keeps.refl s)

theorem keeps_deliver (s : State) (t : Nat) (e : HEnt) (ue : List Nat) (tctl : Nat) : Keeps s (deliver s t e ue tctl) := by
  unfold deliver
  extract_lets l x u from_ v
  have h : Keeps s u := keeps_setStack ..
  have k : Keeps s v := h.ite (((h.trans (keeps_hbmCount ..)).trans (keeps_hopsFrom _ _ _)).trans (keeps_measure ..))
  split
  · exact k
  · exact ((k.trans (keeps_setStack ..)).trans (keeps_reqUe ..)).trans (keeps_ueRead ..)

theorem keeps_mergeWrite (s : State) (t : Nat) (e : HEnt) (ue : List Nat) : Keeps s (mergeWrite s t e ue) := by
  unfold mergeWrite
  simp only
  exact ((keeps_setStack ..).trans (keeps_hbmStore ..)).ite
    (((keeps_setStack ..).trans (keeps_hbmStore ..)).trans (keeps_ueRead ..))

theorem keeps_serveEarly (s : State) (t : Nat) (e : HEnt) : Keeps s (serveEarly s t e) := by
  unfold serveEarly
  extract_lets tctl x u f
  have h : Keeps s u := (Keeps.refl s).ite (((keeps_setStack s ..).trans (keeps_columnAccess ..)).trans (keeps_levelChanged ..))
  exact (h.trans (keeps_mergeWrite ..)).ite (h.trans (keeps_deliver ..))

theorem keeps_serveBefore (s : State) (a n : Nat) (write : Bool) : Keeps s (serveBefore s a n write) :=
  Keeps.foldl (fun _ _ => keeps_serveEarly ..) _ (Keeps.refl s)

theorem keeps_hbmWrite (s : State) (a : Nat) (bs : List Byte) (poison : List Nat) (acc : Acc) :
    Keeps s (hbmWrite s a bs poison acc) := by
  unfold hbmWrite
  extract_lets t l hit u
  have h : Keeps s t := keeps_serveBefore ..
  have k : Keeps s u := (h.trans (keeps_columnAccess ..)).trans (keeps_hbmStore ..)
  exact h.ite ((k.trans (keeps_ueRead ..)).ite k)

theorem keeps_takeGiven (s : State) (l : Nat) (k : Nat × Nat) : Keeps s (takeGiven s l k).1 := by
  unfold takeGiven
  simp only [apply_ite Prod.fst]
  exact (keeps_setStack ..).ite (Keeps.refl s)

theorem keeps_hbmFetch (s : State) (l n : Nat) (k : Nat × Nat) (acc : Acc) : Keeps s (hbmFetch s l n k acc).1 := by
  unfold hbmFetch
  extract_lets t
  have h : Keeps s t := keeps_serveBefore ..
  have g := h.trans (keeps_takeGiven t l k)
  split
  · rename_i u e; rw [e] at g; exact g
  · rename_i u e; rw [e] at g; exact g.trans (keeps_hbmRead ..)

theorem keeps_setCline (s : State) (b set way : Nat) (c : CLine) : Keeps s (setCline s b set way c) := keeps_setBay ..

theorem keeps_tagRead (s : State) (b set way : Nat) : Keeps s (tagRead s b set way) := by
  unfold tagRead
  extract_lets c a t u
  have h : Keeps s u := (keeps_rfSat s ..).trans (keeps_rgSet t ..)
  exact (Keeps.refl s).ite ((h.trans (keeps_setBay ..)).ite ((keeps_setCline ..).trans (keeps_ceCount ..)))

theorem keeps_tagLook (s : State) (b set : Nat) : Keeps s (tagLook s b set) :=
  Keeps.foldl (fun _ _ => keeps_tagRead ..) _ (Keeps.refl s)

theorem keeps_writeBack (s : State) (b set way : Nat) (acc : Acc) : Keeps s (writeBack s b set way acc) := by
  unfold writeBack
  extract_lets c a u data t
  exact ((((keeps_arrayRead ..).trans (keeps_hbmWrite ..)).trans (keeps_countT ..)).trans (keeps_setCline ..)).ite (Keeps.refl s)

theorem keeps_touch (s : State) (b set way : Nat) : Keeps s (touch s b set way) := (keeps_setCline ..).trans (keeps_setBay ..)

theorem keeps_victim (s : State) (b set : Nat) : Keeps s (victim s b set).1 := by
  unfold victim
  split
  · exact Keeps.refl s
  · exact Keeps.ite (Keeps.foldl (fun t w => (Keeps.refl t).ite (keeps_setCline ..)) _ (Keeps.refl s)) (Keeps.refl s)

theorem keeps_storeFill (s : State) (h b way : Nat) (data : List Byte) (bad : List Nat) :
    Keeps s (storeFill s h b way data bad) := by
  unfold storeFill
  extract_lets a t u
  have h : Keeps s t := ((keeps_flushFixes ..).trans (keeps_forget ..)).trans (keeps_countT ..)
  exact Keeps.foldl (fun _ _ => keeps_setSyn ..) _ (h.stored _ _ t.syn)

theorem keeps_allocate (s : State) (h : Nat) (acc : Acc) : Keeps s (allocate s h acc).1 :=
  ((keeps_victim ..).trans (keeps_writeBack ..)).trans (keeps_setCline ..)

theorem keeps_fillLine (s : State) (h way : Nat) (acc : Acc) : Keeps s (fillLine s h way acc) := by
  unfold fillLine
  extract_lets l t
  have h1 : Keeps s t := Keeps.foldl (fun _ _ => keeps_serveEarly ..) _ (Keeps.refl s)
  have h2 := h1.trans (keeps_hbmFetch t l 256 (0xFFFF, 0) { acc with stop := some (bayStop t (homeOf h)) })
  revert h2
  generalize hbmFetch t l 256 (0xFFFF, 0) { acc with stop := some (bayStop t (homeOf h)) } = x
  obtain ⟨u, was⟩ := x
  intro h2
  simp only
  exact ((Keeps.ite (h2.trans (keeps_ueRead ..)) h2).trans (keeps_takeFlags ..)).trans (keeps_storeFill ..)

theorem keeps_serveFilled (s : State) (b way : Nat) (r : BayReq) : Keeps s (serveFilled s b way r) := by
  unfold serveFilled
  extract_lets a st acc notice
  split
  · exact keeps_arrayRead ..
  · exact (keeps_setCline ..).trans (keeps_arrayRuns ..)

theorem keeps_fillWay (s : State) (b : Nat) (f : Fill) : Keeps s (fillWay s b f).1 := by
  have h := keeps_allocate s f.line (orgAcc s f.req.org)
  unfold fillWay
  split
  rename_i u w e
  refine Keeps.trans ?_ (keeps_setCline ..)
  split at e
  · rw [e] at h; exact h
  · cases e; exact Keeps.refl s

theorem keeps_finishFill (s : State) (h : Nat) : Keeps s (finishFill s h) := by
  unfold finishFill
  extract_lets b
  split
  · exact Keeps.refl s
  · rename_i f _
    have k := (keeps_setBay s b { bay s b with
      fills := mapIf (fun g => decide (g = f)) (fun g => { g with done := true }) (bay s b).fills }).trans (keeps_fillWay _ b f)
    exact Keeps.foldl (fun _ _ => keeps_serveFilled ..) _ (k.trans (keeps_fillLine ..))

theorem keeps_resident (s : State) (h : Nat) (whole : Bool) (acc : Acc) : Keeps s (resident s h whole acc).1 := by
  unfold resident
  extract_lets b t
  have h0 : Keeps s t := (keeps_finishFill ..).trans (keeps_tagLook ..)
  split
  · exact h0.trans ((keeps_countT ..).trans (keeps_touch ..))
  · have k := h0.trans ((keeps_countT t 0x103 b 1).trans (keeps_allocate _ h acc))
    exact k.ite (k.trans (keeps_fillLine ..))

theorem keeps_lineStore (s : State) (a : Nat) (whole : Bool) (acc : Acc) : Keeps s (lineStore s a whole acc).1 := by
  have h := keeps_resident s a whole acc
  simp only [lineStore, apply_ite Prod.fst]
  exact (Keeps.refl s).ite ((Keeps.refl s).ite h)

theorem keeps_cleanEvent (s : State) (b a src : Nat) (acc : Acc) : Keeps s (cleanEvent s b a src acc) :=
  (((keeps_ueEvent s b a src acc false).trans (keeps_rfSat ..)).trans (keeps_countT ..)).trans (keeps_bucketEvent ..)

theorem keeps_cleanRead (s : State) (b l src : Nat) (acc : Acc) : Keeps s (cleanRead s b l src acc) := by
  unfold cleanRead
  extract_lets t u
  have h : Keeps s t := (keeps_flushFixes ..).trans (keeps_countT ..)
  have k : Keeps s u := Keeps.foldl (fun _ _ => keeps_ceEvent ..) _ h
  exact k.trans (keeps_cleanEvent ..)

theorem keeps_refillClean (s : State) (a st src : Nat) (acc : Acc) : Keeps s (refillClean s a st src acc) :=
  ((keeps_cleanRead ..).trans (keeps_fillLine ..)).ite (Keeps.refl s)

theorem keeps_lineRead (s : State) (a n : Nat) (acc : Acc) : Keeps s (lineRead s a n acc).1 := by
  have h := (keeps_lineStore s a false acc).trans
    (keeps_refillClean (lineStore s a false acc).1 a (lineStore s a false acc).2 0 acc)
  simp only [lineRead]
  split
  · exact h.trans (keeps_arrayRead ..)
  · have k := h.trans (keeps_hbmFetch _ (lineStore s a false acc).2 n (acc.raf, acc.cons) acc)
    split
    · exact ((k.trans (keeps_hbmUe ..)).trans (keeps_ueRead ..)).trans (keeps_takeFlags ..)
    · exact k.trans (keeps_takeFlags ..)

theorem keeps_lineRuns (s : State) (runs : List (Nat × List Byte)) (acc : Acc) : Keeps s (lineRuns s runs acc) := by
  unfold lineRuns
  split
  · exact Keeps.refl s
  · rename_i r l
    extract_lets a whole
    refine Keeps.ite (keeps_setBay ..) ?_
    have h := keeps_lineStore s a whole acc
    simp only
    split
    · have h1 := h.ite (c := (whole || (partWords (lineStore s a whole acc).2
          ((r :: l).map fun q => ((lineStore s a whole acc).2 + q.1 % 256, q.2))).isEmpty) = true)
        (h.trans (keeps_refillClean _ a (lineStore s a whole acc).2 2 acc))
      exact (h1.trans ((keeps_setCline ..).ite (Keeps.refl _))).trans (keeps_arrayRuns ..)
    · exact Keeps.foldl (fun _ _ => keeps_hbmWrite ..) _ h

theorem keeps_releaseAway (s : State) (b : Nat) : Keeps s (releaseAway s b) :=
  Keeps.foldl (fun _ _ => keeps_lineRuns ..) _ (keeps_setBay ..)

theorem keeps_devRead (s : State) (a n : Nat) (acc : Acc) : Keeps s (devRead s a n acc).1 := by
  unfold devRead
  refine Keeps.foldl_fst (fun x p => ?_) _ (Keeps.refl s)
  exact keeps_lineRead x.1 p.1 p.2 acc

theorem keeps_devRuns (s : State) (runs : List (Nat × List Byte)) (acc : Acc) : Keeps s (devRuns s runs acc) :=
  Keeps.foldl (fun _ _ => keeps_lineRuns ..) _ (Keeps.refl s)

theorem keeps_devWrite (s : State) (a : Nat) (bs : List Byte) (acc : Acc) : Keeps s (devWrite s a bs acc) := keeps_devRuns ..

theorem keeps_atomicMap (s : State) (a : Nat) (f : Word → Word) (acc : Acc) : Keeps s (atomicMap s a f acc).1 := by
  unfold atomicMap
  extract_lets b t old u
  have h : Keeps s t := (keeps_countT ..).trans (keeps_arrayRead ..)
  split
  · exact h
  · exact (((h.trans (keeps_forget ..)).trans (keeps_countT ..)).trans (keeps_putWord ..)).trans (keeps_fireWatches ..)

theorem keeps_drainBay (s : State) (b : Nat) (acc : Acc) : Keeps s (drainBay s b acc) :=
  Keeps.foldl (fun _ _ => keeps_writeBack ..) _ (Keeps.refl s)

theorem keeps_poisonDirty (s : State) (b : Nat) : Keeps s (poisonDirty s b) :=
  Keeps.foldl (fun _ _ => keeps_setPoison ..) _ (Keeps.refl s)

end Sys2Proof.Machine
end

