-- ==== Sys2Proof/Laws/Issue.lean ====
section
/-! SUPPORT. What a ring command, a sequencer instruction and a thread instruction can do, said once for each of the shared
operations `ringDo`, `seqDo`, `thrDo` and `execVal`. -/

namespace Sys2Proof.Machine

/-! ## Completions and fetching -/

theorem keeps_writeComp (s : State) (c : Comp) : Keeps s (writeComp s c) := by
  unfold writeComp
  extract_lets r tail w0 t tail' u
  have h1 : Keeps s t := keeps_hostRecord s _ _ _ _ _
  have h : Keeps s u := h1.trans (keeps_rfSet t _ _ _ _ _)
  exact h.same.ite h

theorem keeps_putComp (s : State) (c : Comp) : Keeps s (putComp s c) :=
  (Keeps.refl s).ite ((Keeps.refl s).same.ite (keeps_writeComp s c))

theorem keeps_flushComps (s : State) : Keeps s (flushComps s) := by
  unfold flushComps
  exact Keeps.foldl (fun t c => keeps_putComp t c) _ (Keeps.refl s).same

theorem keeps_cmdComp (s : State) (r : Fin 16) (e : Entry) (status : Nat) (h : BitVec 32) (w2 : Word) :
    Keeps s (cmdComp s r e status h w2) := keeps_putComp ..

theorem keeps_issueMrd (s : State) (addr len : Nat) (u : MrdUse) : Keeps s (issueMrd s addr len u) := (Keeps.refl s).same

theorem keeps_setFetch (s : State) (k : Nat) (x : Option HFetch) : Keeps s (setFetch s k x) := (Keeps.refl s).same

theorem keeps_pumpFetch (s : State) (k n : Nat) : Keeps s (pumpFetch s k n) := by
  induction n generalizing s with
  | zero => exact Keeps.refl s
  | succ n ih =>
    unfold pumpFetch
    split
    · exact Keeps.refl s
    · rename_i x _
      extract_lets l t
      exact (Keeps.refl s).ite (((keeps_issueMrd s _ _ _).trans (keeps_setFetch ..)).trans (ih _))

theorem keeps_startFetch (s : State) (k : Nat) (addr : Word) (len : Nat) (cut : Fin 4096) :
    Keeps s (startFetch s k addr len cut) :=
  (keeps_setFetch ..).trans (keeps_pumpFetch ..)

theorem keeps_ringFetch (s : State) : Keeps s (ringFetch s) := by
  unfold ringFetch
  exact Keeps.foldl (fun t _ => (keeps_issueMrd t _ _ _).ite (Keeps.refl t)) _ (Keeps.refl s)

theorem keeps_takeArrived (s : State) (r : Fin 16) (e : Entry) : Keeps s (takeArrived s r e) := (Keeps.refl s).same

/-! ## Ring commands -/

/-- A ring command that answers a next state is one of a ring in use, on a device that has not stopped. Where the ring's
flow waits, or the command's session is bound, nothing happens; else it is refused early with a completion, or carried out, and the device reads on. -/
theorem ringDo_next {s t : State} {r : Fin 16} {e : Entry} {op : Nat} {body : State → State}
    (h : ringDo s r e op body = .next t) :
    ringOp op e = true ∧ ringOn s r = true ∧ stopped s = false ∧
      (((flowWaits s (.ring r) || namesBound s op e) = true ∧ t = s) ∨
       (∃ c, early (takeArrived s r e) op e = some c ∧ t = ringFetch (cmdComp (takeArrived s r e) r e c (entHandle e))) ∨
       (early (takeArrived s r e) op e = none ∧ t = ringFetch (body (takeArrived s r e)))) := by
  unfold ringDo at h
  split at h
  · cases h
  · split at h
    · cases h
    · rename_i h1 h2
      simp only [Bool.or_eq_true, Bool.not_eq_true', not_or, Bool.not_eq_false, Bool.not_eq_true] at h1 h2
      refine ⟨h1, h2.1, h2.2, ?_⟩
      split at h
      · rename_i hw; injection h with h; exact .inl ⟨hw, h.symm⟩
      · injection h with h
        cases hc : early (takeArrived s r e) op e with
        | some c => exact .inr (.inl ⟨c, rfl, by rw [← h, hc]⟩)
        | none => exact .inr (.inr ⟨rfl, by rw [← h, hc]⟩)

/-- Where the entry spells the command, its ring is in use, its flow does not wait and its session is not bound, the command answers a next state. -/
theorem ringDo_completes (s : State) (r : Fin 16) (e : Entry) (op : Nat) (body : State → State)
    (h1 : ringOp op e = true) (h2 : ringOn s r = true) (h3 : stopped s = false) (h4 : flowWaits s (.ring r) = false)
    (h5 : namesBound s op e = false) :
    ringDo s r e op body = .next (ringFetch (match early (takeArrived s r e) op e with
      | some c => cmdComp (takeArrived s r e) r e c (entHandle e)
      | none => body (takeArrived s r e))) := by
  cases hc : early (takeArrived s r e) op e <;> simp [ringDo, h1, h2, h3, h4, h5, hc]

theorem keeps_ringDo {s t : State} {r : Fin 16} {e : Entry} {op : Nat} {body : State → State}
    (hb : ∀ u, Keeps u (body u)) (h : ringDo s r e op body = .next t) : Keeps s t := by
  obtain ⟨-, -, -, ⟨-, rfl⟩ | ⟨c, -, rfl⟩ | ⟨-, rfl⟩⟩ := ringDo_next h
  · exact Keeps.refl _
  · exact ((keeps_takeArrived s r e).trans (keeps_cmdComp ..)).trans (keeps_ringFetch _)
  · exact ((keeps_takeArrived s r e).trans (hb _)).trans (keeps_ringFetch _)

/-- A ring command whose data has to be fetched asks for it or waits; else it is one that `ringDo` carries out. -/
theorem keeps_ringData {s t : State} {r : Fin 16} {e : Entry} {op len : Nat} {cut : Fin 4096} {wants : Bool}
    {body : State → List Byte → State} (hb : ∀ u bs, Keeps u (body u bs)) (h : ringData s r e op len cut wants body = .next t) :
    Keeps s t := by
  unfold ringData at h
  split at h
  · cases h
  · split at h
    · cases h
    · split at h
      · injection h with h; exact h ▸ Keeps.refl s
      · split at h
        · injection h with h
          exact h ▸ (keeps_startFetch ..).ite (Keeps.refl s)
        · exact keeps_ringDo (fun u => (keeps_setFetch ..).trans (hb _ _)) h

theorem keeps_sesCmd {s : State} {r : Fin 16} {e : Entry} {bad : Bool} {body : State → Nat → State × Nat}
    (hb : ∀ u i, Keeps u (body u i).1) : Keeps s (sesCmd s r e bad body) := by
  unfold sesCmd
  split
  · exact keeps_cmdComp ..
  · rename_i i _
    exact (keeps_cmdComp s r e 0x06 (entHandle e) 0).ite ((hb s i).trans (keeps_cmdComp _ r e _ _ 0))

/-! ## Fetching (R116) -/

/-- `t` is `s` after fetches of rafter `n`'s program, or while one waits: reads asked for, lines that came, and open bits drawn
for words that could not be fetched. -/
inductive Fetched (n : Nat) (s : State) : State → Prop
  | refl : Fetched n s s
  | ask {t : State} (l : List RdReq) : Fetched n s t → Fetched n s (askRead t n l)
  | miss {t : State} (y : Option Nat) (o : Nat) : Fetched n s t → Fetched n s (fetchMiss (endRead t n (.code y)) n o)
  | free {t : State} : Fetched n s t → Fetched n s (takeFree t).1

/-- A fetch finds its line in the buffer, or brings it there, or waits for it. -/
theorem fetch_cases (t : State) (n : Nat) (y : Option Nat) (o : Nat) :
    fetch t n y o = .ok t ∨ (∃ l, fetch t n y o = .hold (askRead t n l)) ∨
      fetch t n y o = .bad (fetchMiss (endRead t n (.code y)) n o) ∨
      fetch t n y o = .ok (fetchMiss (endRead t n (.code y)) n o) := by
  unfold fetch readWaits
  generalize fetchMiss (endRead t n (.code y)) n o = m
  split
  · exact .inl rfl
  · split
    · rename_i u hu
      split at hu
      · cases hu; exact .inr (.inl ⟨_, rfl⟩)
      · cases hu
    · simp only
      split
      · exact .inr (.inr (.inl rfl))
      · exact .inr (.inr (.inr rfl))

theorem Fetched.fetch {s t u : State} {n o : Nat} {y : Option Nat} (k : Fetched n s t)
    (h : fetch t n y o = .hold u ∨ fetch t n y o = .ok u ∨ fetch t n y o = .bad u) : Fetched n s u := by
  rcases fetch_cases t n y o with c | ⟨l, c⟩ | c | c <;> rw [c] at h <;> simp at h <;> subst h
  · exact k
  · exact k.ask l
  · exact k.miss y o
  · exact k.miss y o

/-- A line in the buffer is fetched without a change. -/
theorem fetch_buffered {s : State} {n o : Nat} {y : Option Nat} (h : buffered s n o = true) : fetch s n y o = .ok s := by
  unfold Machine.fetch; rw [if_pos h]

theorem keeps_keepLine (s : State) (n l : Nat) : Keeps s (keepLine s n l) := (keeps_modRaf ..).ite (Keeps.refl s)

theorem keeps_readBeats (s : State) (n k : Nat) : Keeps s (readBeats s n k) := keeps_countR ..

theorem keeps_askRead (s : State) (n : Nat) (l : List RdReq) : Keeps s (askRead s n l) := (keeps_modRaf ..).ite (Keeps.refl s)

theorem keeps_endRead (s : State) (n : Nat) (x : RdSrc) : Keeps s (endRead s n x) := (keeps_modRaf ..).ite (Keeps.refl s)

theorem keeps_fetchMiss (s : State) (n o : Nat) : Keeps s (fetchMiss s n o) :=
  (((keeps_countR ..).trans (keeps_arrayRead ..)).trans (keeps_readBeats ..)).trans (keeps_keepLine ..)

theorem Fetched.keeps {s t : State} {n : Nat} (h : Fetched n s t) : Keeps s t := by
  induction h with
  | refl => exact Keeps.refl s
  | ask l _ ih => exact ih.trans (keeps_askRead ..)
  | miss y o _ ih => exact ih.trans ((keeps_endRead ..).trans (keeps_fetchMiss ..))
  | free _ ih => exact ih.trans (keeps_takeFree _)

/-! ## Sequencer instructions -/

/-- A sequencer instruction that answers a next state is one that could issue. It waits for its fetch, took a trap of its
fetch or an ILLEGAL, or reached its effect on the state after its fetches. -/
theorem seqDo_next {s t : State} {n : Nat} {w ext : Word} {f : Form} {bad : Bool} {eff : State → SOut}
    (h : seqDo s n w ext f bad eff = .next t) :
    seqReady s n = true ∧ ∃ u, Fetched n s u ∧
      (t = u ∨ (∃ c a i j, 1 ≤ c ∧ c ≤ 3 ∧ fetchTrap u n c a i j = .next t) ∨
       seqEff u n w (if f.long then ext else 0) eff = .next t) := by
  unfold seqDo at h
  extract_lets o at h
  split at h
  · cases h
  · rename_i hr
    refine ⟨by simpa using hr, ?_⟩
    split at h
    · exact ⟨_, .free .refl, .inr (.inl ⟨2, _, _, _, by decide, by decide, h⟩)⟩
    · split at h
      · rename_i u hf
        injection h with h; exact ⟨u, Fetched.refl.fetch (.inl hf), .inl h.symm⟩
      · rename_i u hf
        exact ⟨_, .free (Fetched.refl.fetch (.inr (.inr hf))), .inr (.inl ⟨3, _, _, _, by decide, by decide, h⟩)⟩
      · rename_i u hf
        have k : Fetched n s u := Fetched.refl.fetch (.inr (.inl hf))
        split at h
        · exact ⟨u, k, .inr (.inl ⟨1, _, _, _, by decide, by decide, h⟩)⟩
        · split at h
          · rename_i hl
            unfold seqLong at h
            extract_lets o2 at h
            split at h
            · exact ⟨_, .free k, .inr (.inl ⟨2, _, _, _, by decide, by decide, h⟩)⟩
            · split at h
              · rename_i v hg; injection h with h; exact ⟨v, k.fetch (.inl hg), .inl h.symm⟩
              · rename_i v hg; exact ⟨_, .free (k.fetch (.inr (.inr hg))), .inr (.inl ⟨3, _, _, _, by decide, by decide, h⟩)⟩
              · rename_i v hg; exact ⟨v, k.fetch (.inr (.inl hg)), .inr (.inr (by rw [if_pos hl]; exact h))⟩
          · rename_i hl; exact ⟨u, k, .inr (.inr (by rw [if_neg hl]; exact h))⟩

/-- A short instruction that is fetched and legal has its effect. -/
theorem seqDo_short {s u : State} {n : Nat} {w ext : Word} {f : Form} {eff : State → SOut} (hr : seqReady s n = true)
    (hp : (raf s n).pc.toNat < (raf s n).size.toNat) (hf : fetch s n none (raf s n).pc.toNat = .ok u)
    (hl : legalForm f false w = true) (hs : f.long = false) : seqDo s n w ext f false eff = seqEff u n w 0 eff := by
  simp [seqDo, hr, hf, hl, hs, Nat.not_le.mpr hp]

/-- A long instruction whose two words are fetched and which is legal has its effect. -/
theorem seqDo_long {s u v : State} {n : Nat} {w ext : Word} {f : Form} {eff : State → SOut} (hr : seqReady s n = true)
    (hp : (raf s n).pc.toNat < (raf s n).size.toNat) (hf : fetch s n none (raf s n).pc.toNat = .ok u)
    (hl : legalForm f false w = true) (hs : f.long = true) (hq : (raf u n).pc.toNat + 8 < (raf u n).size.toNat)
    (hg : fetch u n none ((raf u n).pc.toNat + 8) = .ok v) : seqDo s n w ext f false eff = seqEff v n w ext eff := by
  simp [seqDo, seqLong, hr, hf, hl, hs, hg, Nat.not_le.mpr hp, Nat.not_le.mpr hq]

/-! ## Thread instructions -/

/-- A thread instruction that answers a next state is one of a running yealm with a subset to pick. It waits for its fetch,
its fetch or its form trapped, or it reached its effect on the state after its fetches. -/
theorem thrDo_next {s t : State} {n y : Nat} {w : Word} {f : Form} {bad : Bool}
    {eff : State → YSlot → List Nat → BitVec 20 → YOut} (h : thrDo s n y w f bad eff = .next t) :
    yRuns s n y = true ∧ ∃ x live sub pc, yPick (yslot (raf s n) y) = some (x, live, sub, pc) ∧ ∃ u, Fetched n s u ∧
      (t = u ∨ (∃ c a, 1 ≤ c ∧ c ≤ 3 ∧ t = yTrap u n y x c sub pc a) ∨
       thrEff u n y { x := x, live := live, sub := sub, pc := pc } eff = .next t) := by
  unfold thrDo at h
  split at h
  · cases h
  · rename_i hr
    refine ⟨by simpa using hr, ?_⟩
    split at h
    · cases h
    · rename_i x live sub pc hp
      refine ⟨x, live, sub, pc, hp, ?_⟩
      simp only at h
      split at h
      · injection h with h; exact ⟨s, .refl, .inr (.inl ⟨2, _, by decide, by decide, h.symm⟩)⟩
      · split at h
        · rename_i u hf
          injection h with h; exact ⟨u, Fetched.refl.fetch (.inl hf), .inl h.symm⟩
        · rename_i u hf
          injection h with h
          exact ⟨u, Fetched.refl.fetch (.inr (.inr hf)), .inr (.inl ⟨3, _, by decide, by decide, h.symm⟩)⟩
        · rename_i u hf
          have k : Fetched n s u := Fetched.refl.fetch (.inr (.inl hf))
          split at h
          · injection h with h; exact ⟨u, k, .inr (.inl ⟨1, _, by decide, by decide, h.symm⟩)⟩
          · split at h
            · unfold thrLong at h
              simp only at h
              split at h
              · injection h with h; exact ⟨u, k, .inr (.inl ⟨2, _, by decide, by decide, h.symm⟩)⟩
              · split at h
                · rename_i v hg; injection h with h; exact ⟨v, k.fetch (.inl hg), .inl h.symm⟩
                · rename_i v hg
                  injection h with h
                  exact ⟨v, k.fetch (.inr (.inr hg)), .inr (.inl ⟨3, _, by decide, by decide, h.symm⟩)⟩
                · rename_i v hg; exact ⟨v, k.fetch (.inr (.inl hg)), .inr (.inr h)⟩
            · exact ⟨u, k, .inr (.inr h)⟩

end Sys2Proof.Machine
end

