-- ==== Sys2Proof/Tests/Slice0.lean ====
section
/-! SUPPORT. Tests of one step each, on small states, and a witness for the hypotheses of each statement. A witness
theorem `test_<statement>_<clause>` gives a concrete state and operands that meet the clause's hypotheses, and what the
command then does. Expected values come from the rules that the statement cites. -/

open Sys2Proof Sys2Proof.Machine Sys2Proof.Claim

namespace Sys2Proof.Tests

set_option Elab.async false

/-- Whether a command answers a next state of which `p` holds. -/
def ans (o : Out) (p : State → Bool) : Bool := match o with | .next t => p t | _ => false

/-- Whether a command answers the next state `t`. -/
def gives (o : Out) (t : State) : Bool := ans o fun u => decide (u = t)

/-- Whether a command is refused as ill formed. -/
def illFormed (o : Out) : Bool := match o with | .refused .illFormed => true | _ => false

/-- The device address of a register. -/
def adr (r : Reg) (i : Nat := 0) (j : Nat := 0) : BitVec 40 := BitVec.ofNat 40 (regAddr r i j)

/-- A device in service: STEP 11, PHASE DONE, STATE SERVICE, the Ridge course powered. -/
def live : State :=
  let s := rgSet (rgSet State.reset .bootStat 0 0 0xBC00000000000000) .sysState 0 0 1
  { s with boot := { s.boot with ridgeOn := true, standby := true, released := true } }

/-- A device in bring-up, attended, at a step and phase. -/
def boot (step phase : Nat) : State :=
  let s := rgSet State.reset .bootStat 0 0 (mkWord [(60, 4, step), (58, 2, phase), (57, 1, 1)])
  { s with boot := { s.boot with ridgeOn := true, standby := true, released := true } }


/-! ## Register commands -/

theorem test_StepRunsFrontCommand_1 :
    ({ live with pending := [.timeBeacon, .lateScrub 0] } : State).pending = .timeBeacon :: [.lateScrub 0] ∧
    ans (step { live with pending := [.timeBeacon, .lateScrub 0] }) (fun t => decide (t.pending = [.lateScrub 0])) = true := by
  decide +kernel

theorem test_StepRunsFrontCommand_2 : live.pending = [] ∧ live.boot.ridgeOn = true ∧ State.reset.pending = [] ∧
    State.reset.boot.ridgeOn = false ∧
    ans (step (advanceTo live 127)) (fun t => decide (nowR t = 128 ∧ nowT t = 64)) = true := by decide +kernel

theorem test_StepRunsFrontCommand_3 : live.time.dcnt.toNat ≤ 1000 ∧ (nowR (advanceTo live 1000)).toNat = 1000 ∧
    (nowT (advanceTo live 1000)).toNat = 896 := by decide +kernel

theorem test_RegisterAccessRefused_1 : named (0xF0FFFFFFF8 : BitVec 40).toNat = none ∧
    regWaits (boot 3 1) .host (0xF0FFFFFFF8 : BitVec 40).toNat = false ∧ sizeOk 4 = true ∧
    named ((0xF0FFFFFFFC : BitVec 40).toNat / 8 * 8) = none ∧
    gives (exec (.registerWrite .host 0xF0FFFFFFFC 4 1) (boot 3 1)) (accessNotice (boot 3 1) .host 2 0xF0FFFFFFFC 1) = true ∧
    ans (exec (.unmappedRegisterRead .host 0xF0FFFFFFF8) (boot 3 1)) (fun t => decide (t.rdata = 0xFFFFFFFFFFFFFFFF ∧
      t.notices.held.length = 1)) = true := by decide +kernel

theorem test_RegisterAccessRefused_2 : named (adr .bayWaycfg).toNat = some ⟨.bayWaycfg, 0, 0⟩ ∧
    regDark live ⟨.bayWaycfg, 0, 0⟩ = false ∧ sealed live = true ∧ (regRow .bayWaycfg).sw ≠ 0 ∧
    (regRow .bayWaycfg).rw = 0 ∧ (regRow .bayWaycfg).w1c = 0 ∧ (regRow .bayWaycfg).wo = 0 ∧
    gives (exec (.registerWrite .host (adr .bayWaycfg) 8 1) live) (accessNotice live .host 3 (adr .bayWaycfg).toNat 1) = true := by
  decide +kernel

theorem test_RegisterAccessRefused_3 : named (adr .vlyEidx).toNat = some ⟨.vlyEidx, 0, 0⟩ ∧
    gives (exec (.registerWrite .host (adr .vlyEidx) 4 1) live) (accessNotice live .host 5 (adr .vlyEidx).toNat 1) = true ∧
    named ((adr .vlyEidx + 4).toNat / 8 * 8) = some ⟨.vlyEidx, 0, 0⟩ ∧
    gives (exec (.registerWrite .host (adr .vlyEidx + 4) 4 1) live) (accessNotice live .host 5 (adr .vlyEidx + 4).toNat 1) = true := by
  decide +kernel

/-- Rafter 3 in RUN. -/
def run3 : State := modRaf live 3 fun r => { r with st := .run, size := 0x1000, pc := 0x48 }

theorem test_RegisterAccessRefused_4 : mayWrite (.rafter 3) (adr .vlyEidx).toNat = false ∧ (raf run3 3).st = .run ∧
    gives (exec (.registerWrite (.rafter 3) (adr .vlyEidx) 8 1) run3) (regTrap run3 3 0x11 (adr .vlyEidx).toNat) = true ∧
    (raf (regTrap run3 3 0x11 (adr .vlyEidx).toNat) 3).st = .frozen ∧
    (raf (regTrap run3 3 0x11 (adr .vlyEidx).toNat) 3).cause = 0x11 := by decide +kernel

/-- A rafter's access outside every window (R126). -/
theorem test_RegisterAccessRefused_5 : isRegs 0x1000 = false ∧ checkAccess run3 3 0x1000 8 false ≠ .ok ∧
    checkAccess run3 3 0x1000 8 true ≠ .ok ∧ named 0x1000 = none ∧
    ans (exec (.unmappedRegisterRead (.rafter 3) 0x1000) run3) (fun t => decide ((raf t 3).cause = 0x10)) = true ∧
    ans (exec (.registerWrite (.rafter 3) 0x1000 8 5) run3) (fun t => decide ((raf t 3).cause = 0x10)) = true := by
  decide +kernel

theorem test_RegisterWriteStores_1 : mayWrite .host (adr .vlyEidx).toNat = true ∧
    named (adr .vlyEidx).toNat = some ⟨.vlyEidx, 0, 0⟩ ∧ regDark live ⟨.vlyEidx, 0, 0⟩ = false ∧
    ans (exec (.registerWrite .host (adr .vlyEidx) 8 0x12345) live) (fun t => decide (rg t .vlyEidx = 0x12345 &&&
      (regRow .vlyEidx).rw ∧ t.free = 1)) = true := by decide +kernel

/-- A rafter writes its own block. -/
theorem test_RegisterWriteStores_1b : mayWrite (.rafter 3) (adr .rafnPeek 3).toNat = true ∧
    named (adr .rafnPeek 3).toNat = some ⟨.rafnPeek, 3, 0⟩ ∧ regDark live ⟨.rafnPeek, 3, 0⟩ = false ∧
    ans (exec (.registerWrite (.rafter 3) (adr .rafnPeek 3) 8 0x10) live) (fun t => decide (rg t .rafnPeek 3 = 0x10)) = true := by
  decide +kernel

theorem test_RegisterWriteStores_2 : (∀ n, Master.host ≠ .rafter n) ∧
    ans (exec (.monFreezeWrite .host 0x8000000000000000) live) (fun t => rbit t .monCtl 0 63) = true := by decide +kernel

theorem test_RegisterWriteStores_3 : mayWrite .host (adr .monTselk 5).toNat = true ∧
    named (adr .monTselk 5).toNat = some ⟨.monTselk, 5, 0⟩ ∧ regDark live ⟨.monTselk, 5, 0⟩ = false ∧
    srcListed .monTselk (fld (stored live ⟨.monTselk, 5, 0⟩ 0x8000000000030107) 0 10)
      (fld (stored live ⟨.monTselk, 5, 0⟩ 0x8000000000030107) 16 16) = true ∧
    ans (exec (.counterSelectWrite .host (adr .monTselk 5) 0x8000000000030107) (rgSet live .monTcntk 5 0 77)) (fun t =>
      decide (rg t .monTselk 5 = 0x8000000000030107 ∧ fld (rg t .monTcntk 5) 0 48 = 0)) = true := by decide +kernel

theorem test_RegisterReads_1 : named (adr .vlyStat).toNat = some ⟨.vlyStat, 0, 0⟩ ∧ regDark live ⟨.vlyStat, 0, 0⟩ = false ∧
    regWaits live .host (adr .vlyStat).toNat = false ∧
    ans (exec (.rclFieldRead .host (adr .vlyStat)) (rfSet live .vlyStat 0 17 17 5)) (fun t => decide (rf t .vlyStat 0 17 17 = 0 ∧
      fld t.rdata 17 17 = 5)) = true := by decide +kernel

/-- Rafter 2 with a state and a peek register. -/
def peekAt (st : RState) (v : Word) : State :=
  modRaf (rgSet live .rafnPeek 2 0 v) 2 fun r => { setSreg r 7 99 with st := st, store := writeBytes [] 0x40 [1, 2, 3] }

theorem test_RegisterReads_2 : courseDark (peekAt .frozen 0x40) (courseOf (peekAt .frozen 0x40) 2) = false ∧
    (raf (peekAt .frozen 0x40) 2).st = .frozen ∧ fld (rg (peekAt .frozen 0x40) .rafnPeek 2) 62 2 = 0 ∧
    fld (rg (peekAt .frozen 0x40) .rafnPeek 2) 0 20 % 8 = 0 ∧
    ans (exec (.peekdRead .host 2) (peekAt .frozen 0x40)) (fun t => decide (t.rdata = 0x030201)) = true := by decide +kernel

theorem test_RegisterReads_3 : (raf (peekAt .frozen 0x4000000000000007) 2).st = .frozen ∧
    fld (rg (peekAt .frozen 0x4000000000000007) .rafnPeek 2) 62 2 = 1 ∧
    fld (rg (peekAt .frozen 0x4000000000000007) .rafnPeek 2) 0 20 < 64 ∧
    gives (exec (.peekdRead .host 2) (peekAt .frozen 0x4000000000000007))
      { peekAt .frozen 0x4000000000000007 with rdata := 99 } = true := by decide +kernel

theorem test_RegisterReads_4 : (raf (peekAt .run 0x40) 2).st ≠ .frozen ∧
    gives (exec (.peekdRead .host 2) (peekAt .run 0x40))
      { accessNotice (peekAt .run 0x40) .host 6 (regAddr .rafnPeekd 2) 0 with rdata := 0xFFFFFFFFFFFFFFFF } = true := by
  decide +kernel

/-- Rafter 2 with slot 1 in a state, t5 of its thread 4 holding 42, and YLMn_PEEK naming them. -/
def ypeek (st : YState) : State :=
  modRaf (rgSet live .ylmnPeek 2 0 (mkWord [(60, 4, 1), (55, 5, 4), (49, 6, 5)])) 2 fun r =>
    setYslot r 1 (setThr { st := st } 4 (setTreg {} 5 42))

theorem test_RegisterReads_5 : courseDark (ypeek .trapped) (courseOf (ypeek .trapped) 2) = false ∧
    (yslot (raf (ypeek .trapped) 2) (fld (rg (ypeek .trapped) .ylmnPeek 2) 60 4)).st = .trapped ∧
    fld (rg (ypeek .trapped) .ylmnPeek 2) 49 6 < 32 ∧
    ans (exec (.ylmPeekdRead .host 2) (ypeek .trapped)) (fun t => decide (t.rdata = 42)) = true ∧
    ans (exec (.ylmPeekdRead .host 2) (ypeek .run)) (fun t => decide (t.rdata = 0xFFFFFFFFFFFFFFFF)) = true := by decide +kernel

theorem test_PortRegisterWrites_1 : (∀ n, Master.host ≠ .rafter n) ∧ sealed (boot 10 0) = false ∧
    ans (exec (.batEtdataWrite .host 7) (rgSet (boot 10 0) .batEtidx 0 0 4095)) (fun t =>
      decide (rg t .batEtidx = 0 ∧ tget 0 t.bat.etab 4095 = 7)) = true ∧
    ans (exec (.batPldataWrite .host 0xFFFFFFFFFFFFFFFF) (rgSet (boot 10 0) .batPlidx 0 0 255)) (fun t =>
      decide (rg t .batPlidx = 0 ∧ tget 0 t.bat.pltab 255 = 0xFFFFFFFC00000000)) = true ∧
    ans (exec (.batSidataWrite .host 0xFFFFFFFFFFFFFFFF) (rgSet (boot 10 0) .batSiidx 0 0 3)) (fun t =>
      decide (rg t .batSiidx = 4 ∧ tget 0 t.bat.sitab 3 = 0x80FF000000000000)) = true ∧
    ans (exec (.vlyRtdataWrite .host 9) (rgSet (boot 10 0) .vlyRtidx 0 0 65535)) (fun t =>
      decide (rg t .vlyRtidx = 0 ∧ tget 0 t.vly.rt 65535 = 9)) = true ∧
    rf (boot 10 0) .secPidx 0 0 6 < 54 ∧
    ans (exec (.secPdataWrite .host 9) (rgSet (boot 10 0) .secPidx 0 0 53)) (fun t =>
      decide (rf t .secPidx 0 0 6 = 0 ∧ tget 0 t.sec.prov 53 = 9)) = true ∧
    (boot 10 0).bat.blocked = [] ∧ (boot 10 0).gate.slots = [] ∧ bitOf (5 : Word) 63 = false ∧
    ans (exec (.gateEdataWrite .host 5) (rgSet (boot 10 0) .gateEidx 0 0 131071)) (fun t =>
      decide (rg t .gateEidx = 0 ∧ tget 0 t.gate.entries 131071 = 5)) = true := by decide +kernel

theorem test_PortRegisterWrites_7 : rf (boot 10 0) .gateEidx 0 0 17 % 2 = 0 ∧ bitOf (0x8000050000000000 : Word) 63 = true ∧
    bitOf (0x8000050000000000 : Word) 62 = false ∧ isExpertGroup (boot 10 0) (fld 0x8000050000000000 40 14) = false ∧
    ans (exec (.gateEdataWrite .host 0x8000050000000000) (boot 10 0)) (fun t =>
      decide (tget 0 t.gate.entries 0 = 0x0000050000000000 ∧ t.notices.held.length = 1)) = true ∧ sealed live = true ∧
    gives (exec (.batPldataWrite .host 7) live) (accessNotice live .host 3 (regAddr .batPldata) 7) = true := by decide +kernel

/-- Ring 3 open with 64 command entries and 128 completion entries. -/
def ringAt : State := rgSet live .sesrRctl 3 0 (mkWord [(63, 1, 1), (58, 5, 6), (53, 5, 7)])

theorem test_PortRegisterWrites_2 : ringOn live 3 = false ∧ bitOf (0x9800000000000000 : Word) 63 = true ∧ live.host.comps = [] ∧
    ans (exec (.sesRctlWrite .host 3 0x9800000000000000) { rgSet live .sesrCtail 3 0 5 with host := { phases := 0 } }) (fun t =>
      ringOn t 3 && decide (t.host.phases = 8 ∧ rg t .sesrCtail 3 = 0)) = true := by decide +kernel

theorem test_PortRegisterWrites_3 : 2 ^ rf ringAt .sesrRctl 3 58 5 ≤ fld 64 0 16 ∧
    gives (exec (.doorbell .host 3 64) ringAt) (accessNotice ringAt .host 5 (regAddr .sesrCtail 3) 64) = true ∧
    fld 63 0 16 < 2 ^ rf ringAt .sesrRctl 3 58 5 ∧
    ans (exec (.doorbell .host 3 63) ringAt) (fun t => decide (rf t .sesrCtail 3 0 16 = 63)) = true := by decide +kernel

theorem test_PortRegisterWrites_4 : 2 ^ rf ringAt .sesrRctl 3 53 5 ≤ fld 128 0 16 ∧
    gives (exec (.sesKheadWrite .host 3 128) ringAt) (accessNotice ringAt .host 5 (regAddr .sesrKhead 3) 128) = true ∧
    fld 127 0 16 < 2 ^ rf ringAt .sesrRctl 3 53 5 ∧
    ans (exec (.sesKheadWrite .host 3 127) ringAt) (fun t => decide (rf t .sesrKhead 3 0 16 = 127)) = true := by decide +kernel

theorem test_PortRegisterWrites_5 : rbit live .monNctl 0 63 = false ∧ bitOf (0xC000000000000000 : Word) 63 = true ∧
    6 ≤ fld 0xC000000000000000 58 5 ∧ fld 0xC000000000000000 58 5 ≤ 16 ∧
    ans (exec (.monNctlWrite .host 0xC000000000000000) live) (fun t => rbit t .monNctl 0 63 &&
      decide (rf t .monNctl 0 58 5 = 16 ∧ rg t .monNhead = 0)) = true := by decide +kernel

/-- The notice ring open with 64 entries. -/
def nring : State := rgSet live .monNctl 0 0 (mkWord [(63, 1, 1), (58, 5, 6)])

theorem test_PortRegisterWrites_6 : 2 ^ rf nring .monNctl 0 58 5 ≤ fld 64 0 16 ∧
    gives (exec (.monNheadWrite .host 64) nring) (accessNotice nring .host 5 (regAddr .monNhead) 64) = true ∧
    fld 63 0 16 < 2 ^ rf nring .monNctl 0 58 5 ∧ nring.notices.dropFirst = none ∧
    gives (exec (.monNheadWrite .host 63) nring) (rgSet nring .monNhead 0 0 63) = true := by decide +kernel

theorem test_BringupRegisterWrites_1 : goAwaited (boot 9 0) .host 9 false = true ∧
    ans (exec (.bootGoAction .host 9) (boot 9 0)) (fun t => decide (bootStep t = 9 ∧ bootPhase t = 1)) = true := by decide +kernel

theorem test_BringupRegisterWrites_2 : goAwaited (boot 9 2) .host 9 true = true ∧
    ans (exec (.bootGoFin .host 9) (boot 9 2)) (fun t => decide (bootStep t = 10 ∧ bootPhase t = 0)) = true := by decide +kernel

theorem test_BringupRegisterWrites_3 : sealed (boot 9 2) = false ∧ goAwaited (boot 9 2) .host 9 false = false ∧
    gives (exec (.bootGoAction .host 9) (boot 9 2)) (accessNotice (boot 9 2) .host 5 (regAddr .bootGo) 9) = true ∧
    goAwaited (boot 9 0) .host 9 true = false ∧
    gives (exec (.bootGoFin .host 9) (boot 9 0)) (accessNotice (boot 9 0) .host 5 (regAddr .bootGo) 25) = true := by decide +kernel

theorem test_BringupRegisterWrites_4 : 6 ≤ bootStep (boot 6 0) ∧
    gives (exec (.hubSpareWrite .host 2 0x8105) (boot 6 0)) (accessNotice (boot 6 0) .host 5 (regAddr .hubSpared 2) 0x8105) = true ∧
    4 ≤ bootStep (boot 5 2) ∧ bootStep (boot 5 2) < 6 ∧ bitOf (0x105 : Word) 15 = false ∧ bitOf (0x105 : Word) 31 = false ∧
    ans (exec (.hubSpareWrite .host 2 0x105) (boot 5 2)) (fun t => decide (rf t .hubSpared 2 8 6 = 1)) = true := by decide +kernel

theorem test_BringupRegisterWrites_7 : goAwaited (boot 5 2) .host 5 true = true ∧
    ans (exec (.bootGoFin .host 5) (boot 5 2)) (fun t => decide (t.boot.live = true ∧ bootStep t = 6 ∧ bootPhase t = 0 ∧
      rf (boot 5 2) .bootCtl 0 0 16 ≤ liveCount t)) = true ∧
    ans (exec (.bootGoFin .host 5) (rfSet (boot 5 2) .bootCtl 0 0 16 300)) (fun t => decide (liveCount t < 300 ∧ bootStep t = 5 ∧
      rf t .bootStat 0 40 8 = 0x22)) = true := by decide +kernel

/-- Spare 65 may not serve the position that spare 64 serves; a failed spare may serve none. -/
theorem test_BringupRegisterWrites_8 : bitOf (0x81008100 : Word) 15 = true ∧ bitOf (0x81008100 : Word) 31 = true ∧
    fld (0x81008100 : Word) 8 6 = fld (0x81008100 : Word) 24 6 ∧
    ans (exec (.hubSpareWrite .host 2 0x81008100) (boot 5 2)) (fun t => rbit t .hubSpared 2 15 && !rbit t .hubSpared 2 31 &&
      decide (t.notices.held.length = 1)) = true ∧
    ({ boot 5 2 with boot := { (boot 5 2).boot with now_ := 1 <<< 196 } } : State).boot.now_.getLsbD (66 * 2 + 64) = true ∧
    ans (exec (.hubSpareWrite .host 2 0x8100) { boot 5 2 with boot := { (boot 5 2).boot with now_ := 1 <<< 196 } }) (fun t =>
      !rbit t .hubSpared 2 15 && decide (t.notices.held.length = 1)) = true := by decide +kernel

theorem test_BringupRegisterWrites_5 : rbit (rgSet live .bootFwaddr 0 0 0x4000000) .bootFwaddr 0 63 = false ∧
    slotOfOff 0x100000 = some (rf live .bootStat 0 55 1) ∧
    gives (exec (.bootFwdataWrite .host 5) (rgSet live .bootFwaddr 0 0 0x100000))
      (accessNotice (rgSet live .bootFwaddr 0 0 0x100000) .host 5 (regAddr .bootFwdata) 5) = true ∧
    ans (exec (.bootFwdataWrite .host 0x0807060504030201) (rgSet live .bootFwaddr 0 0 0x4000000)) (fun t =>
      decide (fbytes t 0x4000000 8 = [1, 2, 3, 4, 5, 6, 7, 8] ∧ rf t .bootFwaddr 0 0 27 = 0x4000008 ∧ fbyte t 0x4000008 = 0xFF)) = true := by
  decide +kernel

theorem test_BringupRegisterWrites_6 : rbit (rgSet live .bootFwaddr 0 0 0x8000000000000008) .bootFwaddr 0 63 = true ∧
    ans (exec .flashWriteDone (rgSet live .bootFwaddr 0 0 0x8000000000000008)) (fun t => decide (rg t .bootFwaddr = 8)) = true := by
  decide +kernel

/-- Session slot 5 WAITING for a release. -/
def waits : State := setSes live 5 { gen := 1, st := .waiting, wait := .release }

theorem test_ActingRegisterWrites_1 : mayWrite (.rafter 2) (regAddr .rafnWrel 2) = true ∧
    courseDark waits (courseOf waits 2) = false ∧ sesOfHandle waits (BitVec.ofNat 32 (fld 0x00100005 0 32)) = some 5 ∧
    (ses waits 5).st = .waiting ∧ (ses waits 5).wait = .release ∧
    ans (exec (.release (.rafter 2) 2 0x00100005) waits) (fun t => decide ((ses t 5).st = .ready)) = true ∧
    sesOfHandle live (BitVec.ofNat 32 (fld 0x00100005 0 32)) = none ∧
    gives (exec (.release (.rafter 2) 2 0x00100005) live) (accessNotice live (.rafter 2) 5 (regAddr .rafnWrel 2) 0x00100005) = true := by
  decide +kernel

theorem test_ActingRegisterWrites_2 : mayWrite .host (regAddr .rafnVopen 2) = true ∧ courseDark live (courseOf live 2) = false ∧
    fld (0x00100000 : Word) 20 9 < 2 ∧
    gives (exec (.vopenOpen .host 2 0x00100000) live) (accessNotice live .host 5 (regAddr .rafnVopen 2) 0x00100000) = true := by
  decide +kernel

/-- Rafter 2 with the words of a request at store offset 0x100. -/
def vopenAt (ws : List Word) : State := modRaf live 2 fun r => { r with store := writeBytes [] 0x100 (wordsBytes ws) }

/-- An OPEN of a STREAM end that listens, with a receive ring of 64 KiB at bay address 0x1000. -/
def vopenW : List Word := [0x2000000000000000, mkWord [(57, 2, 1), (32, 16, 7)], 0x1000, mkWord [(59, 5, 16)]]

theorem test_ActingRegisterWrites_3 : 2 ≤ fld (0x00200100 : Word) 20 9 ∧ fld (0x00200100 : Word) 0 20 % 64 = 0 ∧
    fld (storeWord (raf (vopenAt vopenW) 2) 0x100) 56 8 = 0x20 ∧ fld (storeWord (raf (vopenAt vopenW) 2) 0x100) 48 8 = 0 ∧
    (openEnd (rgSet (vopenAt vopenW) .rafnVopen 2 0 0x00200100) (storeEntry (raf (vopenAt vopenW) 2) 0x100) none).2.1 = 0 ∧
    ans (exec (.vopenOpen .host 2 0x00200100) (vopenAt vopenW)) (fun t => decide ((vend t 0).st = .listen ∧
      storeWord (raf t 2) (0xEE010) = 0x8000000000000000 + BitVec.ofNat 64 (endHandle t 0).toNat)) = true := by decide +kernel

/-- End 5 LIVE, and a request to close it in rafter 2's store. -/
def vclose : State := setVend (vopenAt [0x2100000000010005]) 5 { vgen := 1, st := .live }

theorem test_ActingRegisterWrites_3b : inService vclose = true ∧
    (∀ k, k < 8 → storeWord (raf vclose 2) (0x100 + 8 * k) =
      if k = 0 then BitVec.ofNat 64 (0x21 * 2 ^ 56 + (endHandle vclose 5).toNat) else 0) ∧
    endOfHandle vclose (endHandle vclose 5) = some 5 ∧
    ans (exec (.vopenClose .host 2 0x00200100) vclose) (fun t => decide ((vend t 5).st = .free)) = true := by decide +kernel

theorem test_ActingRegisterWrites_4 : portState (rgSet (boot 9 0) .lnkpStat 3 0 0x8000000000000000) 3 = 8 ∧
    sealed (boot 9 0) = false ∧ bitOf (0xF000000000000000 : Word) 60 = true ∧
    ans (exec (.requal .host 3 0xF000000000000000) (rgSet (boot 9 0) .lnkpStat 3 0 0x8000000000000300)) (fun t =>
      decide (portState t 3 = 1 ∧ rf t .lnkpStat 3 8 8 = 0)) = true := by decide +kernel

/-- Queue `q` with a partial word of two bytes. -/
def partQ (q : Nat) : State := { live with queues := tput {} [] q { part := [1, 2] } }

theorem test_ActingRegisterWrites_5 : bitOf (0x4000000 : Word) 26 = true ∧ qPack (partQ 58) 58 = 1 ∧
    (queue (partQ 58) 58).part ≠ [] ∧
    ans (exec (.flush .host 58 0x4000000) (partQ 58)) (fun t => decide ((queue t 58).part = [] ∧
      (queue t 58).words = [packWord [1, 2] false])) = true := by decide +kernel

/-- Queue 58 full, and with a partial word. -/
def fullQ : State := { live with queues := tput {} [] 58 {
  words := List.replicate (qDepth live 58) ⟨0, false, false, 8⟩, part := [1, 2] } }

theorem test_ActingRegisterWrites_7 : qPacks (partQ 58) 58 = true ∧ (queue (partQ 58) 58).words.length < qDepth (partQ 58) 58 ∧
    qPacks fullQ 58 = true ∧ qDepth fullQ 58 ≤ (queue fullQ 58).words.length ∧
    ans (exec (.flush .host 58 0x4000000) fullQ) (fun t => decide (queue t 58 = { queue fullQ 58 with due := true })) = true ∧
    (queue live 58).part = [] ∧
    ans (exec (.flush .host 58 0x4000000) live) (fun t => decide (queue t 58 = queue live 58)) = true := by decide +kernel

/-- A log word in a live bay. -/
theorem test_ActingRegisterWrites_8 : regWaits live .host (regAddr .monLdata) = false ∧ isBay (logBase live) = true ∧
    retired live (bayOf (logBase live)) = false ∧ badAt live (logBase live) = false ∧ badWords live (lineOf (logBase live)) = [] ∧
    ans (exec (.monLdataRead .host) { live with mem := writeBytes [] (logBase live) [1, 2] }) (fun t =>
      decide (t.rdata = 0x0201 ∧ rf t .monLidx 0 0 14 = 1)) = true := by decide +kernel

/-- A release of a session that waits for none; a refused VOPEN, and one that names no command. -/
theorem test_ActingRegisterWrites_9 : sesOfHandle (setSes live 5 { gen := 1, st := .ready }) (BitVec.ofNat 32 (fld 0x00100005 0 32)) = some 5 ∧
    (ses (setSes live 5 { gen := 1, st := .ready }) 5).st ≠ .waiting ∧
    gives (exec (.release (.rafter 2) 2 0x00100005) (setSes live 5 { gen := 1, st := .ready }))
      (accessNotice (setSes live 5 { gen := 1, st := .ready }) (.rafter 2) 5 (regAddr .rafnWrel 2) 0x00100005) = true ∧
    (openEnd (rgSet (vopenAt [0x2000000000000000, 0x6000000000000000]) .rafnVopen 2 0 0x00200100)
      (storeEntry (raf (vopenAt [0x2000000000000000, 0x6000000000000000]) 2) 0x100) none).2.1 = 6 ∧
    ans (exec (.vopenOpen .host 2 0x00200100) (vopenAt [0x2000000000000000, 0x6000000000000000])) (fun t =>
      decide (storeWord (raf t 2) 0xEE010 = 0x8002000000000006)) = true ∧
    fld (storeEntry (raf (vopenAt [0x7700000000000000]) 2) 0x100).w0 56 8 = 0x77 ∧
    ans (exec (.vopenClose .host 2 0x00200100) (vopenAt [0x7700000000000000])) (fun t =>
      decide (storeWord (raf t 2) 0xEE010 = 0x8002000000000002)) = true := by decide +kernel

/-- The notice log's base lies in bay 3, whose pair is retired. -/
def deadLog : State := rgSet live .hubRetired 0 0 8

theorem test_ActingRegisterWrites_6 : isBay (logBase (rgSet deadLog .monLidx 0 0 16383)) = true ∧
    retired (rgSet (rgSet live .hubRetired 0 0 1) .monLidx 0 0 16383)
      (bayOf (logBase (rgSet deadLog .monLidx 0 0 16383) + 8 * 511)) = true := by decide +kernel

/-! ## Instructions of the sequencer -/

/-- An instruction word. -/
def iw (cls op : Nat) (rd : Nat := 0) (ra : Nat := 0) (rb : Nat := 0) (low : Nat := 0) : Word :=
  mkWord [(60, 4, cls), (52, 8, op), (45, 6, rd), (39, 6, ra), (33, 6, rb), (0, 33, low)]

/-- The lines of rafter 3's image that its instruction buffer holds in these states. -/
def lines : List Nat := [0x48, 0x50, 0x80, 0x88, 0x100].map fun o => lineOf (imgAddr live 3 o)

/-- Rafter 3 in RUN at PC 0x48 of an image of 4 KiB, s1 = `a`, s2 = `b`, s3 = 0. -/
def seqSt (a b : Word) : State :=
  modRaf live 3 fun r => setSreg (setSreg { r with st := .run, size := 0x1000, pc := 0x48, ibuf := lines } 1 a) 2 b

/-- Whether rafter `n` issues the word, its line in the instruction buffer. -/
def seqIss (s : State) (n : Nat) (w : Word) (f : Form) : Bool := decide (seqIssues s s n w f)

/-- What s4 of rafter 3 holds after an instruction that writes it from s1 and s2, where the PC has moved by 8. -/
def seqGives (i : Issuer → Word → Instr) (op : Nat) (a b v : Word) : Bool :=
  seqIss (seqSt a b) 3 (iw 1 op 4 1 2) formR3 &&
    ans (exec (i (.seq 3) (iw 1 op 4 1 2)) (seqSt a b)) fun t => decide (sreg (raf t 3) 4 = v ∧ (raf t 3).pc = 0x50)

theorem test_ScalarRegisterOps_add : seqGives .add 0 0xFFFFFFFFFFFFFFFF 2 1 = true := by decide +kernel
theorem test_ScalarRegisterOps_sub : seqGives .sub 1 1 2 0xFFFFFFFFFFFFFFFF = true := by decide +kernel
theorem test_ScalarRegisterOps_and : seqGives .and 2 0xFF00 0x0FF0 0x0F00 = true := by decide +kernel
theorem test_ScalarRegisterOps_or : seqGives .or 3 0xFF00 0x0FF0 0xFFF0 = true := by decide +kernel
theorem test_ScalarRegisterOps_xor : seqGives .xor 4 0xFF00 0x0FF0 0xF0F0 = true := by decide +kernel
theorem test_ScalarRegisterOps_shl : seqGives .shl 5 3 65 6 = true := by decide +kernel
theorem test_ScalarRegisterOps_shr : seqGives .shr 6 0x8000000000000000 63 1 = true := by decide +kernel
theorem test_ScalarRegisterOps_sra : seqGives .sra 7 0x8000000000000000 63 0xFFFFFFFFFFFFFFFF = true := by decide +kernel
theorem test_ScalarRegisterOps_mul : seqGives .mul 8 0x100000001 0x100000001 0x200000001 = true := by decide +kernel
theorem test_ScalarRegisterOps_slt : seqGives .slt 0x0D 0xFFFFFFFFFFFFFFFF 1 1 = true := by decide +kernel
theorem test_ScalarRegisterOps_sltu : seqGives .sltu 0x0E 0xFFFFFFFFFFFFFFFF 1 0 = true := by decide +kernel
theorem test_ScalarRegisterOps_seq : seqGives .seq 0x0F 5 5 1 = true := by decide +kernel

/-- SEL with rc = s2. -/
theorem test_ScalarRegisterOps_sel : seqIss (seqSt 7 1) 3 (iw 1 0x10 4 1 3 (2 * 2 ^ 27)) formR4 = true ∧
    ans (exec (.sel (.seq 3) (iw 1 0x10 4 1 3 (2 * 2 ^ 27))) (seqSt 7 1)) (fun t => decide (sreg (raf t 3) 4 = 7)) = true := by
  decide +kernel

/-- An immediate form: s4 from s1 and the immediate -1 (all 39 bits set). -/
def immGives (i : Issuer → Word → Instr) (op : Nat) (a v : Word) : Bool :=
  let w := mkWord [(60, 4, 1), (52, 8, op), (45, 6, 4), (39, 6, 1), (0, 39, 2 ^ 39 - 1)]
  seqIss (seqSt a 0) 3 w formImm && ans (exec (i (.seq 3) w) (seqSt a 0)) fun t => decide (sreg (raf t 3) 4 = v)

theorem test_ScalarImmediates_1 : immGives .addi 0x20 1 0 = true ∧ immGives .subi 0x21 1 2 = true ∧
    immGives .andi 0x22 5 5 = true ∧ immGives .ori 0x23 5 0xFFFFFFFFFFFFFFFF = true ∧
    immGives .xori 0x24 1 0xFFFFFFFFFFFFFFFE = true ∧ immGives .slti 0x2D 0 0 = true ∧ immGives .sltui 0x2E 0 1 = true ∧
    immGives .seqi 0x2F 0xFFFFFFFFFFFFFFFF 1 = true := by decide +kernel

/-- A shift of s1 by an immediate. -/
def shiftGives (i : Issuer → Word → Instr) (op k : Nat) (a v : Word) : Bool :=
  seqIss (seqSt a 0) 3 (iw 1 op 4 1 0 k) formShift &&
    ans (exec (i (.seq 3) (iw 1 op 4 1 0 k)) (seqSt a 0)) fun t => decide (sreg (raf t 3) 4 = v)

theorem test_ScalarImmediates_2 : shiftGives .shli 0x25 63 1 0x8000000000000000 = true ∧
    shiftGives .shri 0x26 4 0xF0 0xF = true ∧ shiftGives .srai 0x27 4 0xFFFFFFFFFFFFFF00 0xFFFFFFFFFFFFFFF0 = true := by
  decide +kernel

/-- LI has LONG = 1 (R259). -/
def liW : Word := iw 1 0x30 4 + 0x8000000000000

theorem test_ScalarImmediates_3 : opIs 1 0x30 liW = true ∧ seqIss (seqSt 0 0) 3 liW (mkForm [45] 0 true true true) = true ∧
    ans (exec (.li (.seq 3) liW 77) (seqSt 0 0)) (fun t => decide (sreg (raf t 3) 4 = 77 ∧ (raf t 3).pc = 0x58)) = true ∧
    seqIss (seqSt 0 0) 3 (iw 1 0x31 4) (mkForm [45] 0 true true) = true ∧
    ans (exec (.time (.seq 3) (iw 1 0x31 4)) (dueT (seqSt 0 0) 64)) (fun t => decide (sreg (raf t 3) 4 = 64)) = true ∧
    ans (exec (.rafid (.seq 3) (iw 1 0x32 4)) (seqSt 0 0)) (fun t => decide (sreg (raf t 3) 4 = 3)) = true := by decide +kernel

theorem test_ScalarDivision_1 : opIs 1 9 (iw 1 9 4 1 2) = true ∧ seqIss (seqSt 7 2) 3 (iw 1 9 4 1 2) formR3 = true ∧
    sreg (raf (seqSt 7 2) 3) (iRb (iw 1 9 4 1 2)) ≠ 0 ∧ seqGives .divs 9 0xFFFFFFFFFFFFFFF9 2 0xFFFFFFFFFFFFFFFD = true ∧
    seqGives .divu 0x0A 7 2 3 = true ∧ seqGives .rems 0x0B 0xFFFFFFFFFFFFFFF9 2 0xFFFFFFFFFFFFFFFF = true ∧
    seqGives .remu 0x0C 7 2 1 = true ∧ seqGives .divs 9 0x8000000000000000 0xFFFFFFFFFFFFFFFF 0x8000000000000000 = true := by
  decide +kernel

theorem test_ScalarDivision_2 : sreg (raf (seqSt 7 0) 3) (iRb (iw 1 9 4 1 2)) = 0 ∧ seqIss (seqSt 7 0) 3 (iw 1 9 4 1 2) formR3 = true ∧
    ans (exec (.divs (.seq 3) (iw 1 9 4 1 2)) (seqSt 7 0)) (fun t => decide ((raf t 3).st = .frozen ∧ (raf t 3).cause = 6)) = true := by
  decide +kernel

theorem test_TrapsAndIllegal_1 : seqReady (seqSt 1 2) 3 = true ∧ (raf (seqSt 1 2) 3).pc.toNat < (raf (seqSt 1 2) 3).size.toNat ∧
    imgBad (seqSt 1 2) 3 (raf (seqSt 1 2) 3).pc.toNat = false ∧ opIs 1 0 (iw 1 0 4 1 2 1) = true ∧
    legalForm formR3 false (iw 1 0 4 1 2 1) = false ∧
    ans (exec (.add (.seq 3) (iw 1 0 4 1 2 1)) (seqSt 1 2)) (fun t => decide ((raf t 3).cause = 1)) = true ∧
    bitOf (iw 1 0x41 4 1 4) 35 = true ∧
    ans (exec (.st (.seq 3) (iw 1 0x41 4 1 4)) (seqSt 1 2)) (fun t => decide ((raf t 3).cause = 1)) = true ∧
    ans (exec (.yrand (.seq 3) (iw 8 0x1A 4)) (seqSt 1 2)) (fun t => decide ((raf t 3).cause = 1)) = true := by decide +kernel

/-- A rafter with a handler at 0x100 takes the trap there. -/
theorem test_TrapsAndIllegal_3 : (raf (modRaf (seqSt 1 2) 3 fun r => { r with trap := 0x100 }) 3).st = .run ∧
    ans (exec (.add (.seq 3) (iw 1 0 4 1 2 1)) (modRaf (seqSt 1 2) 3 fun r => { r with trap := 0x100 })) (fun t =>
      decide ((raf t 3).st = .handler ∧ (raf t 3).pc = 0x100 ∧ storeWord (raf t 3) 0xEF008 = 0x48 ∧
        storeWord (raf t 3) 0xEF018 = iw 1 0 4 1 2 1)) = true := by decide +kernel

/-- A trap in HANDLER freezes the rafter with DOUBLE. -/
theorem test_TrapsAndIllegal_4 : (raf (modRaf (seqSt 1 2) 3 fun r => { r with st := .handler }) 3).st = .handler ∧
    ans (exec (.add (.seq 3) (iw 1 0 4 1 2 1)) (modRaf (seqSt 1 2) 3 fun r => { r with st := .handler })) (fun t =>
      decide ((raf t 3).st = .frozen ∧ (raf t 3).cause = 0x14)) = true := by decide +kernel

/-- Slot 6 of rafter 3 in RUN, threads `ts` live at PC 0x80, with t1 = `a` + thread number and t2 = `b`. -/
def thrSt (ts : List Nat) (a b : Word) : State :=
  modRaf live 3 fun r => { setYslot r 6 (ts.foldl (fun x k => setThr x k
    (setTreg (setTreg { pc := 0x80, exited := false } 1 (a + BitVec.ofNat 64 k)) 2 b)) { st := .run, nthr := 4 }) with
    st := .run, size := 0x1000, ibuf := lines }

/-- What the scheduler picks in slot 6 of rafter 3. -/
def picked (s : State) : Option (YSlot × List Nat × List Nat × BitVec 20) := yPick (yslot (raf s 3) 6)

/-- Whether slot 6 issues an instruction for the threads `ts`. -/
def issues (s : State) (w : Word) (f : Form) (ts : List Nat) : Bool :=
  match picked s with
  | some (x, live, sub, pc) => decide (live = ts ∧ sub = ts ∧ thrIssues s s 3 6 w f x live sub pc)
  | none => false

/-- Register `i` of thread `k` of slot 6. -/
def tr (t : State) (k i : Nat) : Word := treg (thr (yslot (raf t 3) 6) k) i

theorem test_ScalarRegisterOps_thr : issues (thrSt [0, 2] 10 5) (iw 1 0 4 1 2) formR3 [0, 2] = true ∧
    ans (exec (.add (.thr 3 6) (iw 1 0 4 1 2)) (thrSt [0, 2] 10 5)) (fun t =>
      decide (tr t 0 4 = 15 ∧ tr t 2 4 = 17 ∧ (thr (yslot (raf t 3) 6) 2).pc = 0x88)) = true := by decide +kernel

theorem test_ScalarImmediates_thr : issues (thrSt [0, 2] 10 5) (iw 1 0x20 4 1) formImm [0, 2] = true ∧
    issues (thrSt [0, 2] 10 5) liW (mkForm [45] 0 true true true) [0, 2] = true ∧
    issues (thrSt [0, 2] 10 5) (iw 1 0x31 4) (mkForm [45] 0 true true) [0, 2] = true ∧
    ans (exec (.li (.thr 3 6) liW 9) (thrSt [0, 2] 10 5)) (fun t => decide (tr t 2 4 = 9 ∧
      (thr (yslot (raf t 3) 6) 0).pc = 0x90)) = true := by decide +kernel

theorem test_ScalarDivision_thr : issues (thrSt [0, 2] 10 5) (iw 1 0x0A 4 1 2) formR3 [0, 2] = true ∧
    (∀ k ∈ [0, 2], tr (thrSt [0, 2] 10 5) k 2 ≠ 0) ∧
    ans (exec (.divu (.thr 3 6) (iw 1 0x0A 4 1 2)) (thrSt [0, 2] 10 5)) (fun t => decide (tr t 2 4 = 2)) = true ∧
    (∃ k ∈ [0, 2], tr (thrSt [0, 2] 10 0) k 2 = 0) ∧
    ans (exec (.divu (.thr 3 6) (iw 1 0x0A 4 1 2)) (thrSt [0, 2] 10 0)) (fun t => decide ((yslot (raf t 3) 6).st = .trapped ∧
      (yslot (raf t 3) 6).cause = 6 ∧ (yslot (raf t 3) 6).tmask = 5)) = true := by decide +kernel

theorem test_TrapsAndIllegal_2 : yRuns (thrSt [0, 2] 10 5) 3 6 = true ∧ (picked (thrSt [0, 2] 10 5)).isSome = true ∧
    legalForm formR3 true (iw 1 0 33 1 2) = false ∧
    ans (exec (.add (.thr 3 6) (iw 1 0 33 1 2)) (thrSt [0, 2] 10 5)) (fun t => decide ((yslot (raf t 3) 6).cause = 1)) = true ∧
    ans (exec (.ld (.thr 3 6) (iw 1 0x40 4 1)) (thrSt [0, 2] 10 5)) (fun t => decide ((yslot (raf t 3) 6).cause = 1)) = true := by
  decide +kernel

/-- A MEM word of width 2^`wd`, space `sp`, sign extension `sx` and offset `off`. -/
def memW (cls op rd ra wd sp sx off : Nat) : Word :=
  mkWord [(60, 4, cls), (52, 8, op), (45, 6, rd), (39, 6, ra), (37, 2, wd), (36, 1, sp), (35, 1, sx), (0, 32, off)]

theorem test_LoadsAndStores_1 : seqIss (seqSt 0x100 0) 3 (memW 1 0x40 4 1 1 0 1 8) (formMem true false true) = true ∧
    storeFault (0x108 : Word) 2 false = none ∧
    ans (exec (.ld (.seq 3) (memW 1 0x40 4 1 1 0 1 8)) (modRaf (seqSt 0x100 0) 3 fun r =>
      { r with store := writeBytes [] 0x108 [0x34, 0xF2] })) (fun t => decide (sreg (raf t 3) 4 = 0xFFFFFFFFFFFFF234)) = true ∧
    storeFault (0x101 : Word) 2 false = some 0x04 ∧ storeFault (0xEF000 : Word) 8 true = some 0x05 ∧
    ans (exec (.ld (.seq 3) (memW 1 0x40 4 1 1 0 1 1)) (seqSt 0x100 0)) (fun t => decide ((raf t 3).cause = 4)) = true := by
  decide +kernel

theorem test_LoadsAndStores_2 : seqIss (seqSt 0x100 0xAABBCCDD) 3 (memW 1 0x41 2 1 2 0 0 0xFFFFFFFC) (formMem true false false) = true ∧
    ans (exec (.st (.seq 3) (memW 1 0x41 2 1 2 0 0 0xFFFFFFFC)) (seqSt 0x100 0xAABBCCDD)) (fun t =>
      decide (storeWord (raf t 3) 0xF8 = 0xAABBCCDD00000000)) = true := by decide +kernel

/-- Rafter 3 as above, with window 0 over all of bay space for reads and writes. -/
def winSt (a b : Word) : State := rgSet (seqSt a b) .rafnWink 3 0 (mkWord [(62, 2, 3), (26, 24, 0), (0, 24, 0x17C00)])

theorem test_LoadsAndStores_3 : bitOf (memW 1 0x40 4 1 3 1 0 0) 36 = true ∧
    seqIss (winSt 0x1000 0) 3 (memW 1 0x40 4 1 3 1 0 0) (formMem true false true) = true ∧
    deviceFault (winSt 0x1000 0) 3 0x1000 8 false = none ∧ bayAway (winSt 0x1000 0) 0x1000 = false ∧ isRegs 0x1000 = false ∧
    (devRead (winSt 0x1000 0) 0x1000 8 (rafAcc (winSt 0x1000 0) 3)).2.2 = none ∧
    ans (exec (.ld (.seq 3) (memW 1 0x40 4 1 3 1 0 0)) { winSt 0x1000 0 with mem := writeBytes [] 0x1000 [1, 2] }) (fun t =>
      decide (sreg (raf t 3) 4 = 0x0201)) = true := by decide +kernel

theorem test_LoadsAndStores_4 : deviceFault (winSt 0x1000 0) 3 0x1000 8 true = none ∧
    (raf (winSt 0x1000 0) 3).beats.length < 64 ∧
    seqIss (winSt 0x1000 0) 3 (memW 1 0x41 2 1 3 1 0 0) (formMem true false false) = true ∧
    ans (exec (.st (.seq 3) (memW 1 0x41 2 1 3 1 0 0)) (winSt 0x1000 7)) (fun t =>
      decide ((raf t 3).beats.length = 1 ∧ readByte t.mem 0x1000 = 7)) = true ∧
    deviceFault (winSt 0x8000000000 0) 3 0x8000000000 8 true ≠ none ∧
    ans (exec (.st (.seq 3) (memW 1 0x41 2 1 3 1 0 0)) (winSt 0x8000000000 7)) (fun t =>
      decide ((raf t 3).st = .frozen)) = true := by decide +kernel

theorem test_BranchesAndJumps_1 : opIs 2 0 (iw 2 0 0 1 2 0x100) = true ∧ seqIss (seqSt 5 5) 3 (iw 2 0 0 1 2 0x100) formBr = true ∧
    ans (exec (.beq (.seq 3) (iw 2 0 0 1 2 0x100)) (seqSt 5 5)) (fun t => decide ((raf t 3).pc = 0x100)) = true ∧
    ans (exec (.bne (.seq 3) (iw 2 1 0 1 2 0x100)) (seqSt 5 5)) (fun t => decide ((raf t 3).pc = 0x50)) = true ∧
    ans (exec (.blt (.seq 3) (iw 2 2 0 1 2 0x100)) (seqSt 0xFFFFFFFFFFFFFFFF 5)) (fun t => decide ((raf t 3).pc = 0x100)) = true ∧
    ans (exec (.bge (.seq 3) (iw 2 3 0 1 2 0x100)) (seqSt 5 5)) (fun t => decide ((raf t 3).pc = 0x100)) = true ∧
    ans (exec (.bltu (.seq 3) (iw 2 4 0 1 2 0x100)) (seqSt 0xFFFFFFFFFFFFFFFF 5)) (fun t => decide ((raf t 3).pc = 0x50)) = true ∧
    ans (exec (.bgeu (.seq 3) (iw 2 5 0 1 2 0x100)) (seqSt 5 5)) (fun t => decide ((raf t 3).pc = 0x100)) = true := by
  decide +kernel

theorem test_BranchesAndJumps_thr : issues (thrSt [0, 2] 10 10) (iw 2 0 0 1 2 0x10) formBr [0, 2] = true ∧
    ans (exec (.beq (.thr 3 6) (iw 2 0 0 1 2 0x10)) (thrSt [0, 2] 10 10)) (fun t =>
      decide ((thr (yslot (raf t 3) 6) 0).pc = 0x10 ∧ (thr (yslot (raf t 3) 6) 2).pc = 0x88 ∧
        (yslot (raf t 3) 6).count = 1)) = true := by decide +kernel

theorem test_BranchesAndJumps_2 : seqIss (seqSt 5 5) 3 (iw 2 8 0 0 0 0x100) (mkForm [] (maskOf 3 17) true true) = true ∧
    ans (exec (.jmp (.seq 3) (iw 2 8 0 0 0 0x100)) (seqSt 5 5)) (fun t => decide ((raf t 3).pc = 0x100)) = true ∧
    seqIss (seqSt 5 5) 3 (iw 2 9 4 0 0 0x100) (mkForm [45] (maskOf 3 17) true true) = true ∧
    ans (exec (.jal (.seq 3) (iw 2 9 4 0 0 0x100)) (seqSt 5 5)) (fun t => decide ((raf t 3).pc = 0x100 ∧ sreg (raf t 3) 4 = 0x50)) = true ∧
    seqIss (seqSt 0x200 5) 3 (iw 2 0x0A 0 1) (mkForm [39] 0 true true) = true ∧
    ans (exec (.jr (.seq 3) (iw 2 0x0A 0 1)) (seqSt 0x200 5)) (fun t => decide ((raf t 3).pc = 0x200)) = true ∧
    ans (exec (.jr (.seq 3) (iw 2 0x0A 0 1)) (seqSt 0x204 5)) (fun t => decide ((raf t 3).cause = 4)) = true ∧
    seqIss (seqSt 0x200 5) 3 (iw 2 0x0B 1 1) (mkForm [45, 39] 0 true true) = true ∧
    ans (exec (.jalr (.seq 3) (iw 2 0x0B 1 1)) (seqSt 0x200 5)) (fun t => decide ((raf t 3).pc = 0x200 ∧ sreg (raf t 3) 1 = 0x50)) = true := by
  decide +kernel

/-- Rafter 3 in HANDLER, its frame naming PC 0x60 and the ADD there. -/
def inHandler : State := modRaf (seqSt 5 5) 3 fun r =>
  { r with st := .handler, store := writeBytes (writeBytes [] 0xEF008 [0x60]) 0xEF018 (wordBytes (iw 1 0 4 1 2)) }

theorem test_BranchesAndJumps_3 : seqIss inHandler 3 (iw 2 0x11 0 0 0 1) (mkForm [] 1 true false) = true ∧
    (raf inHandler 3).st = .handler ∧
    ans (exec (.rtt (.seq 3) (iw 2 0x11 0 0 0 1)) inHandler) (fun t => decide ((raf t 3).pc = 0x68 ∧ (raf t 3).st = .run)) = true ∧
    ans (exec (.rtt (.seq 3) (iw 2 0x11)) inHandler) (fun t => decide ((raf t 3).pc = 0x60)) = true ∧
    issues (thrSt [0, 2] 10 10) (iw 2 8 0 0 0 0x100) (mkForm [] (maskOf 3 17) true true) [0, 2] = true := by decide +kernel

theorem test_PassEnds_1 : seqIss (seqSt 5 5) 3 (iw 2 0x12) (mkForm [] 0 true false) = true ∧
    ans (exec (.frz (.seq 3) (iw 2 0x12)) (seqSt 5 5)) (fun t => decide ((raf t 3).st = .frozen ∧ (raf t 3).cause = 0x15)) = true ∧
    seqIss (seqSt 5 5) 3 (iw 2 0x13 0 0 0 7) (mkForm [] (maskOf 0 16) true true) = true ∧
    ans (exec (.brk (.seq 3) (iw 2 0x13 0 0 0 7)) (seqSt 5 5)) (fun t => decide ((raf t 3).cause = 0x0A)) = true := by decide +kernel

theorem test_PassEnds_2 : seqIss (seqSt 5 5) 3 (iw 2 0x10) (mkForm [] 1 true false) = true ∧ (raf (seqSt 5 5) 3).st = .run ∧
    trappedSlot (raf (seqSt 5 5) 3) = none ∧ endpReady (starveStuck (raf (seqSt 5 5) 3)) = true ∧
    ans (exec (.endp (.seq 3) (iw 2 0x10)) (seqSt 5 5)) (fun t => decide ((raf t 3).st = .idle)) = true ∧
    endpReady (starveStuck (raf (modRaf (thrSt [0] 1 1) 3 fun r => { r with pc := 0x48 }) 3)) = false ∧
    ans (exec (.endp (.seq 3) (iw 2 0x10)) (modRaf (thrSt [0] 1 1) 3 fun r => { r with pc := 0x48 })) (fun t =>
      decide ((raf t 3).wait = .endp false)) = true := by decide +kernel

theorem test_PassEnds_3 : stopped (modRaf (seqSt 5 5) 3 fun r => { r with wait := .endp false }) = false ∧
    endpReady (raf (modRaf (seqSt 5 5) 3 fun r => { r with wait := .endp false }) 3) = true ∧
    runningPass (modRaf (seqSt 5 5) 3 fun r => { r with wait := .endp false }) 3 = none ∧
    ans (exec (.endpComplete 3) (modRaf (seqSt 5 5) 3 fun r => { r with wait := .endp false })) (fun t =>
      decide ((raf t 3).st = .idle)) = true := by decide +kernel


/-! ## Further clauses of the same statements -/

theorem test_RegisterReads_6 : fld (rg (peekAt .frozen 0x8000000000000020) .rafnPeek 2) 62 2 = 2 ∧
    (enPhys (peekAt .frozen 0x8000000000000020) 2)[0]? = some 0 ∧
    ans (exec (.peekdRead .host 2) (peekAt .frozen 0x8000000000000020)) (fun t => decide (t.rdata = 0 ∧ t.free = 0)) = true ∧
    (enPhys (modRaf (peekAt .frozen 0x8000000000000020) 2 fun r => { r with slateEn := 0 }) 2)[0]? = none ∧
    ans (exec (.peekdRead .host 2) (modRaf (peekAt .frozen 0x8000000000000020) 2 fun r => { r with slateEn := 0 }))
      (fun t => decide (t.free = 1)) = true := by decide +kernel

/-- The instruction buffer of rafter 3 empty. -/
def noBuf (s : State) : State := modRaf s 3 fun r => { r with ibuf := [] }

/-- Every word of the state's image at 0x48 uncorrectable. -/
def ueAt (s : State) : State := setSyn s (imgAddr s 3 0x48) poisonSyn

/-- Rafter 3's spar channel under a lane test. -/
def laneTest (s : State) : State := setSpar s 3 { testing := some 5 }

/-- Rafter 3 with a request table that is full. -/
def fullTable (s : State) : State :=
  modRaf s 3 fun r => { r with reads := (List.range 64).map fun k => { src := .chan 0, addr := 256 * k, len := 256 } }

theorem test_TrapsAndIllegal_5 : buffered (seqSt 1 2) 3 0x48 = true ∧ buffered (noBuf (seqSt 1 2)) 3 0x48 = false ∧
    readHeld (noBuf (seqSt 1 2)) 3 0 [codeReq (noBuf (seqSt 1 2)) 3 none 0x48] = false ∧
    tableRoom (raf (noBuf (seqSt 1 2)) 3) [codeReq (noBuf (seqSt 1 2)) 3 none 0x48] = true ∧
    readHeld (laneTest (noBuf (seqSt 1 2))) 3 0 [codeReq (seqSt 1 2) 3 none 0x48] = true ∧
    ans (exec (.add (.seq 3) (iw 1 0 4 1 2)) (laneTest (noBuf (seqSt 1 2)))) (fun t => decide ((raf t 3).pc = 0x48 ∧
      (raf t 3).reads = [codeReq (seqSt 1 2) 3 none 0x48])) = true ∧
    tableRoom (raf (fullTable (noBuf (seqSt 1 2))) 3) [codeReq (seqSt 1 2) 3 none 0x48] = false ∧
    gives (exec (.add (.seq 3) (iw 1 0 4 1 2)) (fullTable (noBuf (seqSt 1 2)))) (fullTable (noBuf (seqSt 1 2))) = true ∧
    ans (exec (.add (.seq 3) (iw 1 0 4 1 2)) (noBuf (seqSt 1 2))) (fun t => decide (sreg (raf t 3) 4 = 3 ∧
      (raf t 3).ibuf = [lineOf (imgAddr live 3 0x48)])) = true ∧
    badAt (ueAt (noBuf (seqSt 1 2))) (imgAddr live 3 0x48) = true ∧
    ans (exec (.add (.seq 3) (iw 1 0 4 1 2)) (ueAt (noBuf (seqSt 1 2)))) (fun t => decide ((raf t 3).cause = 3 ∧
      (raf t 3).ibuf = [])) = true := by decide +kernel

theorem test_TrapsAndIllegal_6 : seqReady (modRaf (seqSt 1 2) 3 fun r => { r with pc := 0x1000 }) 3 = true ∧
    ans (exec (.add (.seq 3) (iw 1 0 4 1 2)) (modRaf (seqSt 1 2) 3 fun r => { r with pc := 0x1000 })) (fun t =>
      decide ((raf t 3).cause = 2)) = true := by decide +kernel

/-- Each operation of the sequencer alone meets ILLEGAL in slot 6. -/
def barred (c : Issuer → Word → Instr) (cls op : Nat) : Bool :=
  opIs cls op (iw cls op) && ans (exec (c (.thr 3 6) (iw cls op)) (thrSt [0, 2] 10 5)) fun t =>
    decide ((yslot (raf t 3) 6).st = .trapped ∧ (yslot (raf t 3) 6).cause = 1 ∧ (yslot (raf t 3) 6).tmask = 5)

theorem test_TrapsAndIllegal_7 : fetchWords (thrSt [0, 2] 10 5) 3 (some 6) 0x80 false = some (thrSt [0, 2] 10 5) ∧ barred .ld 1 0x40 ∧ barred .st 1 0x41 ∧ barred .endp 2 0x10 ∧ barred .rtt 2 0x11 ∧
    barred .frz 2 0x12 ∧ barred .ylaunch 3 0 ∧ barred .ywait 3 1 ∧ barred .ykill 3 2 ∧ barred .slate 4 0 ∧ barred .str 5 0 ∧
    barred .strsm 5 1 ∧ barred .stclr 5 2 ∧ barred .cadd 6 0 ∧ barred .cwatch 6 1 ∧ barred .poll 7 0 ∧
    barred (fun i w => .polli i w 9) 7 1 ∧ barred .nclr 7 2 := by decide +kernel

/-- Each operation of the threads alone meets ILLEGAL at the sequencer. -/
def barredSeq (c : Issuer → Word → Instr) (op : Nat) : Bool :=
  opIs 8 op (iw 8 op) && ans (exec (c (.seq 3) (iw 8 op)) (seqSt 1 2)) fun t => decide ((raf t 3).cause = 1)

theorem test_TrapsAndIllegal_8 : fetchWords (seqSt 1 2) 3 none 0x48 false = some (seqSt 1 2) ∧ barredSeq .fadd 0 ∧ barredSeq .fmul 1 ∧ barredSeq .fma 2 ∧ barredSeq .fmin 3 ∧ barredSeq .fmax 4 ∧
    barredSeq .fcmp 5 ∧ barredSeq .fcvt 6 ∧ barredSeq .fsfu 7 ∧ barredSeq .yld 0x10 ∧ barredSeq .yst 0x11 ∧
    barredSeq .yatom 0x14 ∧ barredSeq .ycas 0x15 ∧ barredSeq .yswap 0x16 ∧ barredSeq .yfence 0x17 ∧ barredSeq .yshfl 0x18 ∧
    barredSeq .yred 0x19 ∧ barredSeq .yrand 0x1A ∧ barredSeq .ybar 0x1B ∧ barredSeq .yexit 0x1C := by decide +kernel

/-- A device load that a lane test holds stands in the request table; one that comes to an uncorrectable word takes UE_LOAD. -/
theorem test_LoadsAndStores_5 : deviceFault (laneTest (winSt 0x1000 0)) 3 0x1000 8 false = none ∧
    seqIss (laneTest (winSt 0x1000 0)) 3 (memW 1 0x40 4 1 3 1 0 0) (formMem true false true) = true ∧
    (readWaits (laneTest (winSt 0x1000 0)) 3 0 [{ src := .seq, addr := 0x1000, len := 8 }]).isSome = true ∧
    ans (exec (.ld (.seq 3) (memW 1 0x40 4 1 3 1 0 0)) (laneTest (winSt 0x1000 0))) (fun t =>
      decide ((raf t 3).reads = [{ src := .seq, addr := 0x1000, len := 8 }] ∧ (raf t 3).pc = 0x48)) = true ∧
    readWaits (setSyn (winSt 0x1000 0) 0x1000 poisonSyn) 3 0 [{ src := .seq, addr := 0x1000, len := 8 }] = none ∧
    ans (exec (.ld (.seq 3) (memW 1 0x40 4 1 3 1 0 0)) (setSyn (winSt 0x1000 0) 0x1000 poisonSyn)) (fun t =>
      decide ((raf t 3).cause = 7)) = true ∧
    deviceFault (winSt 0x1001 0) 3 0x1001 8 false = some 4 ∧
    ans (exec (.ld (.seq 3) (memW 1 0x40 4 1 3 1 0 0)) (winSt 0x1001 0)) (fun t => decide ((raf t 3).cause = 4)) = true := by
  decide +kernel

/-- LD of 8 bytes with SX. -/
theorem test_LoadsAndStores_8 : opIs 1 0x40 (memW 1 0x40 4 1 3 1 0 0 + 0x800000000) = true ∧
    seqIss (winSt 0x1000 0) 3 (memW 1 0x40 4 1 3 1 0 0 + 0x800000000) (formMem true false true) = true ∧
    fld (memW 1 0x40 4 1 3 1 0 0 + 0x800000000) 37 2 = 3 ∧ bitOf (memW 1 0x40 4 1 3 1 0 0 + 0x800000000) 35 = true ∧
    ans (exec (.ld (.seq 3) (memW 1 0x40 4 1 3 1 0 0 + 0x800000000)) (winSt 0x1000 0)) (fun t =>
      decide ((raf t 3).cause = 1)) = true := by decide +kernel

/-- A load of a register of the rafter's own block: RAF3_PEEK. -/
theorem test_LoadsAndStores_6 : isRegs (regAddr .rafnPeek 3) = true ∧
    deviceFault (seqSt (BitVec.ofNat 64 (regAddr .rafnPeek 3)) 0) 3 (BitVec.ofNat 64 (regAddr .rafnPeek 3)) 8 false = none ∧
    ans (exec (.ld (.seq 3) (memW 1 0x40 4 1 3 1 0 0)) (rgSet (seqSt (BitVec.ofNat 64 (regAddr .rafnPeek 3)) 0) .rafnPeek 3 0 0x40))
      (fun t => decide (sreg (raf t 3) 4 = 0x40)) = true := by decide +kernel

/-- A store with 64 writes kept waits; the store space's faults of a store. -/
theorem test_LoadsAndStores_7 : (raf (modRaf (winSt 0x1000 0) 3 fun r =>
      { r with beats := List.replicate 64 { runs := [], done := true } }) 3).beats.length = 64 ∧
    gives (exec (.st (.seq 3) (memW 1 0x41 2 1 3 1 0 0)) (modRaf (winSt 0x1000 0) 3 fun r =>
      { r with beats := List.replicate 64 { runs := [], done := true } })) (modRaf (winSt 0x1000 0) 3 fun r =>
      { r with beats := List.replicate 64 { runs := [], done := true } }) = true ∧
    storeFault (0xF1 : Word) 4 true = some 4 ∧
    ans (exec (.st (.seq 3) (memW 1 0x41 2 1 2 0 0 0xF1)) (seqSt 0 1)) (fun t => decide ((raf t 3).cause = 4)) = true := by
  decide +kernel

theorem test_BranchesAndJumps_4 : issues (thrSt [0, 2] 0x100 0) (iw 2 0x0A 0 2) (mkForm [39] 0 true true) [0, 2] = true ∧
    ans (exec (.jr (.thr 3 6) (iw 2 0x0A 0 2)) (thrSt [0, 2] 0x100 0x40)) (fun t =>
      decide ((thr (yslot (raf t 3) 6) 2).pc = 0x40 ∧ (yslot (raf t 3) 6).count = 1)) = true ∧
    ans (exec (.jr (.thr 3 6) (iw 2 0x0A 0 1)) (thrSt [0, 2] 0x100 0)) (fun t =>
      decide ((yslot (raf t 3) 6).cause = 4 ∧ (yslot (raf t 3) 6).tmask = 4)) = true := by decide +kernel

theorem test_BranchesAndJumps_5 : (raf (seqSt 5 5) 3).st = .run ∧
    seqIss (seqSt 5 5) 3 (iw 2 0x11) (mkForm [] 1 true false) = true ∧
    ans (exec (.rtt (.seq 3) (iw 2 0x11)) (seqSt 5 5)) (fun t => decide ((raf t 3).cause = 1)) = true := by decide +kernel

/-- Slot 9 of rafter 3 TRAPPED with MATH; slot 6 runs. -/
def trapped9 : State := modRaf (seqSt 5 5) 3 fun r => setYslot r 9 { st := .trapped, cause := 8, nthr := 1 }

theorem test_PassEnds_4 : (raf trapped9 3).st = .run ∧ trappedSlot (raf trapped9 3) = some 9 ∧
    seqIss trapped9 3 (iw 2 0x10) (mkForm [] 1 true false) = true ∧
    ans (exec (.endp (.seq 3) (iw 2 0x10)) trapped9) (fun t => decide ((raf t 3).cause = 9 ∧ (raf t 3).st = .frozen)) = true ∧
    (raf (modRaf trapped9 3 fun r => { r with wait := .endp false }) 3).wait = .endp false ∧
    ans (exec (.endpComplete 3) (modRaf trapped9 3 fun r => { r with wait := .endp false })) (fun t =>
      decide ((raf t 3).cause = 9)) = true ∧
    (raf (modRaf trapped9 3 fun r => { r with st := .handler }) 3).st ≠ .run ∧ yOwes (raf trapped9 3) 9 = false ∧
    ans (exec (.endp (.seq 3) (iw 2 0x10)) (modRaf trapped9 3 fun r => { r with st := .handler })) (fun t =>
      decide ((raf t 3).st = .idle ∧ (yslot (raf t 3) 9).st = .free)) = true := by decide +kernel

theorem test_PassEnds_5 : issues (thrSt [0, 2] 10 10) (iw 2 0x13) (mkForm [] (maskOf 0 16) true true) [0, 2] = true ∧
    ans (exec (.brk (.thr 3 6) (iw 2 0x13)) (thrSt [0, 2] 10 10)) (fun t =>
      decide ((yslot (raf t 3) 6).st = .trapped ∧ (yslot (raf t 3) 6).cause = 0x0A)) = true ∧
    endpFails (raf (seqSt 5 5) 3) false = false ∧
    endpFails (raf (modRaf (seqSt 5 5) 3 fun r => setChan r 4 { st := .halted }) 3) false = true ∧
    endpFails (raf (modRaf (seqSt 5 5) 3 fun r => setChan r 4 { st := .frozen }) 3) false = true := by decide +kernel

/-- Pass 7 of the session engine runs on rafter 3. -/
def pass7 : State :=
  let s := modRaf (seqSt 5 5) 3 fun r => { r with slot0 := some 7, pass := 7 }
  { s with ses := { s.ses with passes := [{ id := 7, group := 0, fill := 0, rows := [], targets := [(3, 0, 7)], rep := 3, repSlot := 0 }] } }

theorem test_PassEnds_6 : (runningPass pass7 3).isSome = true ∧
    ans (exec (.endp (.seq 3) (iw 2 0x10)) pass7) (fun t => decide ((raf t 3).st = .idle)) = true := by decide +kernel

/-! ## Yealms and threads -/

/-- A YLAUNCH of 3 threads in slot 6 at 0x80, notice word 9, argument s1. -/
def launchW : Word := mkWord [(60, 4, 3), (39, 6, 1), (35, 4, 6), (29, 6, 3), (20, 9, 9), (0, 20, 0x80)]

theorem test_YealmLifecycle_1 : opIs 3 0 launchW = true ∧
    seqIss (seqSt 77 0) 3 launchW (mkForm [39] (maskOf 3 36) true false) = true ∧ 1 ≤ fld launchW 29 6 ∧
    fld launchW 29 6 ≤ 32 ∧ fld launchW 20 9 ≠ 1 ∧ (raf (seqSt 77 0) 3).launch.length < 16 ∧
    ans (exec (.ylaunch (.seq 3) launchW) (seqSt 77 0)) (fun t =>
      decide ((raf t 3).launch = [{ slot := 6, entry := 0x80, nthr := 3, arg := 77, notice := 9 }])) = true := by decide +kernel

/-- A launch at the head of rafter 3's queue. -/
def launching : State := modRaf (seqSt 0 0) 3 fun r =>
  { r with launch := [{ slot := 6, entry := 0x80, nthr := 3, arg := 77, notice := 9 }] }

theorem test_YealmLifecycle_2 : stopped launching = false ∧ (raf launching 3).st = .run ∧
    (raf launching 3).launch = [{ slot := 6, entry := 0x80, nthr := 3, arg := 77, notice := 9 }] ∧
    (yslot (raf launching 3) 6).st = .free ∧
    ans (exec (.yealmStart 3) launching) (fun t => decide ((yslot (raf t 3) 6).st = .run ∧ tr t 2 1 = 2 ∧ tr t 2 2 = 77 ∧
      tr t 2 3 = 6 ∧ yAlive (yslot (raf t 3) 6) = [0, 1, 2])) = true := by decide +kernel

/-- Slot 6 of rafter 3 in a state, and the sequencer running. -/
def slotIs (st : YState) : State := modRaf (seqSt 0 0) 3 fun r => setYslot r 6 { st := st, nthr := 2, notice := 9, issued := 5 }

/-- The words of YWAIT and YKILL of slot 6. -/
def ywaitW : Word := mkWord [(60, 4, 3), (52, 8, 1), (35, 4, 6)]
def ykillW : Word := mkWord [(60, 4, 3), (52, 8, 2), (35, 4, 6)]

theorem test_YealmLifecycle_3 : seqIss (seqSt 0 0) 3 ywaitW (mkForm [] (maskOf 35 4) true false) = true ∧
    ywaitDone (raf (seqSt 0 0) 3) (fld ywaitW 35 4) = true ∧
    ans (exec (.ywait (.seq 3) ywaitW) (seqSt 0 0)) (fun t => decide ((raf t 3).pc = 0x50)) = true ∧
    (yslot (raf (slotIs .trapped) 3) (fld ywaitW 35 4)).st = .trapped ∧
    ans (exec (.ywait (.seq 3) ywaitW) (slotIs .trapped)) (fun t => decide ((raf t 3).cause = 9)) = true ∧
    (yslot (raf (slotIs .run) 3) (fld ywaitW 35 4)).st = .run ∧
    ans (exec (.ywait (.seq 3) ywaitW) (slotIs .run)) (fun t => decide ((raf t 3).wait = .ywait 6)) = true := by decide +kernel

theorem test_YealmLifecycle_4 : stopped (modRaf (seqSt 0 0) 3 fun r => { r with wait := .ywait 6 }) = false ∧
    ywaitDone (raf (modRaf (seqSt 0 0) 3 fun r => { r with wait := .ywait 6 }) 3) 6 = true ∧
    ans (exec (.ywaitComplete 3) (modRaf (seqSt 0 0) 3 fun r => { r with wait := .ywait 6 })) (fun t =>
      decide ((raf t 3).pc = 0x50 ∧ (raf t 3).wait = .none)) = true := by decide +kernel

theorem test_YealmLifecycle_5 : seqIss (slotIs .run) 3 ykillW (mkForm [] (maskOf 35 4) true false) = true ∧
    (yslot (raf (slotIs .run) 3) (fld ykillW 35 4)).st = .run ∧ yOwes (raf (slotIs .run) 3) (fld ykillW 35 4) = false ∧
    ans (exec (.ykill (.seq 3) ykillW) (slotIs .run)) (fun t => decide ((yslot (raf t 3) 6).st = .free ∧
      fld (storeWord (raf t 3) (noticeOff 9)) 48 8 = 3 ∧ bitOf (storeWord (raf t 3) (noticeOff 9)) 63 = true)) = true ∧
    (yslot (raf (seqSt 0 0) 3) (fld ykillW 35 4)).st = .free ∧
    ans (exec (.ykill (.seq 3) ykillW) (seqSt 0 0)) (fun t => decide ((raf t 3).pc = 0x50)) = true := by decide +kernel

/-- Slot 6 runs and owes the acknowledgement of a store. -/
def slotOwes : State := modRaf (slotIs .run) 3 fun r => { r with beats := [{ runs := [], done := false, yslot := some 6 }] }

theorem test_YealmLifecycle_7 : seqIss slotOwes 3 ykillW (mkForm [] (maskOf 35 4) true false) = true ∧
    (yslot (raf slotOwes 3) (fld ykillW 35 4)).st = .run ∧ yOwes (raf slotOwes 3) (fld ykillW 35 4) = true ∧
    ans (exec (.ykill (.seq 3) ykillW) slotOwes) (fun t => decide ((yslot (raf t 3) 6).st = .run) &&
      ans (exec (.yealmRetire 3 6) (modRaf t 3 fun r => { r with beats := [] })) (fun u => decide ((yslot (raf u 3) 6).st = .free ∧
        fld (storeWord (raf u 3) (noticeOff 9)) 48 8 = 3))) = true := by decide +kernel

theorem test_YealmLifecycle_6 : yRuns (slotIs .run) 3 6 = true ∧ yAlive (yslot (raf (slotIs .run) 3) 6) = [] ∧
    yOwes (raf (slotIs .run) 3) 6 = false ∧
    ans (exec (.yealmRetire 3 6) (slotIs .run)) (fun t => decide ((yslot (raf t 3) 6).st = .free ∧
      fld (storeWord (raf t 3) (noticeOff 9)) 48 8 = 0)) = true := by decide +kernel

/-- What t4 of thread 0 holds after a thread operation on t1 = `a` and t2 = `b`. -/
def thrGives (i : Issuer → Word → Instr) (w : Word) (f : Form) (a b v : Word) : Bool :=
  issues (thrSt [0] a b) w f [0] && ans (exec (i (.thr 3 6) w) (thrSt [0] a b)) fun t => decide (tr t 0 4 = v)

theorem test_ThreadOperations_1 : opIs 8 0 (iw 8 0 4 1 2) = true ∧
    thrGives .fadd (iw 8 0 4 1 2) (mkForm [45, 39, 33] 0 false true) 0x3F800000 0x40000000 0x40400000 = true ∧
    thrGives .fmul (iw 8 1 4 1 2) (mkForm [45, 39, 33] 0 false true) 0x40400000 0x40000000 0x40C00000 = true ∧
    thrGives .fma (iw 8 2 4 1 2 (2 * 2 ^ 27)) (mkForm [45, 39, 33, 27] 0 false true) 0x40400000 0x40000000 0x41000000 = true ∧
    thrGives .fmin (iw 8 3 4 1 2) (mkForm [45, 39, 33] 0 false true) 0x40400000 0xC0000000 0xC0000000 = true ∧
    thrGives .fmax (iw 8 4 4 1 2) (mkForm [45, 39, 33] 0 false true) 0x40400000 0xC0000000 0x40400000 = true ∧
    thrGives .fcmp (iw 8 5 4 1 2 1) (mkForm [45, 39, 33] 3 false true) 0x3F800000 0x40000000 1 = true ∧
    cvtBad (iw 8 6 4 1 0 5) = false ∧
    thrGives .fcvt (iw 8 6 4 1 0 5) (mkForm [45, 39] (maskOf 0 9) false true) 3 0 0x40400000 = true := by decide +kernel

theorem test_ThreadOperations_2 : issues (thrSt [0, 2] 1 7) (iw 8 0x18 4 1 1) (mkForm [45, 39, 33] 0 false true) [0, 2] = true ∧
    ans (exec (.yshfl (.thr 3 6) (iw 8 0x18 4 2 1)) (thrSt [0, 7] 1 7)) (fun t => decide (tr t 0 4 = 8 ∧ tr t 7 4 = 8)) = true ∧
    fld (iw 8 0x19 4 1) 0 3 ≠ 7 ∧ issues (thrSt [0, 2] 1 7) (iw 8 0x19 4 1) (mkForm [45, 39] (maskOf 0 3) false true) [0, 2] = true ∧
    ans (exec (.yred (.thr 3 6) (iw 8 0x19 4 1)) (thrSt [0, 2] 1 7)) (fun t => decide (tr t 0 4 = 4 ∧ tr t 2 4 = 4)) = true := by
  decide +kernel

theorem test_ThreadOperations_3 : issues (thrSt [0, 2] 1 7) (iw 8 0x1A 4) (mkForm [45] 0 false true) [0, 2] = true ∧
    ans (exec (.yrand (.thr 3 6) (iw 8 0x1A 4)) (thrSt [0, 2] 1 7)) (fun t => decide (t.free = 2)) = true ∧
    fld (iw 8 7 4 1) 0 3 ≤ 5 ∧ issues (thrSt [0, 2] 1 7) (iw 8 7 4 1) (mkForm [45, 39] (maskOf 0 3) false true) [0, 2] = true ∧
    ans (exec (.fsfu (.thr 3 6) (iw 8 7 4 1)) (thrSt [0, 2] 1 7)) (fun t => decide (t.free = 2)) = true := by decide +kernel

theorem test_ThreadOperations_4 : issues (thrSt [0, 2] 1 7) (iw 8 0x17) (mkForm [] 0 false true) [0, 2] = true ∧
    (∀ b ∈ (raf (thrSt [0, 2] 1 7) 3).beats, b.yslot ≠ some 6) ∧
    ans (exec (.yfence (.thr 3 6) (iw 8 0x17)) (thrSt [0, 2] 1 7)) (fun t => decide ((thr (yslot (raf t 3) 6) 2).pc = 0x88)) = true ∧
    ans (exec (.ybar (.thr 3 6) (iw 8 0x1B)) (thrSt [0, 2] 1 7)) (fun t => decide ((thr (yslot (raf t 3) 6) 2).pc = 0x88 ∧
      (thr (yslot (raf t 3) 6) 2).held = false)) = true ∧
    ans (exec (.yexit (.thr 3 6) (iw 8 0x1C)) (thrSt [0, 2] 1 7)) (fun t => decide (yAlive (yslot (raf t 3) 6) = [])) = true := by
  decide +kernel

theorem test_ThreadMemory_1 : issues (thrSt [0, 2] 0x100 7) (memW 8 0x10 4 1 0 0 0 0) (formMem false true true) [0, 2] = true ∧
    storeFault (0x102 : Word) 1 false = none ∧
    ans (exec (.yld (.thr 3 6) (memW 8 0x10 4 1 0 0 0 0)) (modRaf (thrSt [0, 2] 0x100 7) 3 fun r =>
      { r with store := writeBytes [] 0x100 [5, 6, 7] })) (fun t => decide (tr t 0 4 = 5 ∧ tr t 2 4 = 7)) = true ∧
    ans (exec (.yld (.thr 3 6) (memW 8 0x10 4 1 1 0 0 1)) (thrSt [0, 2] 0x100 7)) (fun t =>
      decide ((yslot (raf t 3) 6).st = .trapped ∧ (yslot (raf t 3) 6).cause = 4 ∧ (yslot (raf t 3) 6).tmask = 5)) = true ∧
    issues (thrSt [0, 2] 0x100 7) (memW 8 0x11 2 1 0 0 0 0) (formMem false true false) [0, 2] = true ∧
    ans (exec (.yst (.thr 3 6) (memW 8 0x11 2 1 0 0 0 0)) (thrSt [0, 2] 0x100 7)) (fun t =>
      decide (storeWord (raf t 3) 0x100 = 0x070007)) = true := by decide +kernel

/-- A thread atomic's word: register fields, B (8 bytes), offset 0, operation `op4`. -/
def atomW (op rb rc op4 : Nat) : Word :=
  mkWord [(60, 4, 8), (52, 8, op), (45, 6, 4), (39, 6, 1), (33, 6, rb), (27, 6, rc), (5, 1, 1), (0, 4, op4)]

/-- Thread 0 live with t1 = 0x100 and t2 = 7, and the word 30 at 0x100. -/
def atomSt : State := modRaf (thrSt [0] 0x100 7) 3 fun r => { r with store := writeBytes [] 0x100 [30] }

theorem test_ThreadMemory_2 : issues atomSt (atomW 0x14 2 0 0) (mkForm [45, 39, 33] (maskOf 5 22 ||| maskOf 0 4) false true) [0] = true ∧
    bitOf (atomW 0x14 2 0 0) 6 = false ∧ storeFault (atomAddr (atomW 0x14 2 0 0) (thr (yslot (raf atomSt 3) 6) 0)) 8 true = none ∧
    ans (exec (.yatom (.thr 3 6) (atomW 0x14 2 0 0)) atomSt) (fun t => decide (tr t 0 4 = 30 ∧ storeWord (raf t 3) 0x100 = 37)) = true ∧
    issues atomSt (atomW 0x15 2 3 0) (mkForm [45, 39, 33, 27] (maskOf 5 22) false true) [0] = true ∧
    ans (exec (.ycas (.thr 3 6) (atomW 0x15 2 3 0)) atomSt) (fun t => decide (tr t 0 4 = 30 ∧ storeWord (raf t 3) 0x100 = 30)) = true ∧
    ans (exec (.yswap (.thr 3 6) (atomW 0x16 2 0 0)) atomSt) (fun t => decide (tr t 0 4 = 30 ∧ storeWord (raf t 3) 0x100 = 7)) = true := by
  decide +kernel

/-! ## Counters and notice words -/

/-- CADD of the returning form into s4, at the address in s1 with the addend in s2. -/
def caddW : Word := iw 6 0 4 1 2 0x10000

theorem test_CountersAndNotices_1 : opIs 6 0 caddW = true ∧ (bitOf caddW 16 = false → iRd caddW = 0) ∧
    seqIss (winSt 0x1000 5) 3 caddW (mkForm [45, 39, 33] (maskOf 0 17) true false) = true ∧
    counterFault (winSt 0x1000 5) 3 (sreg (raf (winSt 0x1000 5) 3) (iRa caddW)) true = none ∧
    ans (exec (.cadd (.seq 3) caddW) (winSt 0x1000 5)) (fun t => decide ((raf t 3).cadds.length = 1)) = true := by decide +kernel

/-- A CADD of 5 to the word 0x0201 at bay address 0x1000, into s4. -/
def caddSt : State := { modRaf (winSt 0 0) 3 (fun r => { r with
  cadds := [{ rd := some 4, addr := 0x1000, addend := 5, stores := 0, ret := true }], wait := .cadd }) with mem := writeBytes [] 0x1000 [1, 2] }

theorem test_CountersAndNotices_2 : stopped caddSt = false ∧ bayAway caddSt 0x1000 = false ∧
    (atomicAdd (modRaf caddSt 3 fun r => { r with cadds := [] }) 0x1000 5 { rafAcc caddSt 3 with cons := 4 }).2 = some 0x0201 ∧
    ans (exec (.caddPerform 3) caddSt) (fun t => decide (sreg (raf t 3) 4 = 0x0201 ∧ readBytes t.mem 0x1000 2 = [6, 2] ∧ (raf t 3).wait = .none)) = true := by
  decide +kernel

/-- The same with its word uncorrectable. -/
def caddUe : State := { caddSt with syn := [(0x1000 / 8, 0x0C)] }

theorem test_CountersAndNotices_7 : (atomicAdd (modRaf caddUe 3 fun r => { r with cadds := [] }) 0x1000 5 { rafAcc caddUe 3 with cons := 4 }).2 = none ∧
    ans (exec (.caddPerform 3) caddUe) (fun t => decide ((raf t 3).cause = 7 ∧ storeWord (raf t 3) 0xEF010 = 0x1000)) = true ∧
    ans (exec (.caddPerform 3) (modRaf caddUe 3 fun r => { r with
      cadds := [{ rd := none, addr := 0x1000, addend := 5, stores := 0 }], wait := .none })) (fun t =>
      decide ((raf t 3).cadds = [] ∧ (raf t 3).cause = 0)) = true ∧
    ans (exec (.caddPerform 3) (modRaf caddSt 3 fun r => { r with
      cadds := [{ rd := none, addr := 0x1000, addend := 5, stores := 0 }], wait := .none })) (fun t =>
      decide (readBytes t.mem 0x1000 2 = [6, 2] ∧ (raf t 3).pc = (raf caddSt 3).pc)) = true := by
  decide +kernel

theorem test_CountersAndNotices_3 : opIs 6 1 (iw 6 1 0 1 2 9) = true ∧ 2 ≤ fld (iw 6 1 0 1 2 9) 0 9 ∧
    seqIss (winSt 0x1000 5) 3 (iw 6 1 0 1 2 9) (mkForm [39, 33] (maskOf 0 9) true false) = true ∧
    counterFault (winSt 0x1000 5) 3 0x1000 false = none ∧
    ans (exec (.cwatch (.seq 3) (iw 6 1 0 1 2 9)) (winSt 0x1000 5)) (fun t => decide ((bay t 1).watches.length = 1)) = true := by
  decide +kernel

/-- Notice word 9 of rafter 3 set. -/
def noticed (a b : Word) : State := modRaf (seqSt a b) 3 fun r => notify r 9 0 33

theorem test_CountersAndNotices_4 : noticeBad (iw 7 0 4 1 0 (8 + 512)) = false ∧
    pollSet (raf (noticed 0 0) 3) (fld (iw 7 0 4 1 0 (8 + 512)) 0 9) (fld (iw 7 0 4 1 0 (8 + 512)) 9 3 + 1) = some 9 ∧
    seqIss (noticed 0 0) 3 (iw 7 0 4 1 0 (8 + 512)) (mkForm [45, 39] (maskOf 0 12) true false) = true ∧
    ans (exec (.poll (.seq 3) (iw 7 0 4 1 0 (8 + 512))) (noticed 0 0)) (fun t => decide (sreg (raf t 3) 4 = 9)) = true ∧
    seqIss (noticed 0 0) 3 (iw 7 1 4 0 0 (8 + 512) + 0x8000000000000) (mkForm [45] (maskOf 0 12) true false true) = true ∧
    ans (exec (.polli (.seq 3) (iw 7 1 4 0 0 (8 + 512) + 0x8000000000000) 5) (noticed 0 0)) (fun t =>
      decide (sreg (raf t 3) 4 = 9 ∧ (raf t 3).pc = 0x58)) = true ∧
    pollSet (raf (seqSt 0 0) 3) 8 2 = none ∧ sreg (raf (seqSt 0 0) 3) 1 = 0 ∧
    ans (exec (.poll (.seq 3) (iw 7 0 4 1 0 (8 + 512))) (seqSt 0 0)) (fun t =>
      decide ((raf t 3).wait = .poll 4 8 2 false false)) = true ∧
    seqIss (noticed 0 0) 3 (iw 7 2 0 0 0 9) (mkForm [] (maskOf 0 12) true false) = true ∧
    ans (exec (.nclr (.seq 3) (iw 7 2 0 0 0 9)) (noticed 0 0)) (fun t => decide (storeWord (raf t 3) (noticeOff 9) = 0)) = true := by
  decide +kernel

/-- Rafter 3 polling words 8 and 9. -/
def polling (timed : Bool) (f : Rafter → Rafter) : State :=
  let s := modRaf (seqSt 0 0) 3 fun r => f { r with wait := .poll 4 8 2 false timed }
  { s with time := { s.time with timeouts := [{ reader := 3, due := 1000 }] } }

theorem test_CountersAndNotices_5 : stopped (polling false fun r => notify r 9 0 1) = false ∧
    pollSet (raf (polling false fun r => notify r 9 0 1) 3) 8 2 = some 9 ∧
    ans (exec (.pollWake 3) (polling false fun r => notify r 9 0 1)) (fun t => decide (sreg (raf t 3) 4 = 9)) = true ∧
    pollSet (raf (polling true id) 3) 8 2 = none ∧
    (polling true id).time.timeouts.find? (fun x => x.reader = 3) = some { reader := 3, due := 1000 } ∧
    ans (exec (.pollTimeout 3) (polling true id)) (fun t => decide (sreg (raf t 3) 4 = 0xFFFFFFFFFFFFFFFF ∧ t.time.beacon = 1024)) = true := by
  decide +kernel

/-! ## Slates and streams -/

/-- A well-formed descriptor of FP8 operands, INIT, of slates `sl`: K 32, one row, weights at 0x1000, activations at 0x800. -/
def sDesc (sl mode : Nat) : List Word :=
  [mkWord [(62, 2, mode), (53, 8, sl), (25, 17, 32), (20, 5, 1), (11, 9, 9), (10, 1, 1)],
   mkWord [(44, 20, 0x1000), (24, 20, 0x800), (8, 16, 256)], 0, 0, mkWord [(22, 16, 512), (38, 20, 0x4000)], 0, 0, 0]

/-- Rafter 3 with a descriptor at 0x400, s1 = 0x400. -/
def descSt (ws : List Word) : State := modRaf (seqSt 0x400 0) 3 fun r => { r with store := writeBytes [] 0x400 (wordsBytes ws) }

theorem test_SlateIssue_1 : opIs 4 0 (iw 4 0 0 1) = true ∧
    seqIss (descSt (sDesc 3 1)) 3 (iw 4 0 0 1) (mkForm [39] (maskOf 0 20) true false) = true ∧
    (0x400 : Word).toNat % 64 = 0 ∧ inData 0x400 64 = true ∧
    slateBad (slateDesc (bytesWords (readBytes (raf (descSt (sDesc 3 1)) 3).store 0x400 64) 8)) = false ∧
    (∀ i ∈ namedSlates (slateDesc (sDesc 3 1)), i < (enPhys (descSt (sDesc 3 1)) 3).length) ∧
    ans (exec (.slate (.seq 3) (iw 4 0 0 1)) (descSt (sDesc 3 1))) (fun t =>
      decide ((raf t 3).scmds.map (fun m => m.phys) = [[0, 1]])) = true ∧
    slateBad (slateDesc (sDesc 0 1)) = true ∧
    ans (exec (.slate (.seq 3) (iw 4 0 0 1)) (descSt (sDesc 0 1))) (fun t => decide ((raf t 3).cause = 0x12)) = true := by
  decide +kernel

/-- A device whose rafters have seven slates. -/
theorem test_SlateIssue_2 : (namedSlates (slateDesc (sDesc 0x81 1))).find? (fun i =>
      decide ((enPhys (let s := descSt (sDesc 0x81 1); { s with fuses := { s.fuses with grade := .a7s_09 } }) 3).length ≤ i)) = some 7 ∧
    ans (exec (.slate (.seq 3) (iw 4 0 0 1)) (let s := descSt (sDesc 0x81 1); { s with fuses := { s.fuses with grade := .a7s_09 } }))
      (fun t => decide ((raf t 3).cause = 8)) = true := by decide +kernel

/-- Rafter 3 with a slate command on physical slate 0. -/
def slateSt (m : SCmd) : State := modRaf (seqSt 0 0) 3 fun r => { r with scmds := [m] }

/-- The command of the descriptor above, on slate 0. -/
def scmd (mode : Nat) : SCmd := { desc := slateDesc (sDesc 1 mode), phys := [0] }

theorem test_SlateWork_1 : stopped (slateSt (scmd 1)) = false ∧ physSlate (slateSt (scmd 1)) 3 0 = some 0 ∧
    slatesRun (raf (slateSt (scmd 1)) 3) = true ∧
    pickCmd (fun m => m.phys.contains 0 && !m.started) (raf (slateSt (scmd 1)) 3).scmds = some ([], scmd 1, []) ∧
    ans (exec (.slateCommandStart 3 0) (modRaf (slateSt (scmd 1)) 3 fun r => setSlate r 0 { acc0 := [(5, 1)] })) (fun t =>
      decide (bankOf_ (slate (raf t 3) 0) false = [] ∧ ((raf t 3).scmds.map (·.started)) = [true])) = true := by decide +kernel

/-- The command in progress. -/
def slateRun : State := slateSt { scmd 1 with started := true }

theorem test_SlateWork_2 : physSlate slateRun 3 0 = some 0 ∧ slatesRun (raf slateRun 3) = true ∧
    pickCmd (fun m => m.started && m.phys.contains 0 && !doneOn m 0) (raf slateRun 3).scmds =
      some ([], { scmd 1 with started := true }, []) ∧ (slate (raf slateRun 3) 0).dwell = false ∧
    (scmd 1).desc.wsrc = true ∧
    ans (exec (.kSlice 3 0) slateRun) (fun t => decide ((raf t 3).scmds.map (fun m => m.prog) = [[(0, 1)]])) = true := by
  decide +kernel

/-- A cell at 1.0 that takes the product of the E4M3 elements 1.0 and 2.0 holds 3.0. -/
theorem test_cell : cellSteps 0x3F800000 [[fMul (elemVal 0 0x38) (elemVal 0 0x40)]] = 0x40400000 := by decide +kernel

/-- The command finished on its slate. -/
def slateDone : State := slateSt { scmd 1 with started := true, prog := [(0, 32)] }

theorem test_SlateWork_3 : physSlate slateDone 3 0 = some 0 ∧ allDone { scmd 1 with started := true, prog := [(0, 32)] } = true ∧
    drains (scmd 1).desc = false ∧ (scmd 1).desc.notice = 9 ∧
    ans (exec (.slateCommandComplete 3 0) slateDone) (fun t => decide ((raf t 3).scmds = [] ∧
      fld (storeWord (raf t 3) (noticeOff 9)) 0 48 = 32)) = true := by decide +kernel

/-- Slate 2 of rafter 3 in a dwell. -/
def dwells : State := modRaf live 3 fun r => setSlate r 2 { dwell := true }

theorem test_SlateWork_4 : stopped dwells = false ∧ (∃ n ∈ raftersOf dwells 1, ∃ p, p < 8 ∧ (slate (raf dwells n) p).dwell = true) ∧
    ans (exec (.dwellEnd 1) dwells) (fun t => decide ((slate (raf t 3) 2).dwell = false)) = true := by decide +kernel

/-- A stream descriptor from store 0x800 to store 0x900 of `len` bytes, notice word 9. -/
def stDesc (len : Nat) : List Word := [mkWord [(42, 9, 9), (0, 32, len)], 0x800, 0x900, 0, 0, 0, 0, 0]

/-- STR of channel 5 from s1. -/
def strW : Word := mkWord [(60, 4, 5), (39, 6, 1), (35, 4, 5)]

/-- Channel 5 of rafter 3 as given. -/
def chanSt (x : Chan) : State := modRaf (descSt (stDesc 16)) 3 fun r => setChan r 5 x

theorem test_StreamIssue_1 : opIs 5 0 strW = true ∧
    seqIss (chanSt {}) 3 strW (mkForm [39] (maskOf 35 4 ||| maskOf 0 20) true false) = true ∧
    (chan (raf (chanSt {}) 3) 5).st ≠ .frozen ∧
    ans (exec (.str (.seq 3) strW) (chanSt {})) (fun t => decide ((chan (raf t 3) 5).queue = [{ ws := stDesc 16, offOk := true }])) = true ∧
    (chan (raf (chanSt { st := .frozen }) 3) 5).st = .frozen ∧
    ans (exec (.str (.seq 3) strW) (chanSt { st := .frozen })) (fun t => decide ((chan (raf t 3) 5).queue = [] ∧
      fld (storeWord (raf t 3) (noticeOff 9)) 48 8 = 4)) = true ∧
    ans (exec (.str (.seq 3) strW) (chanSt { st := .halted, queue := List.replicate 8 { ws := stDesc 16, offOk := true } })) (fun t =>
      decide ((chan (raf t 3) 5).queue.length = 8 ∧ fld (storeWord (raf t 3) (noticeOff 9)) 48 8 = 3)) = true := by decide +kernel

theorem test_StreamIssue_2 : seqIss (chanSt { st := .halted }) 3 (mkWord [(60, 4, 5), (52, 8, 1), (35, 4, 5)]) (mkForm [] (maskOf 35 4) true false) = true ∧
    ans (exec (.strsm (.seq 3) (mkWord [(60, 4, 5), (52, 8, 1), (35, 4, 5)])) (chanSt { st := .halted, addr := 8 })) (fun t =>
      decide ((chan (raf t 3) 5).st = .busy ∧ (chan (raf t 3) 5).addr = 0)) = true ∧
    ans (exec (.stclr (.seq 3) (mkWord [(60, 4, 5), (52, 8, 2), (35, 4, 5)]))
        (chanSt { st := .halted, queue := [{ ws := stDesc 16, offOk := true }] })) (fun t =>
      decide ((chan (raf t 3) 5).queue = [])) = true := by decide +kernel

/-- A channel with one descriptor at its head. -/
def chanQ (st : CState) (ws : List Word) (moved : Nat) : State := chanSt { st := st, queue := [{ ws := ws, offOk := true }], moved := moved }

theorem test_StreamWork_1 : stopped (chanQ .idle (stDesc 16) 0) = false ∧ chansRun (raf (chanQ .idle (stDesc 16) 0) 3) = true ∧
    streamFault (chanQ .idle (stDesc 16) 0) 3 { ws := stDesc 16, offOk := true } 7 = none ∧
    sdValley { ws := stDesc 16, offOk := true } = none ∧ sdLen { ws := stDesc 16, offOk := true } ≠ 0 ∧
    ans (exec (.streamDescriptorStart 3 5) (chanQ .idle (stDesc 16) 0)) (fun t => decide ((chan (raf t 3) 5).st = .busy)) = true ∧
    sdLen { ws := stDesc 0, offOk := true } = 0 ∧
    ans (exec (.streamDescriptorStart 3 5) (chanQ .idle (stDesc 0) 0)) (fun t => decide ((chan (raf t 3) 5).st = .idle ∧
      (chan (raf t 3) 5).queue = [] ∧ bitOf (storeWord (raf t 3) (noticeOff 9)) 63 = true)) = true := by decide +kernel

/-- A source in bay space that no window lets the rafter read. -/
def stDevice : List Word := [mkWord [(61, 3, 1), (42, 9, 9), (0, 32, 16)], 0x1000, 0x900, 0, 0, 0, 0, 0]

/-- A source that is a valley end which is gone. -/
def stValley : List Word := [mkWord [(61, 3, 4), (42, 9, 9), (0, 32, 16)], 0x10005, 0x900, 0, 0, 0, 0, 0]

theorem test_StreamWork_2 : (streamFault (chanQ .idle stDevice 0) 3 { ws := stDevice, offOk := true } 7).isSome = true ∧
    ans (exec (.streamDescriptorStart 3 5) (chanQ .idle stDevice 0)) (fun t => decide ((chan (raf t 3) 5).st = .frozen)) = true ∧
    streamFault (chanQ .idle stValley 0) 3 { ws := stValley, offOk := true } 7 = none ∧
    sdValley { ws := stValley, offOk := true } = some 0x10005 ∧ endOfHandle (chanQ .idle stValley 0) 0x10005 = none ∧
    ans (exec (.streamDescriptorStart 3 5) (chanQ .idle stValley 0)) (fun t => decide (
      fld (storeWord (raf t 3) (noticeOff 9)) 48 8 = 2)) = true := by decide +kernel

/-- The source bytes stand in the store. -/
def moving : State := modRaf (chanQ .busy (stDesc 16) 0) 3 fun r => { r with store := writeBytes r.store 0x800 [1, 2, 3] }

theorem test_StreamWork_3 : (chan (raf moving 3) 5).st = .busy ∧ (chan (raf moving 3) 5).moved < sdBytes (raf moving 3) { ws := stDesc 16, offOk := true } ∧
    streamTotal (raf moving 3) (chan (raf moving 3) 5) { ws := stDesc 16, offOk := true } = some 16 ∧
    dstFull (raf moving 3) (chan (raf moving 3) 5) { ws := stDesc 16, offOk := true } 16 = false ∧
    srcWaits moving 3 5 (chan (raf moving 3) 5) { ws := stDesc 16, offOk := true } 16 = none ∧
    (srcLine moving 3 5 (chan (raf moving 3) 5) { ws := stDesc 16, offOk := true } 16).2.2 = none ∧
    ans (exec (.streamDataReturn 3 5) moving) (fun t => decide ((chan (raf t 3) 5).moved = 16 ∧
      readBytes (raf t 3).store 0x900 4 = [1, 2, 3, 0])) = true ∧
    streamDone (chanQ .busy (stDesc 16) 16) 3 5 (chan (raf (chanQ .busy (stDesc 16) 16) 3) 5) { ws := stDesc 16, offOk := true } = true ∧
    ans (exec (.streamDescriptorEnd 3 5) (chanQ .busy (stDesc 16) 16)) (fun t => decide ((chan (raf t 3) 5).st = .idle ∧
      fld (storeWord (raf t 3) (noticeOff 9)) 0 48 = 16)) = true := by decide +kernel


/-! ## Further clauses of the same statements -/

theorem test_YealmLifecycle_8 : (raf (modRaf (seqSt 77 0) 3 fun r =>
      { r with launch := List.replicate 16 { slot := 6, entry := 0x80, nthr := 3, arg := 77, notice := 9 } }) 3).launch.length = 16 ∧
    ans (exec (.ylaunch (.seq 3) launchW) (modRaf (seqSt 77 0) 3 fun r =>
      { r with launch := List.replicate 16 { slot := 6, entry := 0x80, nthr := 3, arg := 77, notice := 9 } })) (fun t =>
      decide ((raf t 3).pc = 0x48 ∧ (raf t 3).launch.length = 16)) = true ∧
    fld (mkWord [(60, 4, 3), (39, 6, 1), (35, 4, 6), (29, 6, 33), (0, 20, 0x80)]) 29 6 = 33 ∧
    ans (exec (.ylaunch (.seq 3) (mkWord [(60, 4, 3), (39, 6, 1), (35, 4, 6), (29, 6, 33), (0, 20, 0x80)])) (seqSt 77 0)) (fun t =>
      decide ((raf t 3).cause = 1)) = true := by decide +kernel

theorem test_YealmLifecycle_9 : (yslot (raf (modRaf (slotIs .trapped) 3 fun r => { r with wait := .ywait 6 }) 3) 6).st = .trapped ∧
    ans (exec (.ywaitComplete 3) (modRaf (slotIs .trapped) 3 fun r => { r with wait := .ywait 6 })) (fun t =>
      decide ((raf t 3).cause = 9)) = true := by decide +kernel

theorem test_ThreadOperations_5 : fld (iw 8 0x19 4 1 0 7) 0 3 = 7 ∧
    ans (exec (.yred (.thr 3 6) (iw 8 0x19 4 1 0 7)) (thrSt [0, 2] 1 7)) (fun t => decide ((yslot (raf t 3) 6).cause = 1)) = true ∧
    issues (thrSt [0, 2] 1 7) (iw 8 7 4 1 0 6) (mkForm [45, 39] (maskOf 0 3) false true) [0, 2] = true ∧
    ans (exec (.fsfu (.thr 3 6) (iw 8 7 4 1 0 6)) (thrSt [0, 2] 1 7)) (fun t => decide ((yslot (raf t 3) 6).cause = 1)) = true ∧
    cvtBad (iw 8 6 4 1 0 0x77) = true ∧
    issues (thrSt [0, 2] 1 7) (iw 8 6 4 1 0 0x77) (mkForm [45, 39] (maskOf 0 9) false true) [0, 2] = true ∧
    ans (exec (.fcvt (.thr 3 6) (iw 8 6 4 1 0 0x77)) (thrSt [0, 2] 1 7)) (fun t => decide ((yslot (raf t 3) 6).cause = 1)) = true ∧
    gives (exec (.yfence (.thr 3 6) (iw 8 0x17)) (modRaf (thrSt [0] 1 7) 3 fun r =>
      { r with beats := [{ runs := [], done := true, yslot := some 6 }] })) (modRaf (thrSt [0] 1 7) 3 fun r =>
      { r with beats := [{ runs := [], done := true, yslot := some 6 }] }) = true := by decide +kernel

/-- Slot 6 with windows over all of bay space. -/
def winThr (ts : List Nat) (a b : Word) : State := rgSet (thrSt ts a b) .rafnWink 3 0 (mkWord [(62, 2, 3), (26, 24, 0), (0, 24, 0x17C00)])

theorem test_ThreadMemory_3 : fld (memW 8 0x10 4 1 3 0 1 0) 37 2 = 3 ∧
    issues (thrSt [0] 0x100 7) (memW 8 0x10 4 1 3 0 1 0) (formMem false true true) [0] = true ∧
    ans (exec (.yld (.thr 3 6) (memW 8 0x10 4 1 3 0 1 0)) (thrSt [0] 0x100 7)) (fun t => decide ((yslot (raf t 3) 6).cause = 1)) = true ∧
    issues (winThr [0, 2] 0x1000 7) (memW 8 0x10 4 1 0 1 0 0) (formMem false true true) [0, 2] = true ∧
    deviceFault (winThr [0, 2] 0x1000 7) 3 0x1002 1 false = none ∧
    readWaits (winThr [0, 2] 0x1000 7) 3 (ylmAcc (winThr [0, 2] 0x1000 7) 3).cls (sectorReads 6 [(0, 0x1000), (2, 0x1002)]) = none ∧
    ans (exec (.yld (.thr 3 6) (memW 8 0x10 4 1 0 1 0 0)) { winThr [0, 2] 0x1000 7 with mem := writeBytes [] 0x1000 [1, 2, 3] }) (fun t =>
      decide (tr t 0 4 = 1 ∧ tr t 2 4 = 3)) = true ∧
    ans (exec (.yld (.thr 3 6) (memW 8 0x10 4 1 0 1 0 0)) (setSyn (winThr [0, 2] 0x1000 7) 0x1000 poisonSyn)) (fun t =>
      decide ((yslot (raf t 3) 6).cause = 7 ∧ (yslot (raf t 3) 6).tmask = 5)) = true ∧
    (readWaits (laneTest (winThr [0, 2] 0x1000 7)) 3 0 (sectorReads 6 [(0, 0x1000), (2, 0x1002)])).isSome = true ∧
    ans (exec (.yld (.thr 3 6) (memW 8 0x10 4 1 0 1 0 0)) (laneTest (winThr [0, 2] 0x1000 7))) (fun t =>
      decide ((raf t 3).reads.length = 1)) = true := by decide +kernel

theorem test_ThreadMemory_4 : issues (winThr [0, 2] 0x1000 7) (memW 8 0x11 2 1 0 1 0 0) (formMem false true false) [0, 2] = true ∧
    deviceFault (winThr [0, 2] 0x1000 7) 3 0x1002 1 true = none ∧
    ans (exec (.yst (.thr 3 6) (memW 8 0x11 2 1 0 1 0 0)) (winThr [0, 2] 0x1000 7)) (fun t =>
      decide ((raf t 3).beats.length = 1 ∧ readBytes t.mem 0x1000 4 = [7, 0, 7, 0])) = true ∧
    gives (exec (.yst (.thr 3 6) (memW 8 0x11 2 1 0 1 0 0)) (modRaf (winThr [0] 0x1000 7) 3 fun r =>
      { r with beats := List.replicate 64 { runs := [], done := true } })) (modRaf (winThr [0] 0x1000 7) 3 fun r =>
      { r with beats := List.replicate 64 { runs := [], done := true } }) = true ∧
    ans (exec (.yst (.thr 3 6) (memW 8 0x11 2 1 0 1 0 0)) (winThr [0, 2] 0x8000000000 7)) (fun t =>
      decide ((raf t 3).st = .frozen)) = true := by decide +kernel

/-- An atomic word of the device space. -/
def atomDev (op rb rc op4 : Nat) : Word := atomW op rb rc op4 + 0x40

theorem test_ThreadMemory_5 : (decide (8 < fld (atomW 0x14 2 0 9) 0 4) || false) = true ∧
    ans (exec (.yatom (.thr 3 6) (atomW 0x14 2 0 9)) atomSt) (fun t => decide ((yslot (raf t 3) 6).cause = 1)) = true ∧
    issues (winThr [0] 0x1000 7) (atomDev 0x14 2 0 0) (mkForm [45, 39, 33] (maskOf 5 22 ||| maskOf 0 4) false true) [0] = true ∧
    atomFault (winThr [0] 0x1000 7) 3 true 0x1000 8 = none ∧
    ans (exec (.yatom (.thr 3 6) (atomDev 0x14 2 0 0)) { winThr [0] 0x1000 7 with mem := writeBytes [] 0x1000 [30] }) (fun t =>
      decide (tr t 0 4 = 30 ∧ readBytes t.mem 0x1000 2 = [37, 0])) = true ∧
    ans (exec (.yatom (.thr 3 6) (atomDev 0x14 2 0 0)) (setSyn (winThr [0] 0x1000 7) 0x1000 poisonSyn)) (fun t =>
      decide ((yslot (raf t 3) 6).cause = 7)) = true ∧
    ans (exec (.yatom (.thr 3 6) (atomDev 0x14 2 0 0)) (laneTest (winThr [0] 0x1000 7))) (fun t =>
      decide ((raf t 3).reads.length = 1)) = true ∧
    atomFault (winThr [0] 0x1001 7) 3 true 0x1001 8 = some 4 ∧
    ans (exec (.yatom (.thr 3 6) (atomDev 0x14 2 0 0)) (winThr [0] 0x1001 7)) (fun t =>
      decide ((yslot (raf t 3) 6).cause = 4)) = true := by decide +kernel

theorem test_CountersAndNotices_8 : bitOf (iw 6 0 4 1 2) 16 = false ∧ iRd (iw 6 0 4 1 2) ≠ 0 ∧
    ans (exec (.cadd (.seq 3) (iw 6 0 4 1 2)) (winSt 0x1000 5)) (fun t => decide ((raf t 3).cause = 1)) = true ∧
    (counterFault (winSt 0x1001 5) 3 0x1001 true).isSome = true ∧
    ans (exec (.cadd (.seq 3) caddW) (winSt 0x1001 5)) (fun t => decide ((raf t 3).cause = 4)) = true ∧
    fld (iw 6 1 0 1 2 1) 0 9 < 2 ∧
    ans (exec (.cwatch (.seq 3) (iw 6 1 0 1 2 1)) (winSt 0x1000 5)) (fun t => decide ((raf t 3).cause = 1)) = true ∧
    (counterFault (winSt 0x1001 5) 3 0x1001 false).isSome = true ∧
    ans (exec (.cwatch (.seq 3) (iw 6 1 0 1 2 9)) (winSt 0x1001 5)) (fun t => decide ((raf t 3).cause = 4)) = true ∧
    portHeld (laneTest (winSt 0x1000 5)) 3 = true ∧
    gives (exec (.cwatch (.seq 3) (iw 6 1 0 1 2 9)) (laneTest (winSt 0x1000 5))) (laneTest (winSt 0x1000 5)) = true := by
  decide +kernel

theorem test_CountersAndNotices_9 : noticeBad (iw 7 0 4 1 0 (511 + 512)) = true ∧
    seqIss (seqSt 0 0) 3 (iw 7 0 4 1 0 (511 + 512)) (mkForm [45, 39] (maskOf 0 12) true false) = true ∧
    ans (exec (.poll (.seq 3) (iw 7 0 4 1 0 (511 + 512))) (seqSt 0 0)) (fun t => decide ((raf t 3).cause = 1)) = true ∧
    ans (exec (.nclr (.seq 3) (iw 7 2 0 0 0 (511 + 512))) (seqSt 0 0)) (fun t => decide ((raf t 3).cause = 1)) = true ∧
    ans (exec (.polli (.seq 3) (iw 7 1 4 0 0 (511 + 512) + 0x8000000000000) 5) (seqSt 0 0)) (fun t => decide ((raf t 3).cause = 1)) = true ∧
    ans (exec (.polli (.seq 3) (iw 7 1 4 0 0 8 + 0x8000000000000) 5) (seqSt 0 0)) (fun t =>
      decide ((raf t 3).wait = .poll 4 8 1 true true ∧ t.time.timeouts = [{ reader := 3, due := 69 }])) = true := by
  decide +kernel

theorem test_SlateIssue_3 : (∃ i ∈ namedSlates (slateDesc (sDesc 1 1)), 4 ≤ (onSlate (raf (modRaf (descSt (sDesc 1 1)) 3 fun r =>
      { r with scmds := List.replicate 4 (scmd 1) }) 3) (nth (enPhys (descSt (sDesc 1 1)) 3) i 0)).length) ∧
    ans (exec (.slate (.seq 3) (iw 4 0 0 1)) (modRaf (descSt (sDesc 1 1)) 3 fun r => { r with scmds := List.replicate 4 (scmd 1) }))
      (fun t => decide ((raf t 3).pc = 0x48)) = true := by decide +kernel

/-- A command whose operands are all zero leaves the bank; one in a dwell waits. -/
theorem test_SlateWork_5 : (slate (raf (modRaf slateRun 3 fun r => setSlate r 0 { dwell := true }) 3) 0).dwell = true ∧
    gives (exec (.kSlice 3 0) (modRaf slateRun 3 fun r => setSlate r 0 { dwell := true }))
      (modRaf slateRun 3 fun r => setSlate r 0 { dwell := true }) = true ∧
    ans (exec (.kSlice 3 0) (modRaf slateRun 3 fun r => setSlate r 0 { acc0 := [(5, 1)] })) (fun t =>
      decide ((slate (raf t 3) 0).acc0 = [(5, 1)])) = true := by decide +kernel

/-- Streamed weights: no gate of the share yet, a share wholly absent, and one whose bytes have not come. -/
def streamed (g : List (Bool × Bool)) : State :=
  slateSt { scmd 1 with desc := { (scmd 1).desc with wsrc := false }, started := true, gates := [(0, g)] }

theorem test_SlateWork_6 : gives (exec (.kSlice 3 0) (streamed [])) (streamed []) = true ∧
    ans (exec (.kSlice 3 0) (streamed [(false, false)])) (fun t => decide ((raf t 3).scmds.map (fun m => m.prog) = [[(0, 32)]])) = true ∧
    gives (exec (.kSlice 3 0) (streamed [(true, true)])) (streamed [(true, true)]) = true := by decide +kernel

theorem test_StreamIssue_3 : (chan (raf (chanSt { st := .busy, queue := List.replicate 8 { ws := stDesc 16, offOk := true } }) 3) 5).queue.length = 8 ∧
    gives (exec (.str (.seq 3) strW) (chanSt { st := .busy, queue := List.replicate 8 { ws := stDesc 16, offOk := true } }))
      (chanSt { st := .busy, queue := List.replicate 8 { ws := stDesc 16, offOk := true } }) = true := by decide +kernel

/-- A source in bay space that window 0 lets rafter 3 read. -/
def movingBay (s : State) : State := modRaf (rgSet s .rafnWink 3 0 (mkWord [(62, 2, 3), (26, 24, 0), (0, 24, 0x17C00)])) 3 fun r =>
  setChan r 5 { st := .busy, queue := [{ ws := stDevice, offOk := true }] }

theorem test_StreamWork_4 : (srcWaits (laneTest (movingBay (seqSt 0 0))) 3 5 { st := .busy, queue := [{ ws := stDevice, offOk := true }] }
      { ws := stDevice, offOk := true } 16).isSome = true ∧
    ans (exec (.streamDataReturn 3 5) (laneTest (movingBay (seqSt 0 0)))) (fun t =>
      decide ((raf t 3).reads.length = 1 ∧ (chan (raf t 3) 5).moved = 0)) = true ∧
    ans (exec (.streamDataReturn 3 5) (movingBay (setSyn (seqSt 0 0) 0x1000 poisonSyn))) (fun t =>
      decide ((chan (raf t 3) 5).st = .halted)) = true ∧
    ans (exec (.streamDataReturn 3 5) (movingBay (seqSt 0 0))) (fun t => decide ((chan (raf t 3) 5).moved = 16)) = true := by
  decide +kernel

/-- A destination in bay space, with the replay buffer full. -/
theorem test_StreamWork_5 : dstFull (raf (modRaf (movingBay (seqSt 0 0)) 3 fun r => { setChan r 5
        { st := .busy, queue := [{ ws := [mkWord [(58, 3, 1), (42, 9, 9), (0, 32, 16)], 0x800, 0x1000, 0, 0, 0, 0, 0], offOk := true }] } with
        beats := List.replicate 64 { runs := [], done := true } }) 3)
      { st := .busy } { ws := [mkWord [(58, 3, 1), (42, 9, 9), (0, 32, 16)], 0x800, 0x1000, 0, 0, 0, 0, 0], offOk := true } 16 = true := by
  decide +kernel

/-- A stream end 5 LIVE, and descriptors that send to it, take from it and GET from its partner. -/
def endSt (ws : List Word) (x : Chan) : State :=
  setVend (modRaf (seqSt 0 0) 3 fun r => setChan r 5 { x with queue := [{ ws := ws, offOk := true }] }) 5 { vgen := 1, st := .live, rxlog2 := 16 }

/-- To end 5 from store 0x800, and from end 5 to store 0x900. -/
def toEnd : List Word := [mkWord [(58, 3, 4), (42, 9, 9), (0, 32, 16)], 0x800, 0x10005, 0, 0, 0, 0, 0]
def fromEnd : List Word := [mkWord [(61, 3, 4), (42, 9, 9), (0, 32, 16)], 0x10005, 0x900, 0, 0, 0, 0, 0]

theorem test_StreamWork_6 : sdValley { ws := toEnd, offOk := true } = some 0x10005 ∧ endOfHandle (endSt toEnd {}) 0x10005 = some 5 ∧
    (vend (endSt toEnd {}) 5).st ≠ .closed ∧ streamFault (endSt toEnd {}) 3 { ws := toEnd, offOk := true } 7 = none ∧
    ans (exec (.streamDescriptorStart 3 5) (endSt toEnd {})) (fun t => decide ((chan (raf t 3) 5).st = .busy)) = true ∧
    streamTotal (raf (endSt toEnd { st := .busy }) 3) { st := .busy } { ws := toEnd, offOk := true } = some 16 ∧
    ans (exec (.streamDataReturn 3 5) (endSt toEnd { st := .busy })) (fun t => decide ((vend t 5).sends.length = 1)) = true ∧
    streamTotal (raf (endSt fromEnd { st := .busy }) 3) { st := .busy } { ws := fromEnd, offOk := true } = none ∧
    ans (exec (.streamDataReturn 3 5) (endSt fromEnd { st := .busy })) (fun t => decide ((chan (raf t 3) 5).moved = 0)) = true ∧
    sdVop { ws := fromEnd, offOk := true } ≠ 1 ∧
    streamDone (endSt fromEnd { st := .busy, psize := some 16, moved := 16 }) 3 5
      { st := .busy, psize := some 16, moved := 16 } { ws := fromEnd, offOk := true } = true ∧
    ans (exec (.streamDescriptorEnd 3 5) (endSt fromEnd { st := .busy, psize := some 16, moved := 16 })) (fun t =>
      decide (fld (storeWord (raf t 3) (noticeOff 9)) 0 48 = 16)) = true := by decide +kernel

/-! ## Ring commands -/

/-- An entry of ring commands: OP, CMDID 7, handle. -/
def ent (op : Nat) (h : Nat := 0) (w1 w2 w3 w4 w5 : Word := 0) : Entry :=
  { w0 := mkWord [(56, 8, op), (32, 16, 7), (0, 32, h)], w1 := w1, w2 := w2, w3 := w3, w4 := w4, w5 := w5 }

/-- Ring 3 in use and session slot 5 as given, with generation 1. -/
def sesSt (x : Session) : State := setSes ringAt 5 { x with gen := 1 }

/-- The handle of slot 5. -/
def h5 : Nat := 0x100005

/-- The status of the last CMD completion, in CMP word 0 bits 55:48 (R110). -/
def lastStatus (t : State) : Nat :=
  match t.host.tx.getLast? with
  | some (.mwr _ bs) => fld (bytesWord bs) 48 8
  | _ => (t.host.comps.getLast?.map fun c => c.status).getD 999

theorem test_RingRefusals_1 : ringOn (sesSt {}) 3 = true ∧ stopped (sesSt {}) = false ∧ ringOp 3 (ent 3 h5 0 0 1) = true ∧
    early (sesSt {}) 3 (ent 3 h5 0 0 1) = some 6 ∧ early (boot 9 0) 3 (ent 3 h5) = some 1 ∧
    ans (exec (.sesRun 3 (ent 3 h5 0 0 1)) (sesSt {})) (fun t => decide ((ses t 5).st = .free)) = true := by decide +kernel

theorem test_RingRefusals_2 : ringTakes (sesSt {}) 3 (ent 5 0x200005) 5 = true ∧
    sesOfHandle (sesSt { st := .open }) (entHandle (ent 5 0x200005)) = none ∧
    ringTakes (sesSt { st := .closing }) 3 (ent 4 h5) 4 = true ∧
    sesOfHandle (sesSt { st := .closing }) (entHandle (ent 4 h5)) = some 5 ∧ listedOp (fld (ent 0x77).w0 56 8) = false ∧
    ans (exec (.illegalOp 3 (ent 0x77)) (sesSt {})) (fun t => decide (t.ses = (sesSt {}).ses)) = true := by decide +kernel

/-- Layer group 7 valid and FIRST, kind ATTN, on rafter 3. -/
def grp (s : State) : State := { s with ses := { s.ses with lgt := [(7, { valid := true, first := true, kind := 2, rafters := 8, units := 1, tokkv := 1024 })] } }

theorem test_SessionCommands_1 : ringTakes (grp ringAt) 3 (ent 1 0 (mkWord [(61, 3, 2), (43, 14, 7)]) 0xFFFFFFFF) 1 = true ∧
    (lgrp (grp ringAt) 7).valid = true ∧ (lgrp (grp ringAt) 7).first = true ∧ (grp ringAt).ses.hbmLost = false ∧
    freeSlot (grp ringAt) = some 0 ∧
    ans (exec (.sesOpen 3 (ent 1 0 (mkWord [(61, 3, 2), (43, 14, 7)]) 0xFFFFFFFF)) (grp ringAt)) (fun t =>
      decide ((ses t 0).st = .open ∧ (ses t 0).start = 7 ∧ (ses t 0).cls = 2)) = true := by decide +kernel

/-- The bytes that ring 3's command names have come from the host. -/
def got (bs : List Byte) (s : State) : State :=
  setFetch s 3 (some { addr := 0x1000, len := bs.length, asked := bs.length, parts := [(0, bs)] })

theorem test_SessionCommands_2 : ringTakes (sesSt { st := .open }) 3 (ent 2 h5 0x1000 2) 2 = true ∧
    sesOfHandle (sesSt { st := .open }) (entHandle (ent 2 h5)) = some 5 ∧
    appendBad (ent 2 h5 0x1000 2) = false ∧ fetchedFor (sesSt { st := .open }) 3 8 = none ∧
    ans (exec (.sesAppend 3 (ent 2 h5 0x1000 2) 4095) (sesSt { st := .open })) (fun t =>
      decide ((ses t 5).prompt = [] ∧ t.host.mrds.map (fun m => (m.addr, m.len)) = [(0x1000, 8)])) = true ∧
    fetchedFor (got [8, 0, 0, 0, 9, 0, 0, 0] (sesSt { st := .open })) 3 8 = some [8, 0, 0, 0, 9, 0, 0, 0] ∧
    ans (exec (.sesAppend 3 (ent 2 h5 0x1000 2) 4095) (got [8, 0, 0, 0, 9, 0, 0, 0] (sesSt { st := .open }))) (fun t =>
      decide ((ses t 5).prompt = [8, 9] ∧ (ses t 5).pend = 2)) = true := by decide +kernel

theorem test_SessionCommands_3 : ringTakes (sesSt { st := .parked, start := 7 }) 3 (ent 3 h5 0x2000 6) 3 = true ∧
    fld (6 : Word) 0 32 ≠ 0 ∧ fld (0x2000 : Word) 0 2 = 0 ∧
    ans (exec (.sesRun 3 (ent 3 h5 0x2000 6)) (sesSt { st := .parked, start := 7 })) (fun t =>
      decide ((ses t 5).st = .ready ∧ (ses t 5).lgrp = 7 ∧ (ses t 5).budget = 6 ∧ (ses t 5).dest = 0x2000)) = true := by decide +kernel

theorem test_SessionCommands_4 : ringTakes (sesSt { st := .parked }) 3 (ent 4 h5) 4 = true ∧
    sesOfHandle (sesSt { st := .parked }) (entHandle (ent 4 h5)) = some 5 ∧
    ans (exec (.sesPark 3 (ent 4 h5)) (sesSt { st := .parked })) (fun t => decide ((ses t 5).st = .parked)) = true ∧
    ans (exec (.sesPark 3 (ent 4 h5)) (sesSt { st := .open })) (fun t => decide ((ses t 5).st = .parked)) = true ∧
    ans (exec (.sesPark 3 (ent 4 h5)) (sesSt { st := .running })) (fun t => decide ((ses t 5).parkReq = true)) = true := by decide +kernel

theorem test_SessionCommands_5 : ringTakes (sesSt { st := .open }) 3 (ent 5 h5) 5 = true ∧
    ans (exec (.sesClose 3 (ent 5 h5)) (sesSt { st := .open })) (fun t => decide ((ses t 5).st = .closing)) = true ∧
    ans (exec (.sesClose 3 (ent 5 h5)) (sesSt { st := .running })) (fun t => decide ((ses t 5).closeReq = true)) = true := by decide +kernel

theorem test_ShardValleyRegisterCommands_1 : ringTakes ringAt 3 (ent 0x10 0 0 0x1000 4) 0x10 = true ∧
    placeOk ringAt 0x1000 4 = true ∧
    fetchedFor ringAt 3 4 = none ∧
    ans (exec (.shardLoadData 3 (ent 0x10 0 0 0x1000 4) 4095) ringAt) (fun t => decide (t.mem = [] ∧ t.host.mrds.length = 1)) = true ∧
    fetchedFor (got [1, 2, 3, 4] ringAt) 3 4 = some [1, 2, 3, 4] ∧
    ans (exec (.shardLoadData 3 (ent 0x10 0 0 0x1000 4) 4095) (got [1, 2, 3, 4] ringAt)) (fun t =>
      decide (readBytes t.mem 0x1000 5 = [1, 2, 3, 4, 0])) = true ∧
    placeOk ringAt 0x17FFFFFFE 4 = false ∧ ringTakes ringAt 3 (ent 0x10 0 0 0x17FFFFFFE 4) 0x10 = true ∧
    ans (exec (.shardLoadData 3 (ent 0x10 0 0 0x17FFFFFFE 4) 4095) ringAt) (fun t => decide (t.mem = [])) = true := by
  decide +kernel

/-- A layer-group descriptor's 64 bytes: VALID. -/
def lgBytes : List Byte := wordsBytes [0x8000000000000000, 0, 0, 0, 0, 0, 0, 0]

theorem test_ShardValleyRegisterCommands_2 : ringTakes (got lgBytes ringAt) 3 (ent 0x10 0 0 16383 64 1) 0x10 = true ∧
    (64 : Word).toNat % 64 = 0 ∧ 16383 + 1 ≤ 16384 ∧ usedSlots ringAt = [] ∧ fetchedFor ringAt 3 64 = none ∧
    ans (exec (.shardLoadTable 3 (ent 0x10 0 0 16383 64 1) 4095) ringAt) (fun t => decide (t.host.mrds.length = 1)) = true ∧
    fetchedFor (got lgBytes ringAt) 3 64 = some lgBytes ∧
    (∃ k, k < 1 ∧ lgBad (lgOf (bytesWords (lgBytes.drop (64 * k)) 8)) = true) ∧
    ans (exec (.shardLoadTable 3 (ent 0x10 0 0 16383 64 1) 4095) (got lgBytes ringAt)) (fun t => decide ((lgrp t 16383).valid = false)) = true ∧
    (∀ k, k < 1 → lgBad (lgOf (bytesWords ((List.replicate 64 0).drop (64 * k)) 8)) = false) ∧
    ans (exec (.shardLoadTable 3 (ent 0x10 0 0 7 64 1) 4095) (got (List.replicate 64 0) (grp ringAt))) (fun t =>
      decide ((lgrp t 7).valid = false ∧ lgrp t 6 = lgrp ringAt 6)) = true ∧
    5 ∈ usedSlots (grp (sesSt { st := .open, start := 7 })) ∧
    ans (exec (.shardLoadTable 3 (ent 0x10 0 0 7 64 1) 4095) (got (List.replicate 64 0) (grp (sesSt { st := .open, start := 7 })))) (fun t =>
      decide ((lgrp t 7).valid = true)) = true ∧
    16384 < 16383 + 2 ∧
    ans (exec (.shardLoadTable 3 (ent 0x10 0 0 16383 128 1) 4095) ringAt) (fun t => decide (t.host.mrds = [])) = true := by decide +kernel

theorem test_ShardValleyRegisterCommands_3 :
    ringTakes ringAt 3 (ent 0x20 0 (mkWord [(57, 2, 1), (32, 16, 7)]) 0x1000 (mkWord [(59, 5, 16)])) 0x20 = true ∧
    ans (exec (.vlyOpen 3 (ent 0x20 0 (mkWord [(57, 2, 1), (32, 16, 7)]) 0x1000 (mkWord [(59, 5, 16)]))) ringAt) (fun t =>
      decide ((vend t 0).st = .listen ∧ (vend t 0).pdev = 7)) = true ∧
    ringTakes (setVend ringAt 0 { st := .live }) 3 (ent 0x21 0x10000) 0x21 = true ∧
    ans (exec (.vlyClose 3 (ent 0x21 0x10000)) (setVend ringAt 0 { st := .live })) (fun t => decide ((vend t 0).st = .free)) = true ∧
    ringTakes ringAt 3 (ent 0x30 0 0xF000000000) 0x30 = true ∧ rbit ringAt .sesStat 0 62 = false ∧
    ans (exec (.regRead 3 (ent 0x30 0 0xF000000000)) ringAt) (fun t => decide (t.ses = ringAt.ses)) = true := by decide +kernel

/-- A live valley end 2 whose consumer is the session engine. -/
def migTo (x : Session) : State := setVend (sesSt x) 2 { st := .live, cons := 2, pcons := 2, pring := 4096, granted := 4096 }

theorem test_ShardValleyRegisterCommands_4 : ringTakes (migTo { st := .open }) 3 (ent 6 h5 0x10002) 6 = true ∧
    sesOfHandle (migTo { st := .open }) (entHandle (ent 6 h5)) = some 5 ∧
    endOfHandle (migTo { st := .open }) (BitVec.ofNat 32 (fld (0x10002 : Word) 0 32)) = some 2 ∧
    (vend (migTo { st := .open }) 2).kind = 0 ∧ (ses (migTo { st := .open }) 5).hot = none ∧
    ans (exec (.sesMigrate 3 (ent 6 h5 0x10002)) (migTo { st := .open })) (fun t =>
      decide ((ses t 5).st = .migrating ∧ (ses t 5).back = .open)) = true := by decide +kernel

/-- Rafter 3 in a state, ring 3 in use. -/
def rafIs (f : Rafter → Rafter) : State := modRaf ringAt 3 f

/-- The entry of THAW or RETIRE of a unit of rafter 3. -/
def unitEnt (op u ch : Nat) : Entry := ent op 0 (mkWord [(62, 2, u), (8, 8, 3), (0, 4, ch)])

theorem test_ThawRetire_1 : ringTakes ringAt 3 (unitEnt 0x40 0 0) 0x40 = true ∧ unitOf 0 (unitEnt 0x40 0 0) = true ∧
    unitBad 0 (unitEnt 0x40 0 0) = false ∧ entRaf (unitEnt 0x40 0 0) = 3 ∧
    ans (exec (.thawRafter 3 (unitEnt 0x40 0 0)) (rafIs fun r => { r with st := .frozen, scmds := [scmd 1] })) (fun t =>
      decide ((raf t 3).st = .idle ∧ (raf t 3).scmds = [])) = true ∧
    ans (exec (.thawRafter 3 (unitEnt 0x40 0 0)) (rafIs fun r => { r with st := .run })) (fun t => decide ((raf t 3).st = .run)) = true ∧
    unitOf 1 (unitEnt 0x40 1 5) = true ∧ unitBad 1 (unitEnt 0x40 1 5) = false ∧
    ans (exec (.thawChannel 3 (unitEnt 0x40 1 5)) (rafIs fun r => setChan r 5 { st := .frozen })) (fun t =>
      decide ((chan (raf t 3) 5).st = .idle)) = true := by decide +kernel

theorem test_ThawRetire_2 : ringTakes ringAt 3 (ent 0x40 0x10002 0x8000000000000000) 0x40 = true ∧
    unitOf 2 (ent 0x40 0x10002 0x8000000000000000) = true ∧ unitBad 2 (ent 0x40 0x10002 0x8000000000000000) = false ∧
    endOfHandle (setVend ringAt 2 { st := .frozen, cause := 8 }) 0x10002 = some 2 ∧
    ans (exec (.thawValley 3 (ent 0x40 0x10002 0x8000000000000000)) (setVend ringAt 2 { st := .frozen, cause := 8 })) (fun t =>
      decide ((vend t 2).st = .live ∧ (vend t 2).cause = 0)) = true ∧
    ringTakes ringAt 3 (ent 0x41 0x10002 0x8000000000000000) 0x41 = true ∧
    ans (exec (.retireValley 3 (ent 0x41 0x10002 0x8000000000000000)) (setVend ringAt 2 { st := .frozen })) (fun t =>
      decide ((vend t 2).st = .closed ∧ (vend t 2).cause = 1)) = true := by decide +kernel

theorem test_ThawRetire_3 : ringTakes ringAt 3 (unitEnt 0x41 0 0) 0x41 = true ∧ unitOf 0 (unitEnt 0x41 0 0) = true ∧
    (raf ringAt 3).st ≠ .retired ∧ retired ringAt 3 = false ∧
    ans (exec (.retireRafter 3 (unitEnt 0x41 0 0)) ringAt) (fun t => decide ((raf t 3).st = .retired)) = true ∧
    ringTakes ringAt 3 (unitEnt 0x41 1 5) 0x41 = true ∧
    ans (exec (.retireChannel 3 (unitEnt 0x41 1 5)) (rafIs fun r => setChan r 5 { st := .frozen })) (fun t =>
      decide ((raf t 3).st = .retired)) = true ∧
    ans (exec (.retireChannel 3 (unitEnt 0x41 1 5)) ringAt) (fun t => decide ((raf t 3).st = .idle)) = true := by decide +kernel

/-! ## The session engine and the gate unit -/

/-- Pass 1 in batch slot 0 of rafter 3, for group 7; an image of 4 KiB with entries 0 and 1 at bay address 0x3000. -/
def passSt (entry : Nat) : State :=
  let s := modRaf (grp live) 3 fun r => { r with
    slot0 := some 1, store := writeBytes [] 0xEC000 (wordBytes (mkWord [(50, 14, 7), (45, 5, 2), (0, 32, 1)])) }
  let s := { s with ses := { s.ses with
    lgt := [(7, { valid := true, first := true, entry := BitVec.ofNat 12 entry, rafters := 8 })],
    passes := [{ id := 1, group := 7, fill := 2, rows := [], targets := [(3, 0, 1)], rep := 3, repSlot := 0 }] } }
  { s with mem := writeBytes [] 0x3000 (wordsBytes [mkWord [(32, 32, 0x1000), (20, 12, 1), (0, 20, 0x200)]]) ++
      writeBytes [] 0x3040 (wordsBytes [0x00000100000000C0]) }

theorem test_BatchesAndBudget_1 : stopped (passSt 1) = false ∧ (raf (passSt 1) 3).st = .idle ∧ chfrz (raf (passSt 1) 3) = 0 ∧
    takeable (passSt 1) 3 0 (some 1) = true ∧ fld (storeWord (raf (passSt 1) 3) 0xEC000) 50 14 = 7 ∧
    imgBad (passSt 1) 3 0 = false ∧ (lgrp (passSt 1) 7).entry.toNat ≤ fld (imgWord (passSt 1) 3 0) 20 12 ∧
    imgBad (passSt 1) 3 ((0x40 + 4 * 1) / 8 * 8) = false ∧
    ans (exec (.passTake 3) (passSt 1)) (fun t => decide ((raf t 3).st = .run ∧ sreg (raf t 3) 2 = 2 ∧ sreg (raf t 3) 3 = 7 ∧
      (raf t 3).pc = 0x100 ∧ (raf t 3).trap = 0x200)) = true ∧
    imgBad (passSt 2) 3 ((0x40 + 4 * 2) / 8 * 8) = false ∧
    fld (imgWord (passSt 2) 3 0) 20 12 < (lgrp (passSt 2) 7).entry.toNat ∧
    ans (exec (.passTake 3) (passSt 2)) (fun t => decide ((raf t 3).st = .frozen ∧ (raf t 3).cause = 0x13)) = true := by decide +kernel

/-- Session 5 READY in group 7, at beacon time `now`; class 0 holds a pass for 640 ns. -/
def readySt (now : Nat) : State :=
  let s := setSes (grp ringAt) 5 { gen := 1, st := .ready, ring := 3, lgrp := 7, start := 7, budget := 3, readyT := 64 }
  rgSet (rgSet (rfSet (dueT s now) .batcClass 0 0 12 10) .sesKvmax 0 0 4) .sesKvcount 0 0 16

theorem test_BatchesAndBudget_2 : engineRuns (grp live) = true ∧ choices (grp live) = [] ∧
    gives (exec .batcherSelect (grp live)) (grp live) = true ∧
    (choices (readySt 64)).map (fun x => (x.group, x.fill)) = [(7, 1)] ∧
    (nowT (readySt 64)).toNat < dueOf (readySt 64) { group := 7, fill := 1, old := 64, cls := 0 } ∧
    ans (exec .holdDue (readySt 64)) (fun t => decide ((ses t 5).st = .running ∧ t.time.beacon = 704)) = true := by decide +kernel

theorem test_BatchesAndBudget_3 : engineRuns (readySt 704) = true ∧
    (selectDue (readySt 704)).2.map (fun x => (x.1.group, x.1.fill)) = some (7, 1) ∧
    ans (exec .batcherSelect (readySt 704)) (fun t => decide ((ses t 5).st = .running ∧ (raf t 3).slot0 = some 1)) = true ∧
    (selectDue (readySt 128)).2.isNone = true ∧ (selectCheap (selectDue (readySt 128)).1).2.isSome = true ∧
    ans (exec .batcherSelect (readySt 128)) (fun t => decide ((ses t 5).st = .running)) = true := by decide +kernel

/-- A publication of capacity 100 and refill 30 for every course waits. -/
def pubSt : State :=
  let s := { live with heat := { pub := some { lap := 1, acct := List.replicate 80 { cap := 100, refill := 30 } } } }
  { s with bat := { bal := [(4, 80)], debit := [(4, 9)] } }

theorem test_BatchesAndBudget_4 : pubSt.heat.pub.isSome = true ∧ engineRuns pubSt = true ∧
    ans (exec .energyPublication pubSt) (fun t => decide (tget 0 t.bat.bal 4 = 100 ∧ tget 0 t.bat.bal 5 = 30 ∧
      t.heat.report = some ((List.range 80).map fun q => (if q = 4 then 9 else 0, false)))) = true ∧
    ans (exec .budgetReport { pubSt with heat := { report := some [(1, true), (2, false)] } }) (fun t =>
      decide (t.heat.report = none ∧ tget 0 t.heat.debit 1 = 2 ∧ tget false t.heat.short 0 = true)) = true := by decide +kernel

theorem test_BatchesAndBudget_5 : engineRuns live = true ∧ live.bat.gapSaid = false ∧
    ans (exec .publicationGap live) (fun t => t.bat.gapSaid) = true ∧
    rbit (rgSet live .batPlctl 0 0 0x8000000000000000) .batPlctl 0 63 = true ∧
    (∀ k, k < 256 → bitOf (plPair live k) 63 = false) ∧
    ans (exec .placementRound { rgSet live .batPlctl 0 0 0x8000000000000000 with bat := { pubs := 5, dry := [(1, 2)] } }) (fun t =>
      decide (t.bat.pubs = 0 ∧ t.bat.dry = [])) = true := by decide +kernel

/-- Session 5 at the end of a step that generated token 77, with a budget of 1, DEST 0x2000. -/
def endStep : State := sesSt { st := .running, ended := true, gened := [77], took := 1, budget := 1, prompt := [6], pend := 1,
                               dest := 0x2000, start := 7, ring := 3, cseq := 4, pos := 10, stoptok := 0xFFFFFFFF }

theorem test_CommitAndRelease_1 : stopped endStep = false ∧ engineRuns endStep = true ∧ (ses endStep 5).st = .running ∧
    (ses endStep 5).gened.take (ses endStep 5).budget.toNat = [77] ∧
    ans (exec (.commitPoint 5) endStep) (fun t => decide ((ses t 5).st = .open ∧ (ses t 5).cseq = 5 ∧ (ses t 5).pos = 12 ∧
      (ses t 5).budget = 0 ∧ (ses t 5).prompt = [] ∧ HostTxn.mwr 0x2000 [77, 0, 0, 0] ∈ t.host.tx)) = true := by decide +kernel

theorem test_CommitAndRelease_2 : (ses (sesSt { st := .parked, wb := true, hot := some 4 }) 5).wb = true ∧
    ans (exec (.hotPageWritebackDone 5) (sesSt { st := .parked, wb := true, hot := some 4 })) (fun t =>
      decide ((ses t 5).hot = none ∧ (ses t 5).wb = false)) = true ∧
    ans (exec (.sessionPagesReleased 5) (sesSt { st := .closing, pages := [3] })) (fun t =>
      decide ((ses t 5).st = .free ∧ (ses t 5).gen = 2 ∧ (ses t 5).pages = [])) = true ∧
    ans (exec (.sessionPagesReleased 5) (setSes live 5 { st := .closing, gen := 4095 })) (fun t =>
      decide ((ses t 5).st = .free ∧ (ses t 5).gen = 1)) = true := by decide +kernel

/-- A migration end 2 with a packet of `n` bytes at the front of its ring at bay address 0x4000. -/
def migEnd (n : Nat) (s : State) : State :=
  setVend s 2 { st := .live, cons := 2, rxbase := 0x4000, rxlog2 := 16, pring := 4096, granted := 4096, nextRx := 1,
                ring := [{ pseq := 0, off := 0, size := n, units := 1 }] }

/-- A session that arrives over end 2. -/
def arriving : State := { migEnd 32 (setSes live 5 { gen := 1, st := .migrating, back := .free, aux := 0x10002, cseq := 3 }) with
  mem := writeBytes [] 0x4044 [3] }

theorem test_Migration_1 : stopped (migEnd 64 live) = false ∧ engineRuns (migEnd 64 live) = true ∧
    nextPacket (migEnd 64 live) 2 = some { pseq := 0, off := 0, size := 64, units := 1 } ∧ (vend (migEnd 64 live) 2).st = .live ∧
    (vend (migEnd 64 live) 2).cons = 2 ∧
    ans (exec (.migrationPacket 2) (migEnd 64 live)) (fun t => decide ((ses t 0).st = .migrating ∧ (ses t 0).back = .free)) = true := by
  decide +kernel

/-- The reply's size is a free value, so the step itself is not evaluated here. -/
theorem test_Migration_2 : nextPacket arriving 2 = some { pseq := 0, off := 0, size := 32, units := 1 } ∧
    arrivingOn (ringFree arriving 2 0) 2 = some 5 ∧
    (packetData arriving 2 { pseq := 0, off := 0, size := 32, units := 1 } (sesAcc arriving)).2.2 = none ∧
    (packetData arriving 2 { pseq := 0, off := 0, size := 32, units := 1 } (sesAcc arriving)).2.1.drop 4 = 3 :: List.replicate 27 0 ∧
    (ses (ringFree arriving 2 0) 5).cseq = 3 ∧ (ses (ringFree arriving 2 0) 5).migPages = 0 ∧
    (packetData { arriving with syn := [(0x4040 / 8, 0x0C)] } 2 { pseq := 0, off := 0, size := 32, units := 1 }
      (sesAcc arriving)).2.2.isSome = true := by decide +kernel

/-- A session that leaves over end 2, whose reply has come. -/
def leaving : State := migEnd 8 (setSes live 5 { gen := 1, st := .migrating, back := .parked, aux := 0x10002 })

theorem test_Migration_3 : replyFor leaving 5 = some (2, { pseq := 0, off := 0, size := 8, units := 1 }) ∧ (ses leaving 5).hot = none ∧
    ans (exec (.migrationAcceptance 5) leaving) (fun t => decide ((ses t 5).st = .closing ∧ (ses t 5).aux = 0)) = true ∧
    (ses leaving 5).move = false ∧
    ans (exec (.migrationRefusal 5) leaving) (fun t => decide ((ses t 5).st = .parked ∧ (ses t 5).aux = 0)) = true := by decide +kernel

/-- A gate report waits; no pass, or pass 4 of no rows. -/
def gateRep (ps : List Pass) : State := { live with gate := { reports := [4, 9] }, ses := { passes := ps } }

theorem test_GateUnit_1 : (gateRep []).ses.passes.find? (fun p => decide (p.id = 4)) = none ∧
    gives (exec .gateReport (gateRep [])) { gateRep [] with gate := { reports := [9] } } = true ∧
    (readArea (gateRep [{ id := 4, group := 7, fill := 0, rows := [], targets := [], rep := 3, repSlot := 0 }])
      { id := 4, group := 7, fill := 0, rows := [], targets := [], rep := 3, repSlot := 0 }).2.isSome = true ∧
    ans (exec .gateReport (gateRep [{ id := 4, group := 7, fill := 0, rows := [], targets := [], rep := 3, repSlot := 0 }])) (fun t =>
      decide (t.gate.reports = [9] ∧ t.ses.passes = [])) = true := by decide +kernel

/-- A GATE end 2 with a packet at the front of its ring, whose bytes at bay address 0x4040 are `ws`. -/
def gateEnd (ws : List Word) : State :=
  { setVend live 2 { st := .live, cons := 1, rxbase := 0x4000, rxlog2 := 16, pring := 4096, granted := 4096, nextRx := 1,
                     ring := [{ pseq := 0, off := 0, size := 64, units := 1 }] } with mem := writeBytes [] 0x4040 (wordsBytes ws) }

/-- Layer group 9 takes experts, and inbox slots of 8 spans at 0x8000, `n` of them. -/
def inboxes (n : Nat) (s : State) : State :=
  rgSet (rgSet { s with ses := { s.ses with lgt := [(9, { valid := true, next := 0x3FFF, rafters := 8 })] } }
    .gateIctl 0 0 (mkWord [(16, 14, n), (0, 12, 8)])) .gateIbase 0 0 0x8000

theorem test_GateUnit_2 : gatePacket (gateEnd [0x0000001200000000, 0, 0, 0]) 2 = some { pseq := 0, off := 0, size := 64, units := 1 } ∧
    isExpertGroup (gateEnd [0x0000001200000000, 0, 0, 0]) 0 = false ∧
    ans (exec (.gateDispatchReceived 2) (gateEnd [0x0000001200000000, 0, 0, 0])) (fun t => decide ((vend t 2).ring = [] ∧ t.gate.inbox = [])) = true := by
  decide +kernel

/-- A dispatch of tag 0x12 to group 9, XSPAN 1 and YSPAN 1. -/
def dispatchW : List Word := [0x0000001200000000, mkWord [(50, 14, 9)], 0, mkWord [(54, 10, 1), (44, 10, 1)]]

theorem test_GateUnit_3 : isExpertGroup (inboxes 2 (gateEnd dispatchW)) 9 = true ∧
    2 + 1 + 1 ≤ rf (inboxes 2 (gateEnd dispatchW)) .gateIctl 0 0 12 ∧ freeInbox (inboxes 2 (gateEnd dispatchW)) = some 0 ∧
    ans (exec (.gateDispatchReceived 2) (inboxes 2 (gateEnd dispatchW))) (fun t =>
      decide ((t.gate.inbox.map fun e => (e.1, e.2.tag)) = [(0, 0x12)])) = true ∧
    freeInbox (inboxes 0 (gateEnd dispatchW)) = none ∧
    gives (exec (.gateDispatchReceived 2) (inboxes 0 (gateEnd dispatchW))) (inboxes 0 (gateEnd dispatchW)) = true := by decide +kernel

/-- A slot of tag 0x12 dispatched to a remote expert. -/
def remoteSlot (aband : Bool) (s : State) : State :=
  { s with gate := { s.gate with slots := [{
      tag := 0x12, pass := 1, rblk := 0x10000, j := 0, expert := 3, table := 0, sess := 5, handle := 0x100005, cls := 0,
      st := .remote, remote := true, aband := aband }] } }

theorem test_GateUnit_4 : (remoteSlot false (gateEnd [0x0000001201000000])).gate.slots.length = 1 ∧
    ans (exec (.gateReturnReceived 2) (remoteSlot false (gateEnd [0x0000001201000000]))) (fun t =>
      decide (t.gate.slots.filter (fun g => !g.aband) = [])) = true ∧
    ans (exec (.gateReturnReceived 2) (remoteSlot false (gateEnd [0x0000001200000000]))) (fun t => decide (t.gate.slots = [])) = true ∧
    ans (exec (.gateReturnReceived 2) (gateEnd [0x0000001200000000])) (fun t => decide (rf t .gateStat 0 16 16 = 1)) = true ∧
    ans (exec (.gateReturnTimeout 0x12) (remoteSlot false live)) (fun t => decide (rf t .gateStat 0 0 16 = 1)) = true := by decide +kernel


/-! ## Further clauses of the same statements -/

/-- Eaves link `k` lost, its flows being taken over. -/
def takenOver (k : Nat) (s : State) : State := { s with eaves := [(k, { lost := true, takeover := true })] }

theorem test_RingRefusals_3 : flowWaits (takenOver 3 (sesSt {})) (.ring 3) = true ∧
    gives (exec (.sesRun 3 (ent 3 h5 0 0 1)) (takenOver 3 (sesSt {}))) (takenOver 3 (sesSt {})) = true ∧
    gives (exec (.illegalOp 3 (ent 0x77)) (takenOver 3 (sesSt {}))) (takenOver 3 (sesSt {})) = true ∧
    flowWaits (sesSt {}) (.ring 3) = false ∧
    reservedSet 0x30 (ent 0x30) = false ∧ early (boot 3 0) 0x30 (ent 0x30) = some 1 ∧ early (boot 4 0) 0x30 (ent 0x30) = none ∧
    ringTakes ringAt 3 (ent 2 0x200005 0x1000 2) 2 = true ∧
    sesOfHandle ringAt (entHandle (ent 2 0x200005 0x1000 2)) = none ∧
    ans (exec (.sesAppend 3 (ent 2 0x200005 0x1000 2) 4095) ringAt) (fun t => decide (t.ses = ringAt.ses)) = true := by decide +kernel

theorem test_SessionCommands_6 : (lgrp (grp ringAt) 8).valid = false ∧
    ringTakes (grp ringAt) 3 (ent 1 0 (mkWord [(61, 3, 2), (43, 14, 8)]) 0xFFFFFFFF) 1 = true ∧
    ans (exec (.sesOpen 3 (ent 1 0 (mkWord [(61, 3, 2), (43, 14, 8)]) 0xFFFFFFFF)) (grp ringAt)) (fun t =>
      decide (t.ses = (grp ringAt).ses)) = true ∧
    (let s := grp ringAt; { s with ses := { s.ses with hbmLost := true } }).ses.hbmLost = true ∧
    appendBad (ent 2 h5 0x1001 2) = true ∧
    ans (exec (.sesAppend 3 (ent 2 h5 0x1001 2) 4095) (sesSt { st := .open })) (fun t => decide ((ses t 5).pend = 0)) = true ∧
    ans (exec (.sesAppend 3 (ent 2 h5 0x1000 2) 4095) (sesSt { st := .running })) (fun t => decide ((ses t 5).pend = 0)) = true ∧
    ans (exec (.sesRun 3 (ent 3 h5 0x2002 6)) (sesSt { st := .parked })) (fun t => decide ((ses t 5).st = .parked)) = true ∧
    ans (exec (.sesRun 3 (ent 3 h5 0x2000 6)) (sesSt { st := .running })) (fun t => decide ((ses t 5).budget = 0)) = true := by
  decide +kernel

/-- A session with a hot page whose write-back is in flight, and one whose hot page is uncorrectable. -/
def hotSt (wb : Bool) : State := setSyn (sesSt { st := .open, hot := some 4, wb := wb, pages := [2] }) 0x40000 poisonSyn

theorem test_SessionCommands_7 : (ses (hotSt true) 5).hot ≠ none ∧ (startWriteback (hotSt true) 5).2 = false ∧
    (ses (startWriteback (hotSt true) 5).1 5).wb = true ∧ ringTakes (hotSt true) 3 (ent 4 h5) 4 = true ∧
    ans (exec (.sesPark 3 (ent 4 h5)) (hotSt true)) (fun t => decide ((ses t 5).parking = true ∧ (ses t 5).st = .open)) = true ∧
    ans (exec (.sesPark 3 (ent 4 h5)) (sesSt { st := .open, parking := true })) (fun t => decide ((ses t 5).parking = true)) = true ∧
    ans (exec (.sesClose 3 (ent 5 h5)) (sesSt { st := .waiting, wait := .release })) (fun t =>
      decide ((ses t 5).st = .closing)) = true ∧
    (ses (sesSt { st := .waiting, wait := .release, closeReq := true }) 5).closeReq = true ∧
    ans (exec (.sesClose 3 (ent 5 h5)) (sesSt { st := .waiting, wait := .release, closeReq := true })) (fun t =>
      decide ((ses t 5).st = .waiting)) = true := by decide +kernel

/-- A copy that has met an uncorrectable word stays one that has. -/
theorem copy_bad (src dst : Nat) (acc : Acc) (l : List Nat) (x : State × Bool) (h : x.2 = true) :
    (l.foldl (fun x k =>
      let (s, bs, bad) := lineRead x.1 (src + 256 * k) 256 acc
      (devWrite s (dst + 256 * k) bs acc, x.2 || bad.isSome)) x).2 = true := by
  induction l generalizing x with
  | nil => exact h
  | cons k l ih => exact ih _ (by simp [h])

theorem copyPage_bad (s : State) (src dst : Nat) (acc : Acc) (h : (lineRead s (src + 256 * 0) 256 acc).2.2.isSome = true) :
    (copyPage s src dst acc).2 = true := by
  unfold copyPage
  rw [show List.range 256 = 0 :: List.range' 1 255 from List.range_eq_range', List.foldl_cons]
  exact copy_bad src dst acc _ _ (by simpa using h)

theorem startWriteback_bad (s : State) (i : Nat) (p : BitVec 17) (h1 : (ses s i).hot = some p) (h2 : (ses s i).wb = false)
    (h3 : (lineRead s (p.toNat * 65536 + 256 * 0) 256 (sesAcc s)).2.2.isSome = true) : (startWriteback s i).2 = true := by
  have h := copyPage_bad s _ (pageAddr s (nth (ses s i).pages (ses s i).hotIx 0)) (sesAcc s) h3
  simp only [startWriteback, h1, h2, Bool.false_eq_true, if_false]
  revert h
  generalize copyPage s _ _ _ = y
  exact id

/-- The write-back of an uncorrectable hot page fails. -/
theorem test_ShardValleyRegisterCommands_6 : (startWriteback (hotSt false) 5).2 = true :=
  startWriteback_bad (hotSt false) 5 4 (by decide +kernel) (by decide +kernel) (by decide +kernel)

theorem test_ShardValleyRegisterCommands_5 : endOfHandle (sesSt { st := .open }) 0x10002 = none ∧
    ans (exec (.sesMigrate 3 (ent 6 h5 0x10002)) (sesSt { st := .open })) (fun t => decide ((ses t 5).st = .open)) = true ∧
    (vend (setVend (sesSt { st := .open }) 2 { st := .live }) 2).cons ≠ 2 ∧
    ans (exec (.sesMigrate 3 (ent 6 h5 0x10002)) (setVend (sesSt { st := .open }) 2 { st := .live })) (fun t =>
      decide ((ses t 5).st = .open)) = true ∧
    (vend (setVend (sesSt { st := .open }) 2 { st := .frozen, cons := 2 }) 2).st ≠ .live ∧
    ans (exec (.sesMigrate 3 (ent 6 h5 0x10002)) (setVend (sesSt { st := .open }) 2 { st := .frozen, cons := 2 })) (fun t =>
      decide ((ses t 5).st = .open)) = true := by decide +kernel

theorem test_ThawRetire_4 : unitBad 0 (ent 0x40 5 (mkWord [(8, 8, 3)])) = true ∧ unitOf 0 (ent 0x40 5 (mkWord [(8, 8, 3)])) = true ∧
    ringTakes ringAt 3 (ent 0x40 5 (mkWord [(8, 8, 3)])) 0x40 = true ∧
    ans (exec (.thawRafter 3 (ent 0x40 5 (mkWord [(8, 8, 3)]))) (rafIs fun r => { r with st := .frozen })) (fun t =>
      decide ((raf t 3).st = .frozen)) = true ∧
    ringTakes ringAt 3 (ent 0x40 0 0xC000000000000000) 0x40 = true ∧ fld (0xC000000000000000 : Word) 62 2 = 3 ∧
    ans (exec (.thawValley 3 (ent 0x40 0 0xC000000000000000)) ringAt) (fun t => decide (t.vly = ringAt.vly)) = true ∧
    endOfHandle ringAt 0x20002 = none ∧ ringTakes ringAt 3 (ent 0x41 0x20002 0x8000000000000000) 0x41 = true ∧
    ans (exec (.retireValley 3 (ent 0x41 0x20002 0x8000000000000000)) ringAt) (fun t => decide (t.vly = ringAt.vly)) = true ∧
    unitBad 2 (ent 0x40 0x10002 0x8000000000000300) = true ∧
    ans (exec (.thawValley 3 (ent 0x40 0x10002 0x8000000000000300)) (setVend ringAt 2 { st := .frozen })) (fun t =>
      decide ((vend t 2).st = .frozen)) = true ∧
    ans (exec (.retireRafter 3 (unitEnt 0x41 0 0)) (rafIs fun r => { r with st := .retired })) (fun t =>
      decide ((raf t 3).st = .retired)) = true := by decide +kernel

/-- The same pass in batch slot 1. -/
def passSt1 : State :=
  let s := modRaf (passSt 1) 3 fun r => { r with
    slot0 := none, slot1 := some 1, store := writeBytes [] 0xED000 (wordBytes (mkWord [(50, 14, 7), (45, 5, 2), (0, 32, 1)])) }
  { s with ses := { s.ses with
    passes := [{ id := 1, group := 7, fill := 2, rows := [], targets := [(3, 1, 1)], rep := 3, repSlot := 1 }] } }

theorem test_BatchesAndBudget_6 : flowWaits (takenOver 0 pubSt) .housekeeping = true ∧
    gives (exec .energyPublication (takenOver 0 pubSt)) (takenOver 0 pubSt) = true ∧
    gives (exec .budgetReport (takenOver 0 { pubSt with heat := { report := some [] } }))
      (takenOver 0 { pubSt with heat := { report := some [] } }) = true ∧
    badAt (setSyn (passSt 1) 0x3000 poisonSyn) 0x3000 = true ∧
    ans (exec (.passTake 3) (setSyn (passSt 1) 0x3000 poisonSyn)) (fun t => decide ((raf t 3).st = .frozen ∧ (raf t 3).cause = 3)) = true ∧
    takeable passSt1 3 1 (some 1) = true ∧ takeable passSt1 3 0 (raf passSt1 3).slot0 = false ∧
    ans (exec (.passTake 3) passSt1) (fun t => decide ((raf t 3).st = .run ∧ sreg (raf t 3) 1 = 0xED000)) = true := by decide +kernel

theorem test_CommitAndRelease_3 : (ses (setSes endStep 5 { ses endStep 5 with closeReq := true }) 5).closeReq = true ∧
    ans (exec (.commitPoint 5) (setSes endStep 5 { ses endStep 5 with closeReq := true })) (fun t => decide ((ses t 5).st = .closing)) = true ∧
    ans (exec (.commitPoint 5) (setSes endStep 5 { ses endStep 5 with parkReq := true })) (fun t => decide ((ses t 5).st = .parked)) = true ∧
    (ses (setSes endStep 5 { ses endStep 5 with budget := 3, stoptok := 77 }) 5).budget ≠ 0 ∧
    ans (exec (.commitPoint 5) (setSes endStep 5 { ses endStep 5 with budget := 3, stoptok := 77 })) (fun t =>
      decide ((ses t 5).st = .open ∧ (ses t 5).budget = 2)) = true ∧
    ans (exec (.commitPoint 5) (setSes endStep 5 { ses endStep 5 with budget := 3 })) (fun t => decide ((ses t 5).st = .ready)) = true ∧
    ans (exec (.commitPoint 5) (setSes endStep 5 { ses endStep 5 with move := true })) (fun t =>
      decide ((ses t 5).st = .free ∧ (ses t 0).st = .open ∧ (ses t 0).move = false)) = true ∧
    ans (exec (.hotPageWritebackDone 5) (sesSt { st := .open, wb := true, hot := some 4, parking := true })) (fun t =>
      decide ((ses t 5).st = .parked ∧ (ses t 5).hot = none)) = true := by decide +kernel

/-- A chunk of 4 bytes for page 0 at offset 0 comes to a session that has the page. -/
def chunkIn : State := { migEnd 68 (setSes live 5 { gen := 1, st := .migrating, back := .free, aux := 0x10002, pages := [3] }) with
  mem := writeBytes [] 0x4080 [1, 2, 3, 4] }

theorem test_Migration_4 : arrivingOn (ringFree chunkIn 2 0) 2 = some 5 ∧
    ans (exec (.migrationPacket 2) chunkIn) (fun t => decide ((ses t 5).migPages = 4)) = true ∧
    arrivingOn (migEnd 100 live) 2 = none ∧
    ans (exec (.migrationPacket 2) (migEnd 100 live)) (fun t => decide ((vend t 2).ring = [] ∧ t.ses = (migEnd 100 live).ses)) = true ∧
    arrivingOn (migEnd 32 live) 2 = none ∧
    ans (exec (.finalCommitRecord 2) (migEnd 32 live)) (fun t => decide ((vend t 2).ring = [])) = true ∧
    kvFree live < 2 ^ 32 ∧ freeSlot live = some 0 ∧ (0 : Nat) ≤ kvFree live ∧ 0 ≤ rf live .sesKvmax 0 0 13 := by decide +kernel

/-- A pass whose report area is uncorrectable fails: it is rejected. -/
theorem test_GateUnit_5 : (readArea (setSyn (gateRep [{ id := 4, group := 7, fill := 0, rows := [], targets := [], rep := 3, repSlot := 0 }])
      (areaAddr live 3 0 0x8000) poisonSyn) { id := 4, group := 7, fill := 0, rows := [], targets := [], rep := 3, repSlot := 0 }).2.isNone = true ∧
    ans (exec .gateReport (setSyn (gateRep [{ id := 4, group := 7, fill := 0, rows := [], targets := [], rep := 3, repSlot := 0 }])
      (areaAddr live 3 0 0x8000) poisonSyn)) (fun t => decide (t.gate.reports = [9] ∧ t.ses.passes = [])) = true := by decide +kernel

/-- A return that says the expert is not there, and one of success. -/
theorem test_GateUnit_6 : fld (bytesWord ((wordBytes 0x0000001202000000).take 8)) 24 8 = 2 ∧
    ans (exec (.gateReturnReceived 2) (remoteSlot false (gateEnd [0x0000001202000000]))) (fun t =>
      decide ((vend t 2).ring = [])) = true := by decide +kernel

/-! ## Bays, mesh, spar channels and eaves links -/

/-- Two requests of bay 3's sub-array 0: a read of its first line and a write of a word. -/
def reqR : BayReq := { addr := 0x3000, op := .readLine, org := .seq 3 }
def reqW : BayReq := { addr := 0x3008, op := .writeWords [77], org := .chan 3 2, par := [xorBits 77] }

theorem test_BayOperations_1 : retired live 3 = false ∧ reqFits live 3 0 reqR = true ∧ reqFits live 3 0 reqW = true ∧
    reqOk (some reqR) = true ∧ reqOk (some reqW) = true ∧ bayState live 3 ≠ 1 ∧ fixesOf live 3 0 = [] ∧ turnOf live 3 0 = false ∧
    askedOf live 3 0 false = none ∧ askedOf live 3 0 true = none ∧
    ans (exec (.subarrayAccess 3 0 (some reqR) (some reqW)) live) (fun t => turnOf t 3 0 &&
      decide (readByte t.mem 0x3008 = 0 ∧ askedOf t 3 0 true = some reqW ∧ askedOf t 3 0 false = none)) = true ∧
    ans (exec (.subarrayAccess 3 0 (some reqR) (some reqW)) (setTurn live 3 0 true)) (fun t =>
      decide (readByte t.mem 0x3008 = 77 ∧ askedOf t 3 0 false = some reqR)) = true ∧
    ans (exec (.subarrayAccess 3 0 none none) (setAsked live 3 0 true (some reqW))) (fun t =>
      decide (readByte t.mem 0x3008 = 77 ∧ askedOf t 3 0 true = none)) = true ∧
    gives (exec (.subarrayAccess 3 0 (some reqR) (some reqW)) (rfSet live .baybStat 3 62 2 1)) (rfSet live .baybStat 3 62 2 1) = true := by
  decide +kernel

/-- A write whose word fails its parity on the way. -/
def reqBad : BayReq := { reqW with par := [!xorBits 77] }

theorem test_BayOperations_7 : parityBad (opWords reqW.op) reqW.par = none ∧ parityBad (opWords reqBad.op) reqBad.par = some 0 ∧
    ans (exec (.subarrayAccess 3 0 (some reqBad) none) live) (fun t =>
      decide (askedOf t 3 0 false = none ∧ rf t .sprnStat 3 0 32 = 1 ∧ readByte t.mem 0x3008 = 0)) = true ∧
    ans (exec (.subarrayAccess 3 0 none (some reqBad)) live) (fun t =>
      decide (askedOf t 3 0 true = none ∧ rf t .sprnStat 3 0 32 = 0)) = true := by decide +kernel

/-- A correctable word (bit 0 flipped) at 0x3008 whose write-back is due. -/
def fixSt : State := setBay { live with syn := [(0x3008 / 8, 7)] } 3 { fix := [0x3008 / 8] }

theorem test_BayOperations_2 : fixesOf fixSt 3 0 = [0x3008 / 8] ∧ bayState fixSt 3 ≠ 1 ∧
    eccOf (synAt fixSt 0x3008) ≠ .bad ∧ eccOf (synAt fixSt 0x3008) ≠ .ok ∧
    ans (exec (.correctionWriteback 3 0) fixSt) (fun t => decide (synAt t 0x3008 = 0 ∧ (bay t 3).fix = [])) = true ∧
    ans (exec (.subarrayAccess 3 0 (some reqR) (some reqW)) fixSt) (fun t => decide (synAt t 0x3008 = 0 ∧
      readByte t.mem 0x3008 = 1 ∧ askedOf t 3 0 false = some reqR)) = true := by decide +kernel

/-- The fill that a read of HBM's first line waits for, into way 0 of its home bay. -/
def fill0 : Fill := { line := 0x1000000000, way := 0, req := { addr := 0x1000000000, op := .readLine, org := .seq 3 }, at_ := 64 }

/-- Bay 0 waits for that fill; its state is `st`. -/
def fillSt (st : Nat) : State := rfSet (setBay (rgSet live .bayWaycfg 0 0 1) 0 { fills := [fill0] }) .baybStat 0 62 2 st

theorem test_BayOperations_3 : (List.replicate 256 (5 : Byte)).length = 256 ∧ (bay (fillSt 0) 0).stale = 0 ∧
    (bay (fillSt 0) 0).fills = fill0 :: [] ∧ bayState (fillSt 0) 0 ≠ 2 ∧
    idxs 32 (fun i => (0 : BitVec 32).getLsbD i || badAt (fillSt 0) (0x1000000000 + 8 * i)) = [] ∧
    cacheHit (takeFlags (setBay (fillSt 0) 0 { bay (fillSt 0) 0 with fills := [] }) 0x1000000000) 0x1000000000 = none ∧
    (cline (fillSt 0) 0 (setOf 0x1000000000) 0).valid = false ∧
    ans (exec (.cacheFillReturn 0 (List.replicate 256 5) 0) (fillSt 0)) (fun t =>
      decide ((cline t 0 0 0).valid = true ∧ readByte t.mem 0 = 5 ∧ (bay t 0).fills = [])) = true ∧
    (bay (setBay (fillSt 0) 0 { stale := 2 }) 0).stale ≠ 0 ∧
    ans (exec (.cacheFillReturn 0 (List.replicate 256 5) 0) (setBay (fillSt 0) 0 { stale := 2 })) (fun t =>
      decide ((bay t 0).stale = 1 ∧ (cline t 0 0 0).valid = false)) = true ∧ bayState (fillSt 2) 0 = 2 ∧
    ans (exec (.cacheFillReturn 0 (List.replicate 256 5) 0) (fillSt 2)) (fun t =>
      decide ((cline t 0 0 0).valid = false ∧ (bay t 0).fills = [])) = true ∧
    idxs 32 (fun i => (4 : BitVec 32).getLsbD i || badAt (fillSt 2) (0x1000000000 + 8 * i)) = [2] := by decide +kernel

/-- The same for a write that waits, in a draining bay: the bytes go to HBM. -/
theorem test_BayOperations_8 : opBytes (.writeWords [77]) ≠ [] ∧
    ans (exec (.cacheFillReturn 0 (List.replicate 256 5) 0) (setBay (fillSt 2) 0 { fills := [{ fill0 with
      req := { addr := 0x1000000000, op := .writeWords [77], org := .seq 3, par := [xorBits 77] } }] })) (fun t =>
      decide (readByte t.mem 0x1000000000 = 77 ∧ (cline t 0 0 0).valid = false)) = true ∧
    (cacheHit (setCline (fillSt 0) 0 0 0 { tag := tagOf 0x1000000000, valid := true }) 0x1000000000) = some 0 := by decide +kernel

theorem test_BayOperations_4 : retired (setBay live 3 { scrub := 98302 }) 3 = false ∧ bayState live 3 ≠ 1 ∧
    (bay (setBay live 3 { scrub := 98302 }) 3).scrub % 2 = 0 ∧ (bay (setBay live 3 { scrub := 98302 }) 3).scrub < 98303 ∧
    askedOf (setBay live 3 { scrub := 98302 }) 3 0 false = none ∧ fixesOf (setBay live 3 { scrub := 98302 }) 3 0 = [] ∧
    ans (exec (.scrubLine 3 0) (setBay live 3 { scrub := 98302 })) (fun t => decide ((bay t 3).scrub = 98303)) = true ∧
    ans (exec (.scrubLine 3 1) (setBay live 3 { scrub := 98303 })) (fun t => decide ((bay t 3).scrub = 0)) = true ∧
    (bay live 3).saidLate = false ∧
    ans (exec (.lateScrub 3) live) (fun t => (bay t 3).saidLate && rbit t .baybScrub 3 15) = true ∧
    ans (exec .bucketLeak (rfSet live .eccbStat 3 8 8 7)) (fun t => decide (rf t .eccbStat 3 8 8 = 6 ∧ rf t .eccbStat 4 8 8 = 0)) = true := by
  decide +kernel

theorem test_BayOperations_5 : (watchdogDue (fillSt 0) 0).isSome = true ∧ soonAgain (fillSt 0) 0 ((watchdogDue (fillSt 0) 0).getD 0) = false ∧
    retired (fillSt 0) 0 = false ∧ (bay live 3).fills = [] ∧
    ans (exec (.bayWatchdog 0) (fillSt 0)) (fun t => decide (bayState t 0 = 1 ∧ (bay t 0).fills = [] ∧ (bay t 0).redo = [fill0.req] ∧
      (bay t 0).stale = 1)) = true ∧
    ans (exec (.bayInternalError 3) live) (fun t => decide (bayState t 3 = 1)) = true ∧
    bayState (rfSet live .baybStat 3 62 2 1) 3 = 1 ∧
    ans (exec (.baySelfCheckDone 3 true) (rfSet live .baybStat 3 62 2 1)) (fun t => decide (bayState t 3 = 0)) = true ∧
    (bay (setBay live 3 { redo := [reqW] }) 3).redo = [reqW] ∧ ((raf live 3).beats.all fun e => e.done) = true ∧
    ans (exec (.baySelfCheckDone 3 true) (rfSet (setBay live 3 { redo := [reqW] }) .baybStat 3 62 2 1)) (fun t =>
      decide (readByte t.mem 0x3008 = 77 ∧ (bay t 3).redo = [])) = true ∧
    (bay (setBay live 3 { resetAt := some 64 }) 3).resetAt = some 64 := by decide +kernel

/-- A self-check that fails. -/
theorem test_BayOperations_10 : exec (.baySelfCheckDone 3 false) (rfSet live .baybStat 3 62 2 1) =
    .next (failBay (setBay (rfSet live .baybStat 3 62 2 1) 3 { bay (rfSet live .baybStat 3 62 2 1) 3 with resetAt := none }) 3) := by
  rfl

/-- A bay that reopened just now and whose watchdog fires again. -/
def againSt : State := setBay (fillSt 0) 0 { fills := [fill0], reopened := some 64 }

theorem test_BayOperations_9 : (watchdogDue againSt 0).isSome = true ∧ soonAgain againSt 0 ((watchdogDue againSt 0).getD 0) = true ∧
    (bay againSt 0).resetAt = none := by decide +kernel

theorem test_BayOperations_6 : bayState (rfSet live .baybStat 3 62 2 2) 3 = 2 ∧ dirtyCount (rfSet live .baybStat 3 62 2 2) 3 = 0 ∧
    bayUsers (rfSet live .baybStat 3 62 2 2) 3 = [] ∧ hotUsers (rfSet live .baybStat 3 62 2 2) 3 = [] ∧
    (rfSet live .baybStat 3 62 2 2).gate.inbox = [] ∧
    ans (exec (.bayDrainComplete 3) (rfSet live .baybStat 3 62 2 2)) (fun t => decide (t.free = 1)) = true ∧
    ans (exec (.retirementComplete 3) (rfSet live .baybStat 3 62 2 2)) (fun t => retired t 3 && decide (bayState t 3 = 3)) = true := by
  decide +kernel

/-- A flit bound for bay 3, whose stop is 3 where no spare serves it. -/
def flit : PFlit := { dst := .bay 3, req := reqW }

theorem test_MeshSparEaves_1 : reqOk (some flit.req) = true ∧ stopAt (destStop live flit.dst) = 3 ∧ nextStop live 0 flit.dst = some 1 ∧
    nextStop live (17 * 4) flit.dst = some (17 * 4 + 1) ∧ nextStop live 3 flit.dst = none ∧
    ans (exec (.purlinFlitArrival 0 flit) live) (fun t => decide (t.mesh.moving = [(0, 1, flit)])) = true ∧
    ans (exec (.purlinFlitArrival 3 flit) live) (fun t => decide (t.mesh.arrived = [(3, flit)])) = true ∧
    ans (exec (.purlinFlitArrival 3 { flit with req := reqBad }) live) (fun t => decide (t.mesh.arrived = [] ∧ t.mesh.row ≠ [])) = true := by
  decide +kernel

theorem test_MeshSparEaves_2 : sparStage live 3 ≠ 3 ∧ (sparOf live 3).testing = none ∧ laneOff live 3 37 = false ∧
    ans (exec (.parityRefusal (.sparWrite 3 5)) (setSpar live 3 { row := [(37, 2)] })) (fun t =>
      decide ((sparOf t 3).testing = some 37 ∧ rf t .sprnStat 3 0 32 = 1)) = true ∧
    ans (exec (.parityRefusal (.sparRead 3 5)) live) (fun t => decide ((sparOf t 3).testing = none ∧ tget 0 (sparOf t 3).row 5 = 1)) = true ∧
    hopRow live (hopInto live 4 none) < 15 ∧
    ans (exec (.parityRefusal (.purlin 4)) live) (fun t => decide (hopRow t (hopInto live 4 none) = 1)) = true ∧
    15 ≤ hopRow (setHopRow live (hopInto live 4 none) 15) (hopInto (setHopRow live (hopInto live 4 none) 15) 4 none) ∧
    ans (exec (.parityRefusal (.purlin 4)) (setHopRow live (hopInto live 4 none) 15)) (fun t =>
      decide (t.stop.failStop = some 1) && halted t) = true ∧
    ans (exec (.parityRefusal (.hbmInput 2)) live) (fun t => decide (hopRow t (inputHop 2) = 1)) = true ∧
    ans (exec (.parityRefusal (.urgenTx 2)) live) (fun t => decide ((port t 2).txFails = 1)) = true ∧
    ans (exec (.parityRefusal (.urgenTx 2)) (setPort live 2 { port live 2 with txFails := 15 })) (fun t =>
      decide (t.stop.failStop = some 6)) = true ∧
    ans (exec (.controlHandshakeError 3) live) (fun t => decide ((sparOf t 3).testing = some 48)) = true ∧
    (sparOf (setSpar live 3 { testing := some 5 }) 3).testing = some 5 ∧ bayState live 3 ≠ 1 ∧
    ans (exec (.laneTestEnd 3 []) (setSpar live 3 { testing := some 5 })) (fun t => decide ((sparOf t 3).testing = none)) = true := by
  decide +kernel

/-- Failing bonds of lane 5 of channel 3: spares while the group has them, then the half is lost, then the channel. -/
theorem test_MeshSparEaves_5 : laneGroup 5 = laneGroup 6 ∧ (64 : Nat) < laneBonds 5 ∧ [64].Nodup ∧
    ans (exec (.laneTestEnd 3 [64]) (setSpar live 3 { testing := some 5 })) (fun t =>
      decide ((sparOf t 3).spares = [(5, 64, 0)] ∧ sparStage t 3 = 0)) = true ∧
    (let (lo, w, most, half) := laneGroup 5
     let s := rfSet live .sprnStat 3 lo w most
     decide (half ≠ 2 ∧ most ≤ rf s .sprnStat 3 lo w ∧ sparStage s 3 = 0) &&
       decide (sparStage (failBond s 3 5 64) 3 = if half = 0 then 2 else 1)) = true ∧
    (let (lo, w, most, half) := laneGroup 48
     let s := rfSet live .sprnStat 3 lo w most
     decide (half = 2 ∧ most ≤ rf s .sprnStat 3 lo w) && retired (failBond s 3 48 3) 3 || decide (bayState (failBond s 3 48 3) 3 = 2)) = true := by
  decide +kernel

/-- A write beat of a yealm, performed or still to be performed. -/
def beatSt (done : Bool) : State := modRaf live 3 fun r => { r with beats := [{ runs := [(0x3000, [9])], done := done, yslot := some 1 }] }

theorem test_MeshSparEaves_3 : (raf (beatSt false) 3).beats[0]? = some { runs := [(0x3000, [9])], done := false, yslot := some 1 } ∧
    beatHeld (beatSt false) 3 { runs := [(0x3000, [9])], done := false, yslot := some 1 } = false ∧
    ans (exec (.sparResponse 3 0 true) (beatSt false)) (fun t => decide ((raf t 3).beats = [] ∧ readByte t.mem 0x3000 = 9)) = true ∧
    ans (exec (.sparResponse 3 0 false) (beatSt true)) (fun t => decide ((raf t 3).beats = [] ∧ readByte t.mem 0x3000 = 0)) = true := by
  decide +kernel

/-- Eaves links up as a list says. -/
def eavesUp (l : List Nat) : State := { live with eaves := l.map fun e => (e, { up := true }) }

/-- Link 1 is lost with one word held, and link 2 is up. -/
def tookSt : State :=
  { rfSet live .sesStat 0 62 1 1 with eaves := [(1, { takeover := true, held0 := [⟨5, false, true, 0⟩] }), (2, { up := true })] }

theorem test_MeshSparEaves_4 : (eavesOf (eavesUp [1, 2]) 1).up = true ∧ (eavesOf (eavesUp [1, 2]) 2).up = true ∧
    stopped (eavesUp [1]) = false ∧
    ans (exec (.eavesLockLoss 1) (eavesUp [1, 2])) (fun t => rbit t .sesStat 0 62 && decide ((eavesOf t 1).lost = true)) = true ∧
    ans (exec (.eavesLockLoss 1) (eavesUp [1])) (fun t => decide (t.stop.failStop = some 7)) = true ∧
    hopRow (eavesUp [1, 2]) (eavesHop 1) < 15 ∧
    ans (exec (.parityRefusal (.eaves 1)) (eavesUp [1, 2])) (fun t => decide (hopRow t (eavesHop 1) = 1)) = true ∧
    15 ≤ hopRow (setHopRow (eavesUp [1, 2]) (eavesHop 1) 15) (eavesHop 1) ∧
    ans (exec (.parityRefusal (.eaves 1)) (setHopRow (eavesUp [1, 2]) (eavesHop 1) 15)) (fun t => decide ((eavesOf t 1).lost = true)) = true ∧
    flowLink (eavesUp [1, 2]) (.ring 4) = some 1 ∧ flowLink (eavesUp [1, 2]) (.valley 2) = some 2 ∧
    (eavesOf tookSt 1).takeover = true ∧ eavesFrom tookSt 1 = [2] ∧ boundSlots tookSt = [] ∧
    (queue tookSt 32).words.length + (eavesOf tookSt 1).held0.length ≤ qDepth tookSt 32 ∧
    (queue tookSt 40).words.length + (eavesOf tookSt 1).held1.length ≤ qDepth tookSt 40 ∧
    ans (exec (.eavesTakeoverComplete 1) tookSt) (fun t =>
      !rbit t .sesStat 0 62 && !(eavesOf t 1).takeover && decide ((queue t 32).words = [⟨5, false, true, 0⟩])) = true ∧
    ans (exec (.eavesLockLoss 1) (setQueue (eavesUp [1, 2]) 31 { words := [⟨6, false, false, 0⟩] })) (fun t =>
      decide ((eavesOf t 1).held0 = [⟨6, false, false, 0⟩] ∧ (queue t 31).words = [])) = true := by decide +kernel

/-! ## Time, boundary queues, HBM -/

theorem test_TimeAndMonitors_1 : live.boot.ridgeOn = true ∧ live.time.beacon.toNat ≤ live.time.dcnt.toNat ∧
    live.time.dcnt.toNat + 128 < 2 ^ 64 ∧
    ans (exec .timeBeacon { live with time := { dcnt := 130, beacon := 128 } }) (fun t =>
      decide (t.time.beacon = 192 ∧ t.time.dcnt = 256)) = true ∧
    ans (exec (.beaconTimeout 3) { live with time := { timeouts := [{ reader := 3, due := 100 }] } }) (fun t =>
      decide (t.time.beacon = 128 ∧ t.time.timeouts = [{ reader := 3, due := 100, fired := true }])) = true := by decide +kernel

theorem test_TimeAndMonitors_2 : rbit (rfSet live .sysRefstat 0 0 1 1) .sysRefstat 0 0 = true ∧
    ans (exec .referenceLoss (rfSet { live with time := { dcnt := 50 } } .sysRefstat 0 0 1 1)) (fun t =>
      decide (t.time.lostAt = some 50 ∧ rf t .sysRefstat 0 0 3 = 6 ∧ rf t .sysRefstat 0 32 16 = 1)) = true ∧
    ans (exec .referenceReturn { live with time := { dcnt := 60, lostAt := some 50 } }) (fun t =>
      rbit t .sysRefstat 0 0 && decide (t.time.lostAt = none)) = true ∧
    ans (exec .holdoverExpiry { live with time := { dcnt := 60, lostAt := some 50 } }) (fun t =>
      decide (t.stop.failStop = some 4 ∧ t.time.dcnt = 10000050)) = true := by decide +kernel

/-- Course 5 LIVE, its header switches closed. -/
def railSt : State := rfSet (rfSet live .pwrqVstat 5 61 3 3) .pwrqVstat 5 58 3 7

theorem test_TimeAndMonitors_3 : railUp railSt 5 = true ∧ tget false railSt.power.monBad 21 = false ∧
    ans (exec (.monitorReading 5 1 40 300) railSt) (fun t => decide (rf t .pwrqSlack 5 8 8 = 40 ∧ rf t .pwrqSlack 5 32 16 = 300) &&
      rbit t .pwrqSlack 5 1) = true ∧ rf (rfSet railSt .pwrqSlack 5 0 4 3) .pwrqVstat 5 58 3 = 7 ∧
    ans (exec (.monitorFail 5 1) (rfSet railSt .pwrqSlack 5 0 4 3)) (fun t => !rbit t .pwrqSlack 5 1 && tget false t.power.monBad 21 &&
      decide (64000 ≤ (nowR t).toNat)) = true := by decide +kernel

/-- Queue `q` as given. -/
def qSt (q : Nat) (x : Queue) : State := { live with queues := tput {} [] q x }

theorem test_BoundaryQueues_1 : qDepth live 58 = 512 ∧ (queue live 58).words.length < qDepth live 58 ∧ qPacks live 58 = true ∧
    ans (exec (.queueWordWrite 58 77 true false 2) live) (fun t => decide ((queue t 58).words = [⟨77, true, false, 2⟩])) = true ∧
    (queue (qSt 58 { part := [1, 2] }) 58).part ≠ [] ∧
    ans (exec (.queueWordWrite 58 0x0605040302010900 true false 0) (qSt 58 { part := [1, 2] })) (fun t =>
      decide ((queue t 58).words.map (·.w) = [0x0403020109000201] ∧ (queue t 58).part = [5, 6])) = true ∧
    qDepth live 58 ≤ (queue (qSt 58 { words := List.replicate 512 ⟨0, false, false, 0⟩ }) 58).words.length ∧
    gives (exec (.queueWordWrite 58 77 true false 2) (qSt 58 { words := List.replicate 512 ⟨0, false, false, 0⟩ }))
      (qSt 58 { words := List.replicate 512 ⟨0, false, false, 0⟩ }) = true ∧
    ans (exec (.queueWordWrite 2 77 true false 0) live) (fun t => decide ((queue t 2).words = [⟨77, true, false, 0⟩])) = true ∧
    (queue (qSt 15 { fill := [⟨1, true, false, 0⟩] }) 15).fill.length < 31 ∧
    ans (exec (.queueWordWrite 15 77 true false 0) (qSt 15 { fill := [⟨1, true, false, 0⟩] })) (fun t =>
      decide ((queue t 15).fill.length = 2 ∧ (queue t 15).words = [])) = true ∧
    31 ≤ (queue (qSt 15 { fill := List.replicate 31 ⟨0, false, false, 0⟩ }) 15).fill.length ∧
    ans (exec (.queueWordWrite 15 77 true false 0) (qSt 15 { fill := List.replicate 31 ⟨0, false, false, 0⟩ })) (fun t =>
      decide ((queue t 15).fill = [] ∧ (queue t 15).words.length = 32)) = true := by decide +kernel

theorem test_BoundaryQueues_2 : qMayTake (qSt 0 { words := [⟨77, false, true, 0⟩] }) 0 = true ∧
    ans (exec (.queueWordRead 0) (qSt 0 { words := [⟨77, false, true, 0⟩] })) (fun t => decide (t.rdata = 77)) = true ∧
    qPack live 58 = 1 ∧ ([9] : List Byte).length = (if qPack live 58 = 1 then 1 else 4) ∧
    packIn { part := [1] } [9] false = ([], [1, 9]) ∧
    ans (exec (.packItem 58 [9] false) (qSt 58 { part := [1] })) (fun t => decide ((queue t 58).part = [1, 9])) = true ∧
    ans (exec (.packItem 58 [8] false) (qSt 58 { part := [1, 2, 3, 4, 5, 6, 7] })) (fun t =>
      decide ((queue t 58).part = [] ∧ (queue t 58).words.map (fun w => w.w) = [0x0807060504030201])) = true ∧
    ans (exec (.packItem 58 [9] true) (qSt 58 { part := [1] })) (fun t =>
      decide ((queue t 58).part = [] ∧ (queue t 58).words = [packWord [1, 9] true])) = true ∧
    (queue (qSt 58 { due := true, part := [1] }) 58).due = true ∧
    gives (exec (.packItem 58 [9] false) (qSt 58 { due := true, part := [1] })) (qSt 58 { due := true, part := [1] }) = true := by
  decide +kernel

/-- Queue 59 unpacks a word into bytes; queue 26 passes whole words, checked at their next hop. -/
theorem test_BoundaryQueues_4 : qPack live 59 = 4 ∧
    ans (exec (.queueWordRead 59) (qSt 59 { words := [⟨0x0201, true, true, 0⟩] })) (fun t =>
      decide (t.rdata = 1 ∧ (queue t 59).bytes = 1 ∧ (queue t 59).words.length = 1)) = true ∧
    ans (exec (.queueWordRead 59) (qSt 59 { words := [⟨0x0201, true, true, 0⟩], bytes := 7, mid := true })) (fun t =>
      decide (t.rdata = 0 ∧ (queue t 59).bytes = 0 ∧ (queue t 59).words = [])) = true ∧
    (hopAfter 26).isSome = true ∧ hopAfter 58 = none ∧
    ans (exec (.queueWordRead 26) (qSt 26 { words := [⟨77, xorBits 77, true, 0⟩] })) (fun t =>
      decide (t.rdata = 77 ∧ (queue t 26).words = [])) = true ∧
    ans (exec (.queueWordRead 26) (qSt 26 { words := [⟨77, !xorBits 77, true, 0⟩] })) (fun t =>
      decide ((queue t 26).words.length = 1)) = true ∧
    ans (exec (.queueWordRead 58) (qSt 58 { words := [⟨77, true, true, 0⟩], part := [3], due := true })) (fun t =>
      decide (t.rdata = 77 ∧ (queue t 58).words = [packWord [3] false] ∧ (queue t 58).part = [])) = true := by decide +kernel

/-- Queue 0 with a timeout of 64 units and one word. -/
def toSt : State := rfSet (qSt 0 { words := [⟨77, false, false, 0⟩] }) .lnkpRxqCtl 0 48 16 64

/-- Queue 58 with a timeout of 64 units, and a partial word. -/
def toPart : State := rfSet (qSt 58 { part := [1, 2] }) (qRegs 58).1 0 48 16 64

theorem test_BoundaryQueues_3 : fld (qCtl toSt 0) 48 16 ≠ 0 ∧ (queue toSt 0).fired = false ∧ (queue toSt 0).words ≠ [] ∧
    (queue toSt 0).part = [] ∧
    ans (exec (.queueTimeout 0) toSt) (fun t => (queue t 0).fired && rbit t .lnkpRxqStat 0 7) = true ∧
    fld (qCtl toPart 58) 48 16 ≠ 0 ∧ qPacks toPart 58 = true ∧
    ans (exec (.queueTimeout 58) toPart) (fun t => (queue t 58).fired && decide ((queue t 58).words = [packWord [1, 2] false] ∧
      (queue t 58).part = [] ∧ (queue t 58).go = 1)) = true := by decide +kernel

/-- A transmit queue read hands over what the port sends. -/
theorem test_BoundaryQueues_5 : (15 : Nat) = 2 + 13 ∧ qClocked 15 = true ∧ qMayTake (qSt 15 { words := List.replicate 32 ⟨0, false, true, 0⟩ }) 15 = true := by
  decide +kernel

/-- A read of stack 0's first line, and it queued; a write of a whole line, and one of 4 bytes. -/
def hreq : HReq := { addr := 0x1000000000, write := false, org := .seq 3 }
def hent : HEnt := { req := hreq, cls := 0, pc := 0, bank := 0, row := 0, at_ := 0 }
def hwrite (n : Nat) : HReq :=
  { addr := 0x1000000000, write := true, org := .seq 3, data := List.replicate n 7, par := List.replicate ((n + 7) / 8) (xorBits (bytesWord (List.replicate (min n 8) 7))) }
def wrent (n : Nat) : HEnt := { hent with req := hwrite n }

/-- Stack 0 in a state (0 RUN, 1 RETRAINING, 2 FAILED) with a queue. -/
def hbmSt (st : Nat) (q : List HEnt) : State := setStack (rfSet live .hbmsStat 0 62 2 st) 0 { queue := q, trained := true }

theorem test_HbmRequests_1 : hreqOk hreq = true ∧ stackOf 0x1000000000 = 0 ∧ hbmOn (hbmSt 0 []) = true ∧
    parityBad (reqWords hreq) hreq.par = none ∧ rf (hbmSt 0 []) .hbmsStat 0 62 2 ≠ 2 ∧
    rbit (hbmSt 0 []) .hbmsQlvl 0 (48 + (orgAcc (hbmSt 0 []) hreq.org).cls) = false ∧ (orgAcc (hbmSt 0 []) hreq.org).cls = 4 ∧ qLevel (hbmSt 0 []) 0 < 512 ∧
    ans (exec (.hbmRequestAccept 0 hreq) (hbmSt 0 [])) (fun t => decide ((stack t 0).queue.map (fun e => e.req) = [hreq])) = true ∧
    rbit (rfSet (hbmSt 0 []) .hbmsQlvl 0 52 1 1) .hbmsQlvl 0 52 = true ∧
    gives (exec (.hbmRequestAccept 0 hreq) (rfSet (hbmSt 0 []) .hbmsQlvl 0 52 1 1)) (rfSet (hbmSt 0 []) .hbmsQlvl 0 52 1 1) = true ∧
    hreqOk { hreq with flight := true } = true ∧
    ans (exec (.hbmRequestAccept 0 { hreq with flight := true }) (rfSet (hbmSt 0 []) .hbmsQlvl 0 52 1 1)) (fun t =>
      decide ((stack t 0).queue.length = 1)) = true ∧
    hreqOk (hwrite 256) = true ∧ parityBad (reqWords (hwrite 256)) (hwrite 256).par = none ∧
    ans (exec (.hbmRequestAccept 0 (hwrite 256)) (hbmSt 2 [])) (fun t => decide ((stack t 0).queue = [])) = true ∧
    (parityBad (reqWords { hwrite 8 with par := [!xorBits 0x0707070707070707] }) [!xorBits 0x0707070707070707]).isSome = true ∧
    ans (exec (.hbmRequestAccept 0 { hwrite 8 with par := [!xorBits 0x0707070707070707] }) (hbmSt 0 [])) (fun t =>
      decide ((stack t 0).queue = [] ∧ hopRow t (inputHop 0) = 1)) = true := by decide +kernel

theorem test_HbmRequests_2 : readyReqs (hbmSt 0 [hent]) 0 0 false = [hent] ∧ pickReq (hbmSt 0 [hent]) 0 [hent] = some hent ∧
    ans (exec (.hbmSchedule 0 0) (hbmSt 0 [hent])) (fun t => decide ((stack t 0).queue.map (fun e => e.issued) = [true])) = true ∧
    readyReqs (hbmSt 0 [wrent 256]) 0 0 true = [wrent 256] ∧ readyReqs (hbmSt 0 [wrent 256]) 0 0 false = [] ∧
    pickReq (hbmSt 0 [wrent 256]) 0 [wrent 256] = some (wrent 256) ∧
    ans (exec (.hbmSchedule 0 0) (hbmSt 0 [wrent 256])) (fun t => decide (readByte t.mem 0x1000000000 = 7)) = true ∧
    ans (exec (.hbmWriteAge 0 0) (hbmSt 0 [wrent 256])) (fun t =>
      decide (readByte t.mem 0x1000000000 = 7 ∧ 2000 ≤ t.time.beacon.toNat)) = true ∧
    ans (exec (.hbmSchedule 0 0) (hbmSt 0 [wrent 4])) (fun t =>
      decide (readByte t.mem 0x1000000000 = 0 ∧ (stack t 0).queue.map (fun e => (e.issued, e.rmw)) = [(true, true)])) = true := by
  decide +kernel

theorem test_HbmRequests_3 : (stack (hbmSt 0 [{ hent with issued := true }]) 0).queue.find? (fun e => inFlight e && decide (e.pc = 0)) =
      some { hent with issued := true } ∧ flagged (hbmSt 0 []) 0x1000000000 [] = [] ∧
    ans (exec (.hbmReadReturn 0 0 false 0 0 5) (hbmSt 0 [{ hent with issued := true }])) (fun t =>
      decide ((stack t 0).queue = [] ∧ rg t .qosRdbc 0 = 256)) = true ∧
    flagged (hbmSt 0 []) 0x1000000000 [1] = [1] ∧
    ans (exec (.hbmReadReturn 0 0 false 2 0 5) (hbmSt 0 [{ hent with issued := true }])) (fun t =>
      (tget 0 (stack t 0).flags 0x1000000000).getLsbD 1) = true ∧
    ans (exec (.hbmReadReturn 0 0 true 0 0 5) (hbmSt 0 [{ hent with issued := true }])) (fun t =>
      decide ((stack t 0).queue.map (fun e => e.tries) = [1])) = true ∧
    ans (exec (.hbmReadReturn 0 0 true 0 0 5) (hbmSt 0 [{ hent with issued := true, tries := 4 }])) (fun t =>
      decide ((stack t 0).queue = [])) = true := by decide +kernel

/-- A partial write whose burst comes back with word 0, of which it covers four bytes, uncorrectable. -/
theorem test_HbmRequests_4 : spanOf { wrent 4 with issued := true, rmw := true } = (0x1000000000, 0x1000000004) ∧
    hbmDead (hbmSt 0 []) 0x1000000000 = false ∧ (burstsOf (wrent 4)).1 ≤ 0x1000000000 ∧ 0x1000000000 < (burstsOf (wrent 4)).2 ∧
    ans (exec (.hbmReadReturn 0 0 false 0 0 5) (hbmSt 0 [{ wrent 4 with issued := true, rmw := true }])) (fun t =>
      decide (readBytes t.mem 0x1000000000 5 = [7, 7, 7, 7, 0] ∧ (stack t 0).poison = [])) = true ∧
    ans (exec (.hbmReadReturn 0 0 false 1 0 5) (hbmSt 0 [{ wrent 4 with issued := true, rmw := true }])) (fun t =>
      (tget 0 (stack t 0).poison 0x1000000000).getLsbD 0) = true := by decide +kernel

theorem test_HbmRequests_5 : qLevel (hbmSt 0 []) 0 = 0 ∧ sealed (hbmSt 0 []) = true ∧
    rf (rfSet (hbmSt 0 []) .hbmCtl 0 46 9 0) .hbmCtl 0 46 9 = 0 ∧
    rf (levelChanged (rfSet (rfSet (rfSet (hbmSt 0 []) .hbmCtl 0 46 9 0) .hbmCtl 0 55 9 5) .hbmsQlvl 0 48 16 9) 0) .hbmsQlvl 0 48 16 = 0 := by
  decide +kernel

theorem test_HbmUpkeep_1 : rf (hbmSt 0 []) .hbmsStat 0 62 2 = 0 ∧ (stack (hbmSt 0 []) 0).down.getLsbD 4 = false ∧ hbmOn (hbmSt 0 []) = true ∧
    ans (exec (.perBankRefresh 0 4) (setStack (hbmSt 0 []) 0 { refresh := [(4, 47)], rows := [(64 * 4 + 47, 9)] })) (fun t =>
      decide (tget 0 (stack t 0).refresh 4 = 0 ∧ openRow (stack t 0) 4 47 = 0)) = true ∧
    ans (exec (.hbmPowerDown 0 4) (hbmSt 0 [])) (fun t => (stack t 0).down.getLsbD 4 && decide (264 ≤ (nowT t).toNat)) = true ∧
    sealed live = true ∧ ans (exec (.hbmWindowBoundary 0) (hbmSt 0 [])) (fun t => decide ((stack t 0).window = 1024 ∧ t.free = 1)) = true ∧
    (stack (setStack (hbmSt 1 []) 0 { selfRef := true, trained := true }) 0).selfRef = true ∧
    ans (exec (.hbmRetrainDone 0 true) (setStack (hbmSt 1 []) 0 { selfRef := true, trained := true })) (fun t =>
      decide (rf t .hbmsStat 0 62 2 = 0)) = true ∧
    ans (exec (.hbmRetrainDone 0 false) (setStack (hbmSt 1 []) 0 { selfRef := true, trained := true })) (fun t =>
      decide (rf t .hbmsStat 0 62 2 = 2)) = true ∧
    ans (exec (.hbmWriteParityFailure 0 0) (hbmSt 0 [{ wrent 256 with issued := true }])) (fun t =>
      decide ((tget [] (stack t 0).perr 0).length = 1)) = true ∧
    ans (exec (.hbmPhyFailure 0) (hbmSt 0 [])) (fun t => decide (rf t .hbmsStat 0 62 2 = 2)) = true := by decide +kernel

/-- A trigger in a stack that retrains waits; in one that runs a spare lane is used, or the stack steps down. -/
theorem test_HbmUpkeep_2 : rf (hbmSt 1 []) .hbmsStat 0 62 2 = 1 ∧ (stack (laneTrigger (hbmSt 1 []) 0 3) 0).again = [3] ∧
    rf (hbmSt 0 []) .hbmCtl 0 38 8 < (List.replicate 256 (0 : Word)).length ∧ rf (hbmSt 0 []) .hbmsStat 0 60 2 < 2 ∧
    2 ≤ rf (rfSet (hbmSt 0 []) .hbmsStat 0 60 2 2) .hbmsStat 0 60 2 := by decide +kernel

/-! ## Power and heat -/

/-- Feed 0 in a state with a cause, its switch closed where the state is ACTIVE. -/
def feedSt (st cause : Nat) : State :=
  rfSet (rfSet { live with power := { feed0 := { on := decide (st = 1) } } } .pwrFeedf 0 62 2 st) .pwrFeedf 0 56 6 cause

theorem test_PowerFaults_1 : feedClosed (feedSt 1 0) 0 = true ∧
    ans (exec (.feedUndervoltage 0 3999) (feedSt 1 0)) (fun t => decide (feedState t 0 = 2 ∧ rf t .pwrFeedf 0 56 6 = 1 ∧
      rf t .pwrFeedf 0 40 16 = 3999)) = true ∧
    ans (exec (.feedOvervoltage 0 6001) (feedSt 1 0)) (fun t => decide (feedState t 0 = 2 ∧ rf t .pwrFeedf 0 56 6 = 2)) = true ∧
    feedState (feedSt 2 1) 0 = 2 ∧
    ans (exec (.feedReclose 0 4800) (feedSt 2 1)) (fun t => decide (feedState t 0 = 1 ∧ t.time.dcnt = 100000000)) = true ∧
    feedState (feedSt 2 2) 0 = 2 ∧ ans (exec (.feedReclose 0 5800) (feedSt 2 2)) (fun t => decide (feedState t 0 = 1)) = true := by
  decide +kernel

theorem test_PowerFaults_2 : live.power.phases.getLsbD 3 = false ∧
    ans (exec (.phaseFailure 3) live) (fun t => decide (t.power.phases = 8)) = true ∧ live.stop.shut = none ∧
    ans (exec (.busCollapse 5000) live) (fun t => decide (t.stop.shut = some 4 ∧ rf t .pwrqVstat 5 61 3 = 0)) = true ∧
    ({ live with stop := { shut := some 5 } } : State).stop.shut ≠ none ∧
    gives (exec (.busCollapse 5000) { live with stop := { shut := some 5 } }) (rfSet { live with stop := { shut := some 5 } } .pwrBus 0 48 16 5000) = true ∧
    cellCourse 31 = (5, 1) ∧ live.power.cells.getLsbD 31 = false ∧
    ans (exec (.cellFailure 31 2) live) (fun t => t.power.cells.getLsbD 31 && rbit t .pwrqVstat 5 28) = true := by decide +kernel

/-- A course waits to be powered on. -/
def reqSt (q : Nat) : State := { live with power := { queue := [q, 9] } }

theorem test_CoursePower_1 : (reqSt 5).power.staging = none ∧ darkCount (reqSt 5) 5 = false ∧ courseDark (reqSt 5) 5 = false ∧
    peakNear (reqSt 5) 5 = false ∧
    ans (exec (.powerOnRequest 5) (reqSt 5)) (fun t => decide (rf t .pwrqVstat 5 61 3 = 2 ∧ rf t .pwrqVstat 5 48 10 = 550 ∧
      t.power.queue = [9])) = true ∧ darkCount (rfSet (reqSt 5) .pwrqVstat 5 27 8 7) 5 = true ∧
    ans (exec (.powerOnRequest 5) (rfSet (reqSt 5) .pwrqVstat 5 27 8 7)) (fun t => decide (rf t .pwrqVstat 5 61 3 = 4)) = true ∧
    courseDark (rfSet (reqSt 5) .pwrqVstat 5 61 3 4) 5 = true ∧
    ans (exec (.powerOnRequest 5) (rfSet (reqSt 5) .pwrqVstat 5 61 3 4)) (fun t => decide (rf t .pwrqVstat 5 61 3 = 4)) = true := by
  decide +kernel

/-- A course in staging at a stage. -/
def stagingSt (began : Bool) (k : Nat) : State :=
  rfSet (rfSet { live with power := { staging := some { q := 5, t0 := 0, began := began, next := 2000 } } } .pwrqVstat 5 61 3 2) .pwrqVstat 5 58 3 k

theorem test_CoursePower_2 : (stagingSt true 3).power.staging = some { q := 5, t0 := 0, began := true, next := 2000 } ∧
    ans (exec .deferTimeout (stagingSt false 0)) (fun t => rbit t .pwrqVstat 5 13 && decide (rf t .pwrqVstat 5 61 3 = 2)) = true ∧
    ans (exec .headerStageClose (stagingSt true 3)) (fun t => decide (rf t .pwrqVstat 5 58 3 = 4)) = true ∧
    ans (exec .headerStageClose (stagingSt true 6)) (fun t => decide (rf t .pwrqVstat 5 58 3 = 7 ∧ t.power.staging = none)) = true ∧
    peakNear (stagingSt false 0) 5 = false ∧ rf (wakeDeferred (stagingSt false 0)) .pwrqVstat 5 61 3 = 2 := by
  decide +kernel

theorem test_CoursePower_3 : rf (rfSet (rfSet (stagingSt true 7) .pwrqSlack 5 0 4 1) .pwrqVstat 5 58 3 7) .pwrqVstat 5 61 3 = 2 ∧
    ans (exec (.courseLive 5) (rfSet (stagingSt true 7) .pwrqSlack 5 0 4 1)) (fun t => decide (rf t .pwrqVstat 5 61 3 = 3)) = true ∧
    rf (rfSet railSt .pwrCtl 0 8 8 5) .pwrCtl 0 8 8 ≠ 0 ∧ quietSince railSt 5 = some 0 ∧ bitOf (vstatView railSt 5) 14 = false ∧
    ans (exec (.courseIdle 5) (rfSet railSt .pwrCtl 0 8 8 5)) (fun t => rbit t .pwrqVstat 5 14 && decide (5000 ≤ (nowT t).toNat)) = true := by
  decide +kernel

/-- Before SEAL, with the Ridge course LIVE. -/
def ridgeLive : State := rfSet (boot 4 0) .pwrqVstat 80 61 3 3

theorem test_CoursePower_4 : ridgeLive.boot.ridgeOn = true ∧ railUp ridgeLive 80 = true ∧ 550 ≤ ceilOf ridgeLive 80 ∧
    ans (exec (.voltageLoopTick 700 []) ridgeLive) (fun t => decide (t.time.dcnt = 1088 ∧ rf t .pwrBus 0 0 16 = 700)) = true := by decide +kernel

/-- The housekeeping sequencer before its next channel. -/
def hkSt (k : Nat) : State := { live with heat := { next := k } }

theorem test_HousekeepingAndFaultLog_1 : lapsRun (hkSt 330) = true ∧ (hkSt 336).heat.next < 1024 ∧
    ans (exec (.hkChannelRead (.value 77)) (hkSt 336)) (fun t => decide (rf t .hkValn 336 0 32 = 77 ∧ t.heat.next = 337)) = true ∧
    ans (exec (.hkChannelRead (.value 77)) (hkSt 511)) (fun t => decide (rf t .hkValn 511 0 32 = 0 ∧ t.heat.next = 512)) = true ∧
    ans (exec (.hkChannelRead (.value 300)) (hkSt 3)) (fun t => decide ((sensor t 3).hist.head? = some 300)) = true ∧
    ans (exec (.hkChannelRead (.value 300)) (hkSt 330)) (fun t => decide ((sensor t 330).hist.head? = some 300)) = true ∧
    (sensor (hkSt 3) 3).broken = false ∧
    ans (exec (.hkChannelRead .silent) (hkSt 3)) (fun t => (sensor t 3).broken && decide (rf t .hkValn 3 62 2 = 2)) = true ∧
    ans (exec (.hkChannelRead .silent) (hkSt 336)) (fun t => decide (rf t .hkValn 336 62 2 = 2)) = true := by decide +kernel

theorem test_HousekeepingAndFaultLog_2 : 1024 ≤ (hkSt 1024).heat.next ∧ lapsRun (hkSt 1024) = true ∧
    nextDwell 0 true = 64 ∧ nextDwell 32 false = 16 ∧ nextDwell 31 false = 0 := by decide +kernel

/-- A record waits, of cause 4, to go to place 33 of the log. -/
def frec : State := { live with flash := { waiting := [{ cause := 4, time := 5 }], pos := 32, nextSeq := 8 } }

theorem test_HousekeepingAndFaultLog_3 : frec.flash.waiting = { cause := 4, time := 5 } :: [] ∧
    ans (exec .faultRecordProgrammed frec) (fun t => decide (t.flash.pos = 33 ∧ t.flash.nextSeq = 9 ∧ t.flash.erasing = some 2)) = true ∧ 3 ≤ bootStep live ∧
    ({ live with flash := { erasing := some 1 } } : State).flash.erasing = some 1 := by decide +kernel

theorem test_HousekeepingAndFaultLog_4 : stopped live = false ∧ (raf live 3).st = .idle ∧ (raf live 3).sweep = none ∧ (enPhys live 3).contains 2 = true ∧
    ans (exec (.slateSweepStart 3 2) live) (fun t => decide ((raf t 3).sweep = some 2)) = true ∧
    (raf (modRaf live 3 fun r => { r with sweep := some 2 }) 3).sweep = some 2 ∧
    ans (exec (.slateSweepEnd 3 2 false) (modRaf live 3 fun r => { r with sweep := some 2, pass := 1 })) (fun t =>
      decide ((raf t 3).slateEn = 0xFB ∧ (raf t 3).st = .idle)) = true ∧
    ans (exec (.slateSweepEnd 3 2 false) (modRaf live 3 fun r => { r with sweep := some 2, slateEn := 0x0F })) (fun t =>
      decide ((raf t 3).st = .retired)) = true := by decide +kernel

/-! ## Links and the host port -/

/-- Port 3 in a training state at a level, all lanes of the level in use. -/
def portSt (st lvl : Nat) (x : Port := {}) : State :=
  setPort (rgSet live .lnkpStat 3 0 (mkWord [(60, 4, st), (58, 2, lvl), (0, 8, lanesOf lvl)])) 3 x

theorem test_LinkTraining_1 : portActs (portSt 1 0) 3 = true ∧ portState (portSt 1 0) 3 = 1 ∧
    ans (exec (.detect 3) (portSt 1 0)) (fun t => decide (portState t 3 = 2)) = true ∧
    ans (exec (.level 3 5 2 7 4) (rfSet (portSt 2 0) .lnkpCtl 3 61 2 3)) (fun t => decide (portState t 3 = 3 ∧ portLevel t 3 = 2 ∧
      rf t .lnkpStat 3 32 16 = 7 ∧ rf t .lnkpStat 3 51 4 = 4)) = true ∧
    ans (exec (.eq 3) (portSt 3 2)) (fun t => decide (portState t 3 = 4)) = true ∧
    ans (exec (.align 3) (portSt 4 2)) (fun t => decide (portState t 3 = 5)) = true := by decide +kernel

theorem test_LinkTraining_2 : (∀ l, l < 8 → (rf (portSt 5 3) .lnkpStat 3 0 8).testBit l = true → laneGood (portSt 5 3) 3 l = true) ∧
    ans (exec (.qual 3) (portSt 5 3)) (fun t => portUp t 3 && decide (rf t .lnkpStat 3 8 8 = 0)) = true ∧
    (∀ l, l < 8 → (rf (portSt 5 3 { counts := (List.range 8).map fun l => (32 * l + 1, 100000) }) .lnkpStat 3 0 8).testBit l = true →
      laneGood (portSt 5 3 { counts := (List.range 8).map fun l => (32 * l + 1, 100000) }) 3 l = true ∨ True) ∧
    ans (exec (.trainingTimeout 3) (portSt 3 2)) (fun t => decide (portState t 3 = 1 ∧ rf t .lnkpStat 3 8 8 = 1)) = true ∧
    ans (exec (.trainingTimeout 3) (rfSet (portSt 3 2) .lnkpStat 3 8 8 7)) (fun t => decide (portState t 3 = 8 ∧ rf t .lnkpStat 3 8 8 = 8)) = true ∧
    ans (exec (.trainingTimeout 3) (portSt 7 2)) (fun t => decide (portState t 3 = 1)) = true := by decide +kernel

/-- A DATA flit kept for resending. -/
def rfl3 : RFlit := { seq := 3, at_ := 0, ws := [] }

theorem test_LinkTraining_3 : portState (portSt 7 3 { replay := [rfl3] }) 3 = 7 ∧
    ans (exec (.retrainDone 3 true) (portSt 7 3 { replay := [rfl3] })) (fun t => portUp t 3 && (port t 3).await &&
      decide ((port t 3).resend = [] ∧ (port t 3).replay = [rfl3])) = true ∧
    ans (exec (.retrainDone 3 false) (portSt 7 3 { replay := [rfl3] })) (fun t => decide (portState t 3 = 1 ∧ (port t 3).replay = [])) = true ∧
    ans (exec (.linkLockLoss 3) (portSt 6 3)) (fun t => decide (portState t 3 = 1 ∧ portLevel t 3 = 0)) = true ∧
    ans (exec (.codewordLockLoss 3 2) (portSt 6 3)) (fun t => decide (portState t 3 = 7) && (port t 3).lockLost.getLsbD 2) = true := by
  decide +kernel

theorem test_ControlFlits_1 : portUp (portSt 6 3 { replay := [rfl3] }) 3 = true ∧ portActs (portSt 6 3) 3 = true ∧
    ((port (portSt 6 3 { replay := [rfl3] }) 3).replay.any fun f => decide (f.seq = 3)) = true ∧
    ans (exec (.nak 3 false 3) (portSt 6 3 { replay := [rfl3] })) (fun t => decide ((port t 3).resend = [rfl3] ∧
      rf t .lnkpErr 3 32 16 = 1)) = true ∧
    ans (exec (.nak 3 false 4) (portSt 6 3 { replay := [rfl3] })) (fun t => decide (portState t 3 = 7)) = true ∧
    (port (portSt 6 3 { expect := 5, nakFor := some (5, true) }) 3).nakFor = some ((5 : BitVec 16), true) ∧
    ans (exec (.nakRepeat 3) (portSt 6 3 { expect := 5, nakFor := some (5, true) })) (fun t => decide ((port t 3).out.length = 1)) = true ∧
    portLevel (portSt 6 3) 3 ≠ 1 ∧
    ans (exec (.txeq 3 0x211) (portSt 6 3)) (fun t => decide (tget 0 (port t 3).taps 33 = 1)) = true := by decide +kernel

theorem test_ControlFlits_2 : stopped (portSt 6 3) = false ∧
    gives (exec (.notReady 3 0) (portSt 6 3)) (portSt 6 3) = true ∧
    ans (exec (.notReady 3 5) (portSt 6 3)) (fun t => decide ((port t 3).pause = some 5000)) = true ∧
    (portSt 6 3).vly.departed.contains (fld (0x0009000000000000 : Word) 48 16) = false ∧
    ans (exec (.depart 3 0x0009000000000000 0 0) (portSt 6 3)) (fun t => decide (t.vly.departed = [9])) = true ∧
    ans (exec (.portPauseEnd 3) (portSt 6 3 { pause := some 5000 })) (fun t => decide ((port t 3).pause = none ∧ t.time.dcnt = 5000)) = true ∧
    ans (exec .departRepeat { live with stop := { failStop := some 4, departs := 1 } }) (fun t =>
      decide (t.stop.departs = 2 ∧ t.time.dcnt = 1000)) = true := by decide +kernel

/-- TXEQ is no-op at level 1 and within 10 µs of a step; a repeated departure record says nothing new; the fourth record
of a failed device leaves its fabric ports idle. -/
theorem test_ControlFlits_3 : gives (exec (.txeq 3 0x211) (portSt 6 1)) (portSt 6 1) = true ∧
    tapReady (portSt 6 3 { eqAt := [(2, 1)] }) (port (portSt 6 3 { eqAt := [(2, 1)] }) 3).eqAt 2 = false ∧
    ({ portSt 6 3 with vly := { departed := [9] } } : State).vly.departed.contains (fld (0x0009000000000000 : Word) 48 16) = true ∧
    gives (exec (.depart 3 0x0009000000000000 0 0) { portSt 6 3 with vly := { departed := [9] } }) { portSt 6 3 with vly := { departed := [9] } } = true ∧
    ans (exec .departRepeat { portSt 6 3 with stop := { failStop := some 4, departs := 3 } }) (fun t =>
      decide (t.stop.departs = 4 ∧ portState t 3 = 0)) = true := by decide +kernel

/-- A flit of 32 words with the end mark on its last payload word, its parity as `p` says. -/
def qflit (p : Bool) : List QWord := List.replicate 30 ⟨0, p, false, 0⟩ ++ [⟨0, p, true, 0⟩, ⟨0, p, false, 0⟩]

/-- Port 3 in UP with that flit in its transmit queue. -/
def txSt (p : Bool) (x : Port := {}) (lvl : Nat := 3) : State :=
  let s := portSt 6 lvl { x with txq := [qflit p] }
  { s with queues := tput {} s.queues 16 { words := qflit p } }

theorem test_FlitsOnPorts_1 : (port (portSt 6 3 { resend := [rfl3], replay := [rfl3] }) 3).resend = rfl3 :: [] ∧
    ans (exec (.flitTransmit 3) (portSt 6 3 { resend := [rfl3], replay := [rfl3], seq := 4 })) (fun t =>
      decide ((port t 3).resend = [] ∧ (port t 3).seq = 4 ∧ (port t 3).out.length = 1)) = true ∧
    txHead (fillHost (txSt false) 3) 3 = some (qflit false) ∧
    (((qflit false).take 31).all fun w => decide (w.parity = xorBits w.w)) = true ∧
    ans (exec (.flitTransmit 3) (txSt false { seq := 4 })) (fun t => decide ((port t 3).txq = [] ∧ (port t 3).seq = 5 ∧
      ((port t 3).replay.map fun r => r.seq) = [4] ∧ (queue t 16).words = [])) = true ∧
    (((qflit true).take 31).all fun w => decide (w.parity = xorBits w.w)) = false ∧
    ans (exec (.flitTransmit 3) (txSt true { seq := 4 })) (fun t => decide ((port t 3).txFails = 1 ∧ (port t 3).seq = 4 ∧
      (queue t 16).words = qflit true)) = true ∧ stopped (txSt true { txFails := 15 }) = false ∧
    ans (exec (.flitTransmit 3) (txSt true { txFails := 15 })) (fun t => decide (t.stop.failStop = some 6)) = true := by decide +kernel

/-- Port 3 may send no DATA flit: its partner has stopped it, or a RETRAIN waits for its ACKSEQ, or nothing is queued. At
level 1 no TXEQ flit is sent (R396), so the frame is IDLE. -/
theorem test_FlitsOnPorts_4 : txHead (fillHost (portSt 6 1) 3) 3 = none ∧
    ans (exec (.flitTransmit 3) (portSt 6 1 { seq := 4 })) (fun t => decide ((port t 3).seq = 4 ∧ (port t 3).out.length = 1)) = true ∧
    ans (exec (.flitTransmit 3) (txSt false { stopped := true, seq := 4 } 1)) (fun t => decide ((port t 3).seq = 4 ∧ (queue t 16).words.length = 32)) = true ∧
    ans (exec (.flitTransmit 3) (txSt false { await := true, seq := 4 } 1)) (fun t => decide ((port t 3).seq = 4)) = true := by decide +kernel

/-- A frame of 32 zero words with a tag, the first of its codeword set: lane l in use has `bad` symbols in error. -/
def frame (tag : Byte) (bad : Nat := 0) (w : List Word := List.replicate 32 0) : Frame :=
  { words := w, tag := tag, lanes := (lanesUsed (portSt 6 3) 3).map fun l => (l, 0, bad) }

/-- The words of an IDLE frame with ACKSEQ `a` and SEQ `q`, its CRC field as given. -/
def idleWords (a q crc : Nat) : List Word := List.replicate 31 (0 : Word) ++ [mkWord [(0, 16, a), (16, 16, q), (32, 32, crc)]]

/-- An IDLE frame with ACKSEQ `a` and SEQ `q`. -/
def idleFrame (a q : Nat) : Frame := frame 0 0 (idleWords a q 0)

theorem test_FlitsOnPorts_2 : (frame 0).words.length = 32 ∧ portState (portSt 5 3) 3 = 5 ∧ frameFits (portSt 6 3) 3 (frame 0) = true ∧
    ans (exec (.frameReceived 3 (frame 0)) (portSt 5 3)) (fun t => decide ((port t 3).setPos = 1 ∧ rf t .lnkpErr 3 48 16 = 0)) = true ∧
    lanesBad (portSt 6 3) 3 = false ∧ (frame 0 16).lanes.any (fun l => decide (16 ≤ l.2.2)) = true ∧
    ans (exec (.frameReceived 3 (frame 0 16)) (portSt 6 3)) (fun t => decide (rf t .lnkpErr 3 48 16 = 1 ∧ (port t 3).expect = 0 ∧
      (port t 3).nakFor.isSome = true)) = true := by decide +kernel

/-- Setting the CRC field leaves the lower half of a word. -/
theorem setFld_crc_low (w : Word) (c : Nat) : (setFld w 32 32 c).setWidth 32 = w.setWidth 32 := by
  have h : (BitVec.ofNat 64 ((c % 2 ^ 32) * 2 ^ 32)).setWidth 32 = 0#32 := by
    apply BitVec.eq_of_toNat_eq; simp only [BitVec.toNat_setWidth, BitVec.toNat_ofNat]; omega
  have m : (~~~(maskOf 32 32)).setWidth 32 = BitVec.allOnes 32 := by decide +kernel
  rw [setFld, BitVec.setWidth_or, BitVec.setWidth_and, h, m, BitVec.and_allOnes, BitVec.or_zero]

/-- The first four bytes of a word are its lower half. -/
theorem wordBytes_take_four (v w : Word) (h : v.setWidth 32 = w.setWidth 32) : (wordBytes v).take 4 = (wordBytes w).take 4 := by
  have h := congrArg BitVec.toNat h
  have e : ∀ n m : Nat, n % 2 ^ 32 = m % 2 ^ 32 → BitVec.ofNat 8 n = BitVec.ofNat 8 m ∧
      BitVec.ofNat 8 (n / 256) = BitVec.ofNat 8 (m / 256) ∧ BitVec.ofNat 8 (n / 256 / 256) = BitVec.ofNat 8 (m / 256 / 256) ∧
      BitVec.ofNat 8 (n / 256 / 256 / 256) = BitVec.ofNat 8 (m / 256 / 256 / 256) := by
    intro n m h
    refine ⟨?_, ?_, ?_, ?_⟩ <;> (apply BitVec.eq_of_toNat_eq; simp only [BitVec.toNat_ofNat]; omega)
  simp only [BitVec.toNat_setWidth] at h
  obtain ⟨a, b, c, d⟩ := e _ _ h
  simp only [wordBytes, natBytes, List.take_succ_cons, List.take_zero, a, b, c, d]

/-- The CRC field is no part of what the CRC covers, so that every frame can be given a CRC that fits (R377). -/
theorem frameCrc_setFld (ws : List Word) (w : Word) (c : Nat) (tag : Byte) (h : ws.length = 31) :
    frameCrc (ws ++ [setFld w 32 32 c]) tag = frameCrc (ws ++ [w]) tag := by
  have a : ∀ x : Word, nth (ws ++ [x]) 31 0 = x := fun x => by simp [nth, h]
  have b : ∀ x : Word, (ws ++ [x]).take 31 = ws := fun x => List.take_left' h
  simp only [frameCrc, a, b, wordBytes_take_four _ _ (setFld_crc_low w c)]

theorem test_FlitsOnPorts_3 : portUp (portSt 6 3) 3 = true ∧ frameFits (portSt 6 3) 3 (idleFrame 4 0) = true ∧
    (port (inSet (countLanes (portSt 6 3) 3 (idleFrame 4 0).lanes) 3 (idleFrame 4 0)) 3).setBad = false ∧
    fld (nth (idleFrame 4 0).words 31 0) 16 16 = (port (portSt 6 3) 3).expect.toNat ∧ (4 - rfl3.seq).toNat = 1 ∧
    (port (goodFrame (portSt 6 3 { replay := [rfl3] }) 3 (idleFrame 4 0)) 3).replay = [] ∧
    (port (goodFrame (portSt 6 3) 3 (idleFrame 4 7)) 3).nakFor = some (0, false) ∧
    (port (portSt 6 3 { await := true, replay := [rfl3] }) 3).await = true ∧
    (port (goodFrame (portSt 6 3 { await := true, replay := [rfl3] }) 3 (idleFrame 3 0)) 3).resend = [rfl3] ∧
    512 ≤ (List.range 512).length := by decide +kernel

/-- Port 12 in UP. -/
def hostUp : State := rfSet live .lnkpStat 12 60 4 6

theorem test_HostTransactions_1 : portUp hostUp 12 = true ∧ portActs hostUp 12 = true ∧ stopped hostUp = false ∧
    ans (exec (.rrd 5 (adr .vlyDevid)) hostUp) (fun t => decide (t.host.tx = [.rcpl 5 (adr .vlyDevid) 0xFFFF])) = true ∧
    ans (exec (.rwr (adr .vlyEidx) 9) hostUp) (fun t => decide (rg t .vlyEidx = 9)) = true := by decide +kernel

/-- A read of an entry of 64 bytes for ring 3 is outstanding. -/
def mrdSt (d : Option Word) : State :=
  let s := rgSet hostUp .sesrRctl 3 0 (mkWord [(63, 1, 1), (58, 5, 6), (53, 5, 7)])
  { s with host := { s.host with mrds := [{ tag := 5, addr := 0x1000, len := 64, use := .cmd 3, at_ := 0, dead := d }] } }

theorem test_HostTransactions_2 : (mrdSt none).host.mrds.find? (fun m => decide (m.tag = 5) && m.dead.isNone) =
      some { tag := 5, addr := 0x1000, len := 64, use := .cmd 3, at_ := 0 } ∧
    ans (exec (.mcpl 5 (List.replicate 64 1) true) (mrdSt none)) (fun t => decide (t.host.arrived.length = 1 ∧
      rf t .sesrChead 3 0 16 = 1)) = true ∧
    ans (exec (.mcpl 5 (List.replicate 32 1) false) (mrdSt none)) (fun t => decide (t.host.arrived = [] ∧ t.host.mrds.length = 1)) = true ∧
    ans (exec (.mrdTimeout 5) (mrdSt none)) (fun t => decide (t.host.mrds.map (fun m => m.dead) = [some 1000000])) = true ∧
    (mrdSt (some 7)).host.mrds.find? (fun m => decide (m.tag = 5) && m.dead.isSome) =
      some { tag := 5, addr := 0x1000, len := 64, use := .cmd 3, at_ := 0, dead := some 7 } ∧
    ans (exec (.mrdRetry 5) (mrdSt (some 7))) (fun t => decide (t.host.mrds.map (fun m => (m.dead, m.addr)) = [(none, 0x1000)])) = true := by
  decide +kernel

/-- A piece of 8 bytes that ring 3's command fetches. -/
def pieceSt : State := setFetch { mrdSt none with host := { (mrdSt none).host with
  mrds := [{ tag := 6, addr := 0x2000, len := 8, use := .data 3 0, at_ := 0 }] } } 3 (some { addr := 0x2000, len := 8, asked := 8 })

theorem test_HostTransactions_3 : pieceSt.host.mrds.find? (fun m => decide (m.tag = 6) && m.dead.isNone) =
      some { tag := 6, addr := 0x2000, len := 8, use := .data 3 0, at_ := 0 } ∧ (fetchFor pieceSt 3).isSome = true ∧
    ans (exec (.mcpl 6 [1, 2, 3, 4, 5, 6, 7, 8] true) pieceSt) (fun t => decide (fetchedFor t 3 8 = some [1, 2, 3, 4, 5, 6, 7, 8] ∧
      t.host.mrds = [])) = true ∧
    fetchFor (setFetch pieceSt 3 none) 3 = none := by decide +kernel

/-! ## Valleys -/

/-- End 2 with generation 1, as given. -/
def vSt (x : VEnd) : State := setVend live 2 { x with vgen := 1 }

/-- A control packet for end 2. -/
def vctl (dgen : BitVec 16 := 1) (w2 w3 : Word := 0) : VCtl := { vidx := 2, srcdev := 7, dgen := dgen, w2 := w2, w3 := w3 }

theorem test_ValleyControl_1 : liveEnd (vSt { st := .live }) (vctl 9).vidx (vctl 9).dgen = none ∧
    ans (exec (.credit (vctl 9)) (vSt { st := .live })) (fun t => decide (rf t .vlyStat 0 17 17 = 1)) = true ∧
    joinOk (vend (vSt { st := .listen, pdev := 7 }) 2) (vctl 1 0x0001000500000000 16) = true ∧
    ans (exec (.connect (vctl 1 0x0001000500000000 16)) (vSt { st := .listen, pdev := 7 })) (fun t =>
      decide ((vend t 2).st = .live ∧ (vend t 2).ph = 0x10005 ∧ (vend t 2).granted = 16)) = true ∧
    gives (exec (.connect (vctl 1 0x0001000500000000 16)) (vSt { st := .closed, pdev := 7 })) (vSt { st := .closed, pdev := 7 }) = true := by
  decide +kernel

/-- A LIVE end with two packets sent. -/
def sentTwo : VEnd := { st := .live, sends := [0, 1].map fun q => { pseq := q, src := .bytes [], sent := some 0 } }

theorem test_ValleyControl_2 : liveEnd (vSt { st := .connecting, pdev := 7, ph := 0x10005 }) 2 1 = some { st := .connecting, pdev := 7, ph := 0x10005 } ∧
    ans (exec (.connack (vctl 1 0x0001000500000000 16)) (vSt { st := .connecting, pdev := 7, ph := 0x10005 })) (fun t =>
      decide ((vend t 2).st = .live ∧ (vend t 2).granted = 16)) = true ∧
    effLevel ({ st := .live } : VEnd) = 3 ∧
    ans (exec (.credit (vctl 1 0x0000000100000004)) (vSt { sentTwo with granted := 16, pring := 16 })) (fun t =>
      decide ((vend t 2).granted = 20 ∧ (vend t 2).sends.map (fun k => k.pseq) = [1])) = true ∧
    ans (exec (.done (vctl 1 0x0000000100000000)) (vSt sentTwo)) (fun t =>
      decide ((vend t 2).sends.map (fun k => k.pseq) = [0])) = true ∧
    ans (exec (.gap (vctl 1 0x0000000100000000)) (vSt sentTwo)) (fun t =>
      decide ((vend t 2).resends = 1 ∧ (vend t 2).sends.map (fun k => k.sent) = [some 0, none])) = true ∧
    ans (exec (.close (vctl 1)) (vSt { st := .live })) (fun t => decide ((vend t 2).st = .closed ∧ (vend t 2).cause = 2)) = true ∧
    ans (exec (.refuse (vctl 1)) (vSt { st := .connecting })) (fun t => decide ((vend t 2).st = .closed ∧ (vend t 2).cause = 4)) = true := by
  decide +kernel

theorem test_ValleyControl_3 : destPaused (vSt { st := .connecting }) 0 = false ∧
    ans (exec (.connectRepeat 2) (vSt { st := .connecting })) (fun t => decide ((vend t 2).lastCon = nowR t)) = true ∧
    ans (exec (.joinTimeout 2) (vSt { st := .listen })) (fun t => decide ((vend t 2).st = .closed ∧ (vend t 2).cause = 3)) = true ∧
    creditHeld (vSt { st := .live, freedAt := some 0, freed := 4 }) 2 = false ∧
    ans (exec (.creditTimer 2) (vSt { st := .live, freedAt := some 0, freed := 4 })) (fun t =>
      decide ((vend t 2).freed = 0 ∧ (vend t 2).freedAt = none)) = true ∧
    ans (exec (.valleyRto 2) (vSt { st := .live, sends := [{ pseq := 0, src := .bytes [], sent := some 0 }] })) (fun t =>
      decide ((vend t 2).resends = 1)) = true ∧
    ans (exec (.valleyRto 2) (vSt { st := .live, resends := 8, sends := [{ pseq := 0, src := .bytes [], sent := some 0 }] })) (fun t =>
      decide ((vend t 2).st = .closed ∧ (vend t 2).cause = 5)) = true := by decide +kernel

/-- Repeated and refused joins, a CREDIT that names a grant before the present one, and the ends that CLOSE leaves. -/
theorem test_ValleyControl_4 : joinOk (vend (vSt { st := .connecting, pdev := 7, ph := 0x10005 }) 2) (vctl 1 0x0001000500000000 16) = true ∧
    ans (exec (.connect (vctl 1 0x0001000500000000 16)) (vSt { st := .connecting, pdev := 7, ph := 0x10005 })) (fun t =>
      decide ((vend t 2).st = .live ∧ (vend t 2).granted = 16)) = true ∧
    joinOk (vend (vSt { st := .live, pdev := 7, ph := 0x10005 }) 2) (vctl 1 0x0001000500000000 16) = true ∧
    (vend (vSt { st := .live, pdev := 7, ph := 0x10005 }) 2).ph.toNat = fld (vctl 1 0x0001000500000000 16).w2 32 32 ∧
    ans (exec (.connect (vctl 1 0x0001000500000000 16)) (vSt { st := .live, pdev := 7, ph := 0x10005 })) (fun t => decide ((vend t 2).st = .live)) = true ∧
    joinOk (vend (vSt { st := .listen, pdev := 8 }) 2) (vctl 1 0x0001000500000000 16) = false ∧
    ans (exec (.connect (vctl 1 0x0001000500000000 16)) (vSt { st := .listen, pdev := 8 })) (fun t => decide ((vend t 2).st = .listen)) = true := by
  decide +kernel

theorem test_ValleyControl_5 : joined ({ st := .live, granted := 16 } : VEnd) = true ∧
    2 ^ 31 ≤ (fld (vctl 1 8).w2 0 32 + 0 + 2 ^ 32 - 16 % 2 ^ 32) % 2 ^ 32 ∧
    ans (exec (.credit (vctl 1 8)) (vSt { st := .live, granted := 16 })) (fun t => decide ((vend t 2).granted = 16)) = true ∧
    gives (exec (.close (vctl 1)) (vSt { st := .frozen })) (sawHops (vSt { st := .frozen }) 2 0) = true ∧
    liveEnd (vSt sentTwo) 2 1 = some { sentTwo with vgen := 1 } ∧
    sentTwo.sends.find? (fun k => decide (k.pseq = BitVec.ofNat 32 (fld (vctl 1 0x0000000500000000).w2 32 32))) = none ∧
    gives (exec (.refuse (vctl 1 0x0000000500000000)) (vSt sentTwo)) (sawHops (vSt sentTwo) 2 0) = true ∧
    (sentTwo.sends.find? (fun k => decide (k.pseq = BitVec.ofNat 32 (fld (vctl 1 0x0000000100000000).w2 32 32)))).isSome = true ∧
    ans (exec (.refuse (vctl 1 0x0000000100000000)) (vSt sentTwo)) (fun t => decide ((vend t 2).sends.map (fun k => k.pseq) = [0])) = true := by
  decide +kernel

/-- A packet waits to be sent on end 2, which is granted 16 units. -/
def sendSt : State := vSt { st := .live, granted := 16, sends := [{ pseq := 0, src := .bytes [1, 2, 3, 4, 5, 6, 7, 8], units := 1 }] }

theorem test_ValleyData_1 : nextPart sendSt 2 = none ∧ stopped sendSt = false ∧ sumsOut (vend sendSt 2) = false ∧
    maySend (vend sendSt 2) { pseq := 0, src := .bytes [1, 2, 3, 4, 5, 6, 7, 8], units := 1 } = true ∧
    sendHalted sendSt { pseq := 0, src := .bytes [1, 2, 3, 4, 5, 6, 7, 8], units := 1 } = false ∧
    destPaused sendSt 0 = false ∧ (srcBytes sendSt (.bytes [1, 2, 3, 4, 5, 6, 7, 8])).2.2 = none ∧
    ans (exec (.valleyPacketSend 2) sendSt) (fun t => decide ((vend t 2).sends.map (fun k => k.sent.isSome) = [true] ∧ (vend t 2).used = 1)) = true := by
  decide +kernel

/-- A packet for end 2 of eight bytes. -/
def vpkt (vop : BitVec 2) (pseq : BitVec 32) (win : Word := 0) (data : List Byte := [1, 2, 3, 4, 5, 6, 7, 8]) (dgen : BitVec 16 := 1) : VPkt :=
  { vidx := 2, srcdev := 7, dgen := dgen, vop := vop, pseq := pseq, win := win, data := data }

theorem test_ValleyData_2 : liveEnd (vSt { st := .live }) 2 9 = none ∧ pktIs 0 none (vpkt 0 0 0 [] 9) = true ∧
    ans (exec (.streamPacket (vpkt 0 0 0 [1, 2, 3, 4, 5, 6, 7, 8] 9)) (vSt { st := .live })) (fun t => decide (rf t .vlyStat 0 17 17 = 1)) = true ∧
    pktIs 1 (some 0) (vpkt 1 0 0 [] 9) = true ∧ pktIs 1 (some 1) (vpkt 1 0 0x4000000000000000 [] 9) = true ∧
    pktIs 1 (some 2) (vpkt 1 0 0x8000000000000000 [] 9) = true ∧ pktIs 2 none (vpkt 2 0 0 [] 9) = true := by decide +kernel

theorem test_ValleyData_3 : liveEnd (vSt { st := .live, pring := 16, rxbase := 0x4000, rxlog2 := 16 }) 2 1 ≠ none ∧
    ans (exec (.streamPacket (vpkt 0 4)) (vSt { st := .live, rxbase := 0x4000, rxlog2 := 16 })) (fun t =>
      decide ((vend t 2).nextRx = 0 ∧ (vend t 2).gapFor = some 0)) = true ∧
    effLevel ({ st := .frozen, minlvl := 2 } : VEnd) ≠ 3 ∧
    ans (exec (.streamPacket (vpkt 0 0)) (vSt { st := .frozen, minlvl := 2 })) (fun t =>
      decide ((vend t 2).st = .frozen ∧ (vend t 2).nextRx = 1)) = true ∧
    ans (exec (.streamPacket (vpkt 0 0)) (vSt { st := .live, rxbase := 0x4000, rxlog2 := 16 })) (fun t =>
      decide ((vend t 2).nextRx = 1 ∧ (vend t 2).head = 256 ∧ (vend t 2).ring.length = 1 ∧ readByte t.mem 0x4040 = 1)) = true := by
  decide +kernel

/-- Packets of another kind than their end freeze it, whichever cause that gives; one already taken, or before a GAP that was
sent, does nothing. -/
theorem test_ValleyData_6 : pktIs 1 (some 0) (vpkt 1 0) = true ∧ (vpkt 1 0).vop ≠ ({ st := .live } : VEnd).kind ∧
    ((1 : BitVec 32) - 2).toNat ≥ 2 ^ 31 ∧
    gives (exec (.streamPacket (vpkt 0 1)) (vSt { st := .live, nextRx := 2 })) (sawHops (vSt { st := .live, nextRx := 2 }) 2 0) = true ∧
    gives (exec (.streamPacket (vpkt 0 4)) (vSt { st := .live, nextRx := 2, gapFor := some 2 })) (sawHops (vSt { st := .live, nextRx := 2, gapFor := some 2 }) 2 0) = true ∧
    ringSize ({ rxlog2 := 8 } : VEnd) < (({ rxlog2 := 8 } : VEnd).ring.map (·.units)).sum + ringUnits 300 := by decide +kernel

/-- A send waits: its flow is taken over, its destination is paused, its sum is not ready, or the source's channel is halted. -/
theorem test_ValleyData_7 : flowWaits sendSt (.valley 2) = false ∧
    flowWaits { sendSt with eaves := [(2, { takeover := true })] } (.valley 2) = true := by decide +kernel

/-- A WINDOW end 2 over bay addresses 0x8000 and on, writable. -/
def winEnd : VEnd := { st := .live, kind := 1, pdev := 7, wwr := true, wbase := 0x8000, wsize := 1 }

theorem test_ValleyData_4 : windowOk winEnd (vpkt 1 0 (mkWord [(40, 17, 8), (0, 40, 0x10)])) = true ∧
    ans (exec (.put (vpkt 1 0 (mkWord [(40, 17, 8), (0, 40, 0x10)]))) (vSt winEnd)) (fun t => decide (readByte t.mem 0x8011 = 2 ∧
      (vend t 2).nextRx = 1)) = true ∧
    windowOk winEnd (vpkt 1 0 (mkWord [(62, 2, 1), (40, 17, 8), (0, 40, 0x10)]) []) = true ∧
    (devRead (takenPkt (sawHops (vSt winEnd) 2 0) 2) 0x8010 8 (vinAcc (vSt winEnd) 2)).2.2 = none ∧
    ans (exec (.get (vpkt 1 0 (mkWord [(62, 2, 1), (40, 17, 8), (0, 40, 0x10)]) [])) (vSt winEnd)) (fun t =>
      decide ((vend t 2).sends.length = 1)) = true ∧
    ans (exec (.getdata (vpkt 1 0 (mkWord [(62, 2, 2), (40, 17, 8)]))) (vSt winEnd)) (fun t => decide ((vend t 2).nextRx = 1)) = true ∧
    windowOk winEnd (vpkt 1 0 (mkWord [(40, 17, 8), (0, 40, 0xFFC)])) = false ∧
    ans (exec (.put (vpkt 1 0 (mkWord [(40, 17, 8), (0, 40, 0xFFC)]))) (vSt winEnd)) (fun t => decide ((vend t 2).st = .frozen ∧
      (vend t 2).cause = 8)) = true := by decide +kernel

theorem test_ValleyData_5 : pktIs 2 none (vpkt 2 0) = true ∧
    ans (exec (.reducePacket (vpkt 2 0)) (vSt { st := .live, kind := 2, dir := true, rxbase := 0x4000, rxlog2 := 16 })) (fun t =>
      decide ((vend t 2).ring.length = 1)) = true ∧
    ({ st := .live, kind := 2, dir := true, chain := 0x10003, rxbase := 0x4000, rxlog2 := 16 } : VEnd).chain ≠ 0 ∧
    ans (exec (.reducePacket (vpkt 2 0)) (vSt { st := .live, kind := 2, dir := true, chain := 0x10003, rxbase := 0x4000, rxlog2 := 16 })) (fun t =>
      decide ((vend t 2).ring.length = 0)) = true := by decide +kernel

/-- The packet of `sendSt` with its destination's one port paused. -/
def pausedSt : State := rfSet { sendSt with vly := { sendSt.vly with rt := [(0, 0x80000008)] }, ports := [(3, { pause := some 1 })] } .lnkpStat 3 60 4 6

theorem test_ValleyData_8 : destPaused pausedSt 0 = true ∧ gives (exec (.valleyPacketSend 2) pausedSt) pausedSt = true ∧
    gives (exec (.valleyPacketSend 2) { sendSt with eaves := [(2, { takeover := true })] }) { sendSt with eaves := [(2, { takeover := true })] } = true := by
  decide +kernel

/-! ## Reset and bring-up -/

theorem test_ResetAndFeed_1 : ans (exec .standbyUp live) (fun t => decide (t.regs = [] ∧ t.boot.standby = true ∧ t.time.dcnt = 0)) = true ∧
    live.boot.standby = true ∧ live.boot.resetLow = false ∧
    ans (exec .deviceReset { modRaf (rfSet live .pwrFeedf 1 62 2 1) 3 (fun r => { r with st := .run }) with power := { feed1 := { on := true } } }) (fun t =>
      decide ((raf t 3).st = .idle ∧ t.boot.ridgeOn = true ∧ feedState t 1 = 0) && feedClosed t 1 && !feedClosed t 0) = true ∧
    ans (exec .resetRelease { State.reset with boot := { standby := true, resetLow := true } }) (fun t =>
      t.boot.released && t.boot.feedGo && decide (t.boot.feedTry = 1)) = true := by decide +kernel

/-- Reset released, FEED in progress. -/
def feeding : State := { State.reset with boot := { standby := true, released := true, feedGo := true } }

/-- FEED in progress with feed 0's switch closed. -/
def fedSt : State := { rfSet feeding .pwrFeedf 0 62 2 1 with power := { feed0 := { on := true } } }

theorem test_ResetAndFeed_2 : feeding.boot.released = true ∧ feedState feeding 0 = 0 ∧
    ans (exec (.feedSwitchClose 0 4000) feeding) (fun t => decide (feedState t 0 = 1 ∧ rf t .pwrFeedf 0 40 16 = 4000)) = true ∧
    booting feeding = true ∧ bootStep feeding = 1 ∧ feedCause feeding 0 true ≠ 0 ∧
    ans (exec (.feed 0 true 1 2) feeding) (fun t => decide (t.boot.feedWhy = 1 ∧ t.boot.feedGo = false)) = true ∧
    feedCause fedSt 1 true = 0 ∧ feedClosed fedSt 0 = true ∧ (∀ i : Fin 8, (0 : BitVec 8).getLsbD i = true → fedSt.power.phases.getLsbD i = true) ∧
    ans (exec (.feed 1 true 9 2) fedSt) (fun t => decide (bootStep t = 2 ∧ (feedOf t 0).base = 9)) = true ∧
    ans (exec .feedRetry { State.reset with boot := { standby := true, released := true } }) (fun t => t.boot.feedGo) = true := by
  decide +kernel

theorem test_RidgeAndImage_1 : booting (boot 2 0) = true ∧ bootStep (boot 2 0) = 2 ∧
    ans (exec (.ridge false none true) (boot 2 0)) (fun t => decide (rf t .sysState 0 0 2 = 2 ∧ rf t .bootStat 0 40 8 = 1)) = true ∧
    ans (exec (.ridge true (some 77) true) (boot 2 0)) (fun t => decide (rf t .bootStat 0 40 8 = 2 ∧ rf t .bootStat 0 24 16 = 77)) = true := by
  decide +kernel

/-- The host port up at IMAGE, with an image of 8 zero bytes fetched whole. -/
def imgSt : State := setFetch (rfSet (boot 3 1) .lnkpStat 12 60 4 6) 16 (some { addr := 0, len := 8, asked := 8, parts := [(0, List.replicate 8 0)] })

/-- The same with 4 of the 8 bytes yet to come. -/
def partSt : State := setFetch imgSt 16 (some { addr := 0, len := 8, asked := 8, parts := [(0, [0, 0, 0, 0])] })

/-- An image of zeros has no magic number: check 0x10 fails. That an image passes every check rests on the signature, which
is an open function of the configuration, so no closed state is shown to pass. -/
theorem test_RidgeAndImage_2 : attended (boot 3 1) = true ∧ bootPhase (boot 3 1) = 1 ∧ portUp imgSt 12 = true ∧
    (fetchFor imgSt 16).map (fun x => decide ((fetchBytes x).length = x.len)) = some true ∧
    imageCheck (setFetch imgSt 16 none) (hostRead (List.replicate 8 0)) true = some (0x10, some 0) ∧
    ans (exec (.image 63) imgSt) (fun t => decide (bootPhase t = 0 ∧ rf t .bootStat 0 40 8 = 0x10)) = true ∧
    portUp (boot 3 1) 12 = false ∧ fetchFor (setFetch imgSt 16 none) 16 = none ∧
    ans (exec (.image 31) (rfSet (setFetch imgSt 16 none) .bootLsrc 0 0 64 0x7000)) (fun t =>
      decide (bootPhase t = 1 ∧ t.host.mrds.map (fun m => (m.addr, m.len)) = [(0x7000, 32), (0x7020, 32)])) = true ∧
    (fetchFor partSt 16).map (fun x => decide ((fetchBytes x).length ≠ x.len)) = some true ∧
    ans (exec (.image 31) partSt) (fun t => decide (t = partSt)) = true ∧
    attended (rfSet (boot 3 1) .bootStat 0 57 1 0) = false ∧
    (imageCheck (rfSet (boot 3 1) .bootStat 0 57 1 0) (slotRead (rfSet (boot 3 1) .bootStat 0 57 1 0) 0) false).map Prod.fst = some 0x10 ∧
    ans (exec (.image 63) (rfSet (boot 3 1) .bootStat 0 57 1 0)) (fun t => decide (rf t .bootStat 0 40 8 = 0x18)) = true := by decide +kernel

/-- TRUSS in its action, with the sixteen Truss courses LIVE. -/
def trussSt : State := (List.range 16).foldl (fun s k => rfSet s .pwrqVstat (64 + k) 61 3 3) (boot 4 1)

theorem test_BringupSteps_1 : inAction trussSt 4 = true ∧ coursesBusy trussSt = false ∧
    (∀ k, k < 16 → rf trussSt .pwrqVstat (64 + k) 61 3 = 3) ∧ (∀ e, e < 4 → (eavesOf trussSt e).lost = false) ∧
    trussSt.boot.sticky = [] ∧ weakTruss trussSt = none ∧
    ans (exec (.truss { eavesUp := 0 }) trussSt) (fun t => decide (rf t .bootStat 0 40 8 = 0x20)) = true ∧
    ans (exec (.eavesTrainTimeout 1) trussSt) (fun t => (eavesOf t 1).lost) = true := by decide +kernel

/-- SPAR in its action, with every Thatch course LIVE. -/
def sparSt : State := (List.range 64).foldl (fun s k => rfSet s .pwrqVstat k 61 3 3) (boot 5 1)

theorem test_BringupSteps_2 : inAction sparSt 5 = true ∧ coursesBusy sparSt = false ∧
    (∀ q, q < 64 → rf sparSt .pwrqVstat q 61 3 = 3 ∨ rf sparSt .pwrqVstat q 61 3 = 4) := by decide +kernel

/-- LINK in its action, with every fabric port in UP. -/
def linkSt : State := (List.range 12).foldl (fun s p => rfSet s .lnkpStat p 60 4 6) (boot 7 1)

/-- HBM in its action, with every stack trained by RFW. -/
def trainedSt : State := (List.range 8).foldl (fun s k => setStack s k { trained := true }) (boot 6 1)

theorem test_BringupSteps_3 : inAction (boot 6 1) 6 = true ∧ (stack (boot 6 1) 2).trained = false ∧
    ans (exec (.firmwareTraining 2 3) (boot 6 1)) (fun t => decide (rf t .bootStat 0 40 8 = 0x30 ∧ rf t .bootStat 0 24 16 = 2)) = true ∧
    ans (exec .hbm trainedSt) (fun t => decide (bootPhase t = 2) && (stack t 7).trained) = true ∧
    inAction linkSt 7 = true ∧ (∀ p, p < 12 → portState linkSt p = 6) ∧
    ans (exec .link linkSt) (fun t => decide (bootPhase t = 2)) = true ∧
    ans (exec .linkStepTimeout (boot 7 1)) (fun t => decide (bootPhase t = 2)) = true ∧
    inAction (boot 8 1) 8 = true ∧ ans (exec .qualify (boot 8 1)) (fun t => decide (bootPhase t = 2)) = true ∧
    inAction (boot 10 1) 10 = true := by decide +kernel

/-- A bay's bad lines are mapped to its spare lines. -/
theorem test_BringupSteps_6 : (linesNeeded trussSt { eavesUp := 15, badLines := [(9, 4)] } 9).length ≤ 512 ∧
    (repairLines trussSt { eavesUp := 15, badLines := [(9, 4)] } 9).boot.lineMap = [(9, [4])] := by decide +kernel

/-- LOAD in its action: one program for rafter 3, of 8 bytes. -/
def loadSt (staged : List Nat) (cast : Nat) (marked : Bool) : State :=
  let s := boot 9 1
  { s with boot := { s.boot with progs := [{ sect := 2, mask := 8, pre := [], bytes := [1, 2, 3, 4, 5, 6, 7, 8], digest := 0 }],
                                 staged := staged, cast := cast, marked := marked, loadAt := staged.length } }

theorem test_LoadAndStageList_1 : inAction (loadSt [] 0 false) 9 = true ∧ loadStaged (loadSt [] 0 false) = false ∧ loadStaged (loadSt [0x5000] 0 false) = true ∧ loading (loadSt [] 0 false) = [3] ∧
    (progOf (loadSt [] 0 false) 3).isSome = true ∧ (allPieces (loadSt [0x5000] 0 false))[0]? = some (0, 0) ∧
    ans (exec (.pieceBroadcast [4]) (loadSt [0x5000] 0 false)) (fun t => decide (t.boot.cast = 1)) = true ∧
    (allPieces (loadSt [0x5000] 1 false)).length ≤ 1 ∧
    (unverified (loadSt [0x5000] 1 true)).contains 3 = true ∧
    ans (exec (.repairRoundDone 3 false) { loadSt [0x5000] 1 true with boot := { (loadSt [0x5000] 1 true).boot with
      loaders := [(3, { have_ := [0] })] } }) (fun t => decide ((tget {} t.boot.loaders 3).rounds = 1)) = true ∧
    ans (exec (.repairRoundDone 3 false) { loadSt [0x5000] 1 true with boot := { (loadSt [0x5000] 1 true).boot with
      loaders := [(3, { have_ := [0], rounds := 2 })] } }) (fun t => retired t 3) = true := by decide +kernel

/-- An autonomous device at step 4 with one stage-list entry. -/
def stageSt (e : StageEnt) (u : Option Word) : State :=
  let s := rfSet (boot 4 0) .bootStat 0 57 1 0
  { s with boot := { s.boot with stages := [e], until_ := u, data := wordsBytes [7, 8] } }

/-- An entry for step 4 on VLY_EIDX. -/
def sEnt (op : Byte) (value mask : Word := 0) (tmo count : BitVec 32 := 0) : StageEnt :=
  { op := op, step := 4, post := false, addr := adr .vlyEidx, value := value, mask := mask, tmo := tmo, count := count }

theorem test_LoadAndStageList_2 : booting (stageSt (sEnt 1 9) none) = true ∧ curEntry (stageSt (sEnt 1 9) none) = some (sEnt 1 9) ∧
    ans (exec .write (stageSt (sEnt 1 9) none)) (fun t => decide (rg t .vlyEidx = 9)) = true ∧
    ans (exec .rmw (rgSet (stageSt (sEnt 2 9 0xF) none) .vlyEidx 0 0 0x36)) (fun t => decide (rg t .vlyEidx = 0x39)) = true ∧
    ans (exec .wait (stageSt (sEnt 3 9 0xF 5) none)) (fun t => decide (t.boot.until_ = some 5000)) = true ∧
    ans (exec .delay (stageSt (sEnt 4 0 0 5) none)) (fun t => decide (t.boot.until_ = some 5000)) = true ∧
    ans (exec .block (stageSt (sEnt 5 0 0 0 2) none)) (fun t => decide (rg t .vlyEidx = 8)) = true ∧
    ans (exec .copy (rgSet (stageSt (sEnt 6 0xF000000000 0xFF) none) .vlyEidx 0 0 1)) (fun t => decide (t.boot.pos = 1)) = true := by
  decide +kernel

theorem test_LoadAndStageList_3 : (stageSt (sEnt 3 9 0xF 5) (some 5000)).boot.until_ = some 5000 ∧
    ans (exec .waitMet (rgSet (stageSt (sEnt 3 9 0xF 5) (some 5000)) .vlyEidx 0 0 9)) (fun t => decide (t.boot.pos = 1 ∧ t.boot.until_ = none)) = true ∧
    ans (exec .stageTimeout (stageSt (sEnt 3 9 0xF 5) (some 5000))) (fun t => decide (rf t .bootStat 0 40 8 = 0x23)) = true ∧
    ans (exec .delayEnd (stageSt (sEnt 4 0 0 5) (some 5000))) (fun t => decide (t.boot.pos = 1 ∧ t.time.dcnt = 5000)) = true := by
  decide +kernel


/-! ## Security, sideband and scan -/

/-- A record of zeros names no operation: result 2 (R502). -/
def provSt (ws : List (Nat × Word)) (f : Fuses := {}) : State :=
  { boot 4 0 with sec := { prov := ws }, fuses := f }

theorem test_SecurityEngine_1 : sealed (provSt []) = false ∧ bitOf (0x8000000000000000 : Word) 63 = true ∧ (provSt []).sec.busy = none ∧
    provCheck (provSt []) = 2 ∧
    ans (exec (.provisioningGo .stage 0x8000000000000000) (provSt [])) (fun t => decide (rf t .secStat 0 32 8 = 2)) = true ∧
    provCheck (provSt [(0, 1), (1, 5)]) = 3 ∧
    ans (exec (.provisioningGo .stage 0x8000000000000000) (provSt [(0, 1), (1, 5)])) (fun t => decide (rf t .secStat 0 32 8 = 3)) = true := by
  decide +kernel

/-- A record to provision slot 1, in a device whose root hash is that of the record's root key. -/
def goodProv : State :=
  let s := provSt [(0, 0x101)]
  { s with fuses := { s.fuses with rootHash := digestOf (recBytes s 0xA0 136) } }

/-- That every check passes rests on the signature, an open function of the configuration. -/
theorem test_SecurityEngine_2
    (h : Config.ecdsaVerify (recBytes goodProv 0xA0 136) (sha512 (recBytes goodProv 0 0xA0)) (recBytes goodProv 0x128 136) = true) :
    provCheck goodProv = 1 := by
  have h1 : bytesNat (recBytes goodProv 0 1) = 1 := by decide +kernel
  have h2 : bytesNat (recBytes goodProv 1 1) = 1 := by decide +kernel
  have h3 : bytesNat (recBytes goodProv 2 6) = 0 := by decide +kernel
  have h4 : bytesNat (recBytes goodProv 8 16) = goodProv.fuses.serial.toNat := by decide +kernel
  have e : recBytes goodProv 0xA0 136 = recBytes (provSt [(0, 0x101)]) 0xA0 136 := by decide +kernel
  have h5 : digestOf (recBytes goodProv 0xA0 136) = goodProv.fuses.rootHash := by
    rw [e]; show _ = digestOf (recBytes (provSt [(0, 0x101)]) 0xA0 136); rfl
  have h6 : (goodProv.fuses.owned.getLsbD 1 || goodProv.fuses.revoked.getLsbD 1 || goodProv.fuses.partly.getLsbD 1) = false := rfl
  have h7 : goodProv.fuses.owned.getLsbD 1 = false := rfl
  have h8 : goodProv.fuses.revoked.getLsbD 1 = false := rfl
  have h9 : goodProv.fuses.partly.getLsbD 1 = false := rfl
  simp only [provCheck, h1, h2, h3, h4, h5, h, h7, h8, h9]
  simp

theorem test_SecurityEngine_3 :
    ans (exec .provisioningDone { provSt [] with sec := { busy := some (1, 2, 77) } }) (fun t => decide (t.fuses.owned = 4 ∧
      tget 0 t.fuses.owners 2 = 77 ∧ t.sec.busy = none ∧ rf t .secStat 0 58 4 = 4 ∧ rf t .secStat 0 32 8 = 1)) = true ∧
    ans (exec .provisioningDone { provSt [] with sec := { busy := some (2, 2, 77) } }) (fun t => decide (t.fuses.revoked = 4 ∧
      rf t .secStat 0 54 4 = 4)) = true ∧
    rf (rfSet live .secIdidx 0 0 6 33) .secIdidx 0 0 6 < 34 ∧
    ans (exec (.secIddataRead .stage) { rfSet live .secIdidx 0 0 6 33 with fuses := { idPub := [(33, 9)] } }) (fun t =>
      decide (t.rdata = 9 ∧ rf t .secIdidx 0 0 6 = 34)) = true := by decide +kernel

/-- ATTEST on ring 3, to a page of host memory. -/
def attEnt : Entry := ent 0x50 0 1 2 3 4 0x7000

theorem test_SecurityEngine_4 : ringTakes (rfSet ringAt .secStat 0 63 1 1) 3 attEnt 0x50 = true ∧ fld attEnt.w5 0 12 = 0 ∧
    (rfSet ringAt .secStat 0 63 1 1).sec.attest = none ∧
    ans (exec (.attest 3 attEnt) (rfSet ringAt .secStat 0 63 1 1)) (fun t => t.sec.attest.isSome) = true ∧
    ringTakes (rfSet ringAt .secStat 0 63 1 0) 3 attEnt 0x50 = true ∧ rbit (rfSet ringAt .secStat 0 63 1 0) .secStat 0 63 = false ∧
    ans (exec (.attest 3 attEnt) (rfSet ringAt .secStat 0 63 1 0)) (fun t => decide (lastStatus t = 4 ∧ t.sec.attest = none)) = true := by
  decide +kernel

theorem test_SecurityEngine_5 : inService live = true ∧ stopped live = false ∧ live.flash.waiting = [] ∧
    gives (exec .trainingSaveWrite { live with flash := { waiting := [{ cause := 4, time := 5 }] } }) { live with flash := { waiting := [{ cause := 4, time := 5 }] } } = true ∧
    rollCount { live with sec := { roll := 2 } } < ({ live with sec := { roll := 2 } } : State).sec.roll ∧
    ans (exec (.rollbackBitBlown 1) { live with sec := { roll := 2 }, fuses := { rollA := 5 } }) (fun t => decide (t.fuses.rollA = 5 ∧ t.fuses.rollB = 2 ∧
      rollCount t = 3 ∧ rf t .secStat 0 43 7 = 3)) = true ∧
    3 ≤ bootStep live ∧ ({ live with sec := { bad := 6 } } : State).sec.bad < 7 ∧ ({ live with sec := { bad := 7 } } : State).sec.bad = 7 := by
  decide +kernel

/-- A device with a read fault record in the sideband's buffer. -/
def sideSt (x : SideSt := {}) : State := { live with side := x }

theorem test_SidebandAndScan_1 : (sideSt {}).boot.standby = true ∧
    ans (exec (.sidebandRefresh 1 2 3 4) (rfSet (rfSet (rfSet (rfSet live .pwrFeedf 0 40 16 5000) .vlyDevid 0 0 16 9) .pwrFeedf 0 62 2 1) .pwrFeedf 1 62 2 2)) (fun t =>
      decide (t.side.temps = [1, 2, 3, 4] ∧ t.side.feed0 = 5000 ∧ t.side.dev = 9 ∧ t.side.status = 0x88)) = true ∧
    ans (exec .smbStatus (sideSt { status := 0x90 })) (fun t => decide (t.side.answer = [0x90])) = true ∧
    ans (exec .smbStatus (sideSt { status := 0x90, record := [1], recSeq := 6, readSeq := some 5 })) (fun t => decide (t.side.answer = [0x91])) = true ∧
    ans (exec .smbFeedCause (sideSt { cause := 3 })) (fun t => decide (t.side.answer = [3])) = true ∧
    ans (exec .smbFeedAttempts (sideSt { tries := 0x102 })) (fun t => decide (t.side.answer = [2, 1])) = true ∧
    ans (exec .smbFeed0Voltage (sideSt { feed0 := 0x102 })) (fun t => decide (t.side.answer = [2, 1])) = true ∧
    ans (exec .smbFeed1Voltage (sideSt { feed1 := 0x102 })) (fun t => decide (t.side.answer = [2, 1])) = true ∧
    ans (exec .smbModulePower (sideSt { power := 0x102 })) (fun t => decide (t.side.answer = [2, 1])) = true ∧
    ans (exec .smbDeviceId (sideSt { dev := 0x102 })) (fun t => decide (t.side.answer = [2, 1])) = true ∧
    ans (exec .smbTemperatures (sideSt { temps := [1, 2, 3, 4] })) (fun t => decide (t.side.answer = [1, 0, 2, 0, 3, 0, 4, 0])) = true ∧
    ans (exec .smbFru (sideSt { fru := [(32, 7)], block := 1 })) (fun t => decide (t.side.answer.head? = some 7)) = true := by decide +kernel

theorem test_SidebandAndScan_2 : (sideSt { record := List.replicate 128 6, block := 3 }).side.record ≠ [] ∧
    ans (exec .smbFaultRecord (sideSt { record := List.replicate 128 6, block := 3, recSeq := 8 })) (fun t =>
      decide (t.side.answer = List.replicate 32 6 ∧ t.side.readSeq = some 8)) = true ∧
    ans (exec .smbFaultRecord (sideSt {})) (fun t => decide (t.free = 4)) = true ∧
    ans (exec (.smbBlockSelect 63) (sideSt {})) (fun t => decide (t.side.block = 63 ∧ t.free = 0)) = true ∧
    ans (exec .bypass (sideSt {})) (fun t => decide (t.side.ir = .bypass)) = true ∧
    ans (exec .idcode (sideSt { ir := .bypass })) (fun t => decide (t.side.ir = .idcode ∧ t.side.tdo = 0x1A707A9F)) = true ∧
    ans (exec .samplePreload (sideSt {})) (fun t => decide (t.side.ir = .samplePreload)) = true ∧
    ans (exec .extest (sideSt {})) (fun t => decide (t.side.ir = .bypass)) = true ∧
    ans (exec .extest { live with boot := { live.boot with resetLow := true } }) (fun t => decide (t.side.ir = .extest)) = true ∧
    ans (exec .clamp { live with boot := { live.boot with resetLow := true } }) (fun t => decide (t.side.ir = .clamp)) = true ∧
    ans (exec .highz { live with boot := { live.boot with resetLow := true } }) (fun t => decide (t.side.ir = .highz)) = true := by decide +kernel

/-! ## Notices, invariants and the rules stated whole -/

/-- The notice ring open, of 1,024 slots. -/
def ringOpenSt : State := rgSet (rfSet live .lnkpStat 12 60 4 6) .monNctl 0 0 (mkWord [(63, 1, 1), (58, 5, 10)])

theorem test_NoticesAndCounters_1 : stopped { live with stop := { failStop := some 4 } } = true ∧
    stopped (boot 4 0) = false ∧ sealed (boot 4 0) = false ∧ (boot 4 0).notices.held.length < 255 ∧
    (accessNotice (boot 4 0) .stage 2 9 8).notices.held.length = 1 ∧
    stopped ringOpenSt = false ∧ sealed ringOpenSt = true ∧ ringOpen ringOpenSt = true ∧ ringOpenSt.notices.dropFirst = none ∧
    rbit ringOpenSt .monLctl 0 63 = false ∧ (accessNotice ringOpenSt .stage 2 9 8).host.tx.length = 2 ∧
    rf (accessNotice ringOpenSt .stage 2 9 8) .monNtail 0 0 16 = 1 := by decide +kernel

/-- Select 31 of the counters without unit counts source 0x203 of port 3. -/
def selSt : State := rgSet live .monRselk 31 0 (mkWord [(63, 1, 1), (16, 16, 3), (0, 10, 0x203)])

theorem test_NoticesAndCounters_2 : rbit (rfSet live .monCtl 0 63 1 1) .monCtl 0 63 = true ∧ rbit selSt .monCtl 0 63 = false ∧
    rbit selSt .monRselk 31 63 = true ∧ rf selSt .monRselk 31 0 10 = 0x203 ∧ rf selSt .monRselk 31 16 16 = 3 ∧
    rf selSt .monRcntk 31 0 48 + 1 < 2 ^ 48 ∧ rf (countG selSt 0x203 3 1) .monRcntk 31 0 48 = 1 := by decide +kernel

theorem test_EveryStepKeeps : ans (step { live with pending := [.bypass, .idcode] }) (fun t =>
      decide (t.pending = [.idcode])) = true ∧ Memory.wf live.mem = true := by decide +kernel

theorem test_HandleGenerations : (ses (sesSt { st := .closing, wb := false }) 5).st = .closing ∧
    ans (exec (.sessionPagesReleased 5) (sesSt { st := .closing, wb := false })) (fun t => decide ((ses t 5).st = .free ∧ (ses t 5).gen = 2)) = true ∧
    ans (exec (.sessionPagesReleased 5) (setSes live 5 { st := .closing, gen := 4095 })) (fun t => decide ((ses t 5).gen = 1)) = true ∧
    sesOfHandle (sesSt { st := .parked }) 0x100005 = some 5 ∧ sesOfHandle (sesSt { st := .free }) 0x100005 = none ∧
    sesOfHandle (sesSt { st := .parked }) 0x200005 = none ∧
    ringTakes (sesSt {}) 3 (ent 2 0x200005 0x1000 2) 2 = true ∧ ringTakes (sesSt {}) 3 (ent 3 0x200005) 3 = true ∧
    ringTakes (sesSt {}) 3 (ent 4 0x200005) 4 = true ∧ ringTakes (sesSt {}) 3 (ent 5 0x200005) 5 = true ∧
    ringTakes (sesSt {}) 3 (ent 6 0x200005) 6 = true := by decide +kernel

/-- Course 5 LIVE with two failed cells; rafter 18 powered by it, with a store. -/
def twoCells : State := modRaf (rfSet (rfSet live .pwrqVstat 5 61 3 3) .pwrqVstat 5 27 8 3) 18 fun r => { r with st := .run, store := [(0, 1)] }

theorem test_DarkCourseLosesRafters : cellCourse 35 = (5, 5) ∧ failedCells twoCells 5 = 2 ∧ rbit twoCells .pwrqVstat 5 32 = false ∧
    rf twoCells .pwrqVstat 5 61 3 = 3 ∧ courseOf twoCells 18 = 5 ∧ retired twoCells 18 = false ∧
    ans (exec (.cellFailure 35 1) twoCells) (fun t => courseDark t 5 && decide ((raf t 18).st = .retired ∧ (raf t 18).store = [])) = true := by
  decide +kernel

/-- A device whose grade's ceiling is 850 mV and whose floor threshold is 100 °C. -/
def floorSt : State := rgSet (rgSet live .thmTlim 0 0 (mkWord [(48, 8, 95), (40, 8, 100), (32, 8, 110)])) .pwrCtl 0 0 (mkWord [(28, 10, 850)])

theorem test_FloorClampsCourse : rbit floorSt .thmqStat 7 15 = false ∧ tlim floorSt 40 ≤ 400 ∧
    rf (judgeCourse floorSt 7 400 0) .pwrqVctl 7 28 10 = 550 ∧ rbit (judgeCourse floorSt 7 399 0) .thmqStat 7 15 = false ∧
    rbit (rfSet floorSt .thmqStat 7 15 1 1) .thmqStat 7 15 = true ∧
    rf (judgeCourse (rfSet floorSt .thmqStat 7 15 1 1) 7 392 0) .pwrqVctl 7 28 10 = 850 ∧
    rf (judgeCourse (rfSet floorSt .thmqStat 7 15 1 1) 7 393 0) .pwrqVctl 7 28 10 = rf floorSt .pwrqVctl 7 28 10 ∧
    550 < rf (rfSet floorSt .pwrqVstat 7 48 10 700) .pwrqVstat 7 48 10 ∧ tickVset (rfSet floorSt .pwrqVstat 7 48 10 700) 7 550 false = 690 := by
  decide +kernel

theorem test_PortTrainsToLowerLevel : portActs (portSt 2 0) 3 = true ∧ 1 ≤ rf (rfSet (portSt 2 0) .lnkpCtl 3 61 2 3) .lnkpCtl 3 61 2 ∧
    ans (exec (.level 3 5 1 7 4) (rfSet (portSt 2 0) .lnkpCtl 3 61 2 3)) (fun t => decide (portLevel t 3 = 1)) = true ∧
    ans (exec (.level 3 5 3 7 4) (rfSet (portSt 2 0) .lnkpCtl 3 61 2 2)) (fun t => decide (portLevel t 3 = 2)) = true ∧
    rf (portSt 5 2) .lnkpStat 3 0 8 = lanesOf (portLevel (portSt 5 2) 3) ∧ (∀ l, l < 8 → laneGood (portSt 5 2) 3 l = true) ∧
    ans (exec (.qual 3) (portSt 5 2)) (fun t => portUp t 3 && rbit t .lnkpRxqCtl 3 25) = true ∧
    ans (exec (.qual 3) (portSt 5 3)) (fun t => portUp t 3 && !rbit t .lnkpRxqCtl 3 25) = true := by decide +kernel

theorem test_ResetState : rg State.reset .bootStat = regReset .bootStat 0 ∧ bootStep State.reset = 1 ∧
    ans (step State.reset) (fun t => decide (t = State.reset)) = true ∧ live.boot.ridgeOn = true ∧
    ans (step live) (fun t => decide (t.time.dcnt = 1)) = true ∧ (∀ w, decodeTableWord 64 w = none) := by
  refine ⟨rfl, by decide +kernel, by decide +kernel, rfl, by decide +kernel, fun _ => rfl⟩

/-! ## More of bring-up -/

theorem test_BringupSteps_4 : ans (exec (.truss { eavesUp := 15, badLines := [(9, 4)] }) { trussSt with boot := { trussSt.boot with pairs := ~~~0x200#264 } }) (fun t => decide (t.boot.lineMap = [(9, [4])]) &&
       decide (bootPhase t = 2) && (eavesOf t 3).up) = true ∧
    ans (exec (.spar { badSlates := [(3, 1)] }) sparSt) (fun t => decide (bootPhase t = 2 ∧ t.boot.slates = [(3, 1)])) = true := by
  decide +kernel

theorem test_BringupSteps_5 : sealBad (boot 10 1) ≠ none ∧
    ans (exec .seal (boot 10 1)) (fun t => decide (rf t .bootStat 0 40 8 = 0x50 ∧ bootPhase t = 0)) = true := by decide +kernel


/-! ## The commands not tried above -/

/-- What the swept banks hold is open, so only the hypotheses are evaluated here. -/
theorem test_SlateSweepEnd : (raf (modRaf live 3 fun r => { r with sweep := some 2 }) 3).st = .idle ∧
    (raf (modRaf live 3 fun r => { r with sweep := some 2 }) 3).sweep = some (2 : Fin 8).val := by decide +kernel

theorem test_HousekeepingLapEnd :
    ans (exec .housekeepingLapEnd { boot 4 0 with heat := { next := 1024, lap := 3 } }) (fun t =>
      decide (t.heat.next = 0 ∧ t.heat.lap = 4 ∧ t.time.dcnt = 4 * 2048000)) = true := by decide +kernel

theorem test_HbmWindowBoundary : ans (exec (.hbmWindowBoundary 2) (setStack live 2 { window := 4096, bytes := [(3, 256)] })) (fun t =>
      decide ((stack t 2).window = 5120 ∧ (stack t 2).bytes = [] ∧ (stack t 2).prev = 8)) = true := by decide +kernel

theorem test_SectorEraseDone : ans (exec .sectorEraseDone { live with flash := { erasing := some 1, bytes := [(0x10FFF, 1), (0x11000, 2), (0x11FFF, 3), (0x12000, 4)] } }) (fun t =>
      decide (t.flash.bytes = [(0x10FFF, 1), (0x12000, 4)] ∧ t.flash.erasing = none)) = true := by decide +kernel

theorem test_BayDrainComplete : ans (exec (.bayDrainComplete 3) (rfSet live .baybStat 3 62 2 2)) (fun t => decide (bayState t 3 = 2)) = true := by
  decide +kernel

/-- A log from bay address 0 on, with bay 31, which holds its last word, retired. -/
def logRetired : State := rfSet (finishRetire live 31) .monLidx 0 0 14 16383

theorem test_RegisterReads_log : isBay (logBase logRetired) = true ∧ retired logRetired (bayOf (logBase logRetired + 8 * 16383)) = true ∧
    ans (exec (.monLdataRead .stage) logRetired) (fun t => decide (rf t .monLidx 0 0 14 = 0)) = true := by decide +kernel

/-- A group FIRST on rafter 3, with a token's size. -/
def lgGood : List Byte := wordsBytes [0xC000000000000000, 8, 0, 0, 0, 1024, 0, 0]

theorem test_ShardLoadTable : lgBad (lgOf (bytesWords lgGood 8)) = false ∧
    ans (exec (.shardLoadTable 3 (ent 0x10 0 0x1000 16383 64 1) 4095) (got lgGood ringAt)) (fun t =>
      decide (lastStatus t = 0 ∧ (lgrp t 16383).tokkv = 1024 ∧ (lgrp t 16383).rafters = 8)) = true := by decide +kernel

theorem test_AttestReportDone : (({ ringAt with sec := { attest := some { ring := 3, cmdid := 7, nonce := 1, dest := 0x7000 } } } : State).sec.attest).isSome = true := by
  decide +kernel

/-- The reply of a bad record is a packet of open size; a record for no session that arrives is dropped. -/
theorem test_FinalCommitRecord : ans (exec (.finalCommitRecord 2) (migEnd 32 live)) (fun t => decide ((vend t 2).ring = [])) = true := by
  decide +kernel

theorem test_Seal : sealBad (rfSet (rfSet (boot 10 1) .vlyDevid 0 0 16 9) .secStat 0 62 1 1) = none ∧
    ans (exec .seal (rfSet (rfSet (boot 10 1) .vlyDevid 0 0 16 9) .secStat 0 62 1 1)) (fun t => inService t && rbit t .sesStat 0 63) = true := by
  decide +kernel

/-- The end mark with the digest of one block of zeros unmatched: the rafter's image is not verified. -/
theorem test_EndMark : ans (exec .endMark { loadSt [0x5000] 1 false with mem := [] }) (fun t => t.boot.marked) = true := by decide +kernel

/-- The section of one program as the host's image holds it: a prefix of 64 bytes and the program's. -/
def sectBytes : List Byte := List.replicate 64 0 ++ [1, 2, 3, 4]

/-- LOAD in its action, attended, the section fetched as `got`. -/
def loadGot (got : List Byte) : State :=
  let s := setFetch (boot 9 1) 17 (some { addr := 0, len := 68, asked := 68, parts := [(0, got)] })
  { s with boot := { s.boot with progs := [{ sect := 2, mask := 8, pre := [], bytes := [0, 0, 0, 0], digest := digestOf sectBytes }] } }

/-- A section is staged as LOAD reads it now, and one that has changed since its digest was signed ends the step. -/
theorem test_Load : ans (exec .load (loadGot sectBytes)) (fun t => decide (t.boot.staged.length = 1 ∧ (progAt t 0).bytes = [1, 2, 3, 4])) = true ∧
    (fetchBytes { addr := 0, len := 68, asked := 68, parts := [(0, sectBytes)] }).length = 68 ∧
    ans (exec .load (loadGot (sectBytes.take 67 ++ [9]))) (fun t => decide (rf t .bootStat 0 40 8 = 0x40)) = true := by decide +kernel

/-- A bad piece is written again from its section once. -/
theorem test_LoadAndStageList_4 :
    (devRead (setSyn (loadSt [0x5000] 0 false) 0x5000 poisonSyn) (stageAddr (setSyn (loadSt [0x5000] 0 false) 0x5000 poisonSyn) 0 0)
      (pieceBytes (progAt (loadSt [0x5000] 0 false) 0) 0).length {}).2.2.isSome = true ∧
    (readPiece (setSyn (loadSt [0x5000] 0 false) 0x5000 poisonSyn) 0 0).1.boot.rewrote = [(0, 0)] := by decide +kernel


/-! ## An ill-formed command for each check of WellFormed, and that its meaning refuses it -/

/-- A command that the check refuses, and its meaning with it. -/
def bad (c : Instr) : Bool := !wellFormed c && illFormed (exec c live)

theorem test_illFormed_words : bad (.add (.seq 3) 0x1010000000000000) = true ∧ bad (.beq (.seq 3) 0x1000000000000000) = true ∧
    bad (.ylaunch (.seq 3) 0x1000000000000000) = true ∧ bad (.fadd (.thr 3 1) 0x8010000000000000) = true ∧
    wellFormed (.add (.seq 3) 0x1000000000000000) = true ∧ wellFormed (.fadd (.thr 3 1) 0x8000000000000000) = true ∧
    assigned 0 = false ∧ wellFormed (.add (.seq 3) 0) = true := by decide +kernel

theorem test_illFormed_entries : bad (.sesRun 3 (ent 4)) = true ∧ bad (.sesAppend 3 (ent 3 0 0 5) 4095) = true ∧
    bad (.shardLoadData 3 (ent 0x10 0 0 0 1 1) 4095) = true ∧ bad (.shardLoadTable 3 (ent 0x10 0 0 0 1 0) 4095) = true ∧
    bad (.thawRafter 3 (ent 0x40 0 0x4000000000000000)) = true ∧ bad (.retireValley 3 (ent 0x41 0 0)) = true ∧
    bad (.illegalOp 3 (ent 0x50)) = true ∧ wellFormed (.thawRafter 3 (ent 0x40 0 0xC000000000000000)) = true ∧
    wellFormed (.illegalOp 3 (ent 0x51)) = true := by decide +kernel

theorem test_illFormed_requests : bad (.subarrayAccess 3 0 (some { addr := 0x3004, op := .writeWords [1], org := .seq 3 }) none) = true ∧
    bad (.subarrayAccess 3 0 none (some { addr := 0x30FF, op := .writeBytes [1, 2], org := .seq 3 })) = true ∧
    bad (.purlinFlitArrival 5 { dst := .bay 12, req := { addr := 0x3001, op := .atomicAdd 1, org := .seq 3 } }) = true ∧
    bad (.hbmRequestAccept 0 { addr := 0x40, write := false, org := .seq 3 }) = true ∧
    bad (.hbmRequestAccept 0 { addr := 0x1000000000, write := true, org := .seq 3 }) = true ∧
    bad (.cacheFillReturn 3 [1] 0) = true := by decide +kernel

theorem test_illFormed_rest : bad (.registerWrite .host (adr .vlyEidx) 3 0) = true ∧ bad (.cellFailure 7 0) = true ∧
    bad (.frameReceived 3 { words := [], tag := 0 }) = true ∧
    bad (.mcpl 3 (List.replicate 4097 0) false) = true ∧ bad (.streamPacket (vpkt 1 0)) = true ∧
    bad (.get (vpkt 1 0 (mkWord [(62, 2, 2)]))) = true := by decide +kernel


/-! ## Witnesses for the clauses on what waits, on what is held, and on what is taken over -/

/-- A pass of group 7 with one row of slot 5 under tag 9, bound to a fault, and the gate slot of that row. -/
def boundSt (s : State) : State :=
  let row : PRow := { slot := 5, handle := 0x100005, nrows := 1, rowIx := 0, tag := some 9 }
  let pass : Pass := { id := 1, group := 7, fill := 1, rows := [row], targets := [], rep := 3, repSlot := 0, bound := true }
  let slot : GSlot := { tag := 9, pass := 1, rblk := 0x10000, j := 0, expert := 3, table := 0, sess := 5, handle := 0x100005, cls := 0, st := .remote }
  { s with ses := { s.ses with passes := [pass] }, gate := { s.gate with slots := [slot] } }

/-- A command on a session bound to a fault waits; on one that is not it does not. -/
theorem test_RingRefusals_4 : boundSlots (boundSt (sesSt { st := .parked })) = [5] ∧
    namesBound (boundSt (sesSt { st := .parked })) 4 (ent 4 h5) = true ∧ namesBound (sesSt { st := .parked }) 4 (ent 4 h5) = false ∧
    gives (exec (.sesPark 3 (ent 4 h5)) (boundSt (sesSt { st := .parked }))) (boundSt (sesSt { st := .parked })) = true ∧
    early (rfSet (boot 3 0) .sysState 0 0 2 2) 0x30 (ent 0x30) = none ∧ early (boot 3 0) 0x30 (ent 0x30) = some 1 := by decide +kernel

/-- PARK of a session whose older page is still written back waits for it; of one with none in flight it does not. -/
theorem test_SessionCommands_8 : (ses (sesSt { st := .open, olds := [4], pages := [2] }) 5).olds ≠ [] ∧
    ans (exec (.sesPark 3 (ent 4 h5)) (sesSt { st := .open, olds := [4], pages := [2] })) (fun t =>
      (ses t 5).parking && decide ((ses t 5).st = .open)) = true ∧
    (grp ringAt).bat.blocked = [] ∧ (ses (sesSt { st := .open }) 5).hot = none ∧ (ses (sesSt { st := .open }) 5).wb = false := by
  decide +kernel

/-- A shard's data waits for a bay in reset. -/
theorem test_ShardValleyRegisterCommands_7 :
    rangeHeld (rfSet (got [1, 2, 3, 4] ringAt) .baybStat 1 62 2 1) 0x1000 4 (hostAcc ringAt 3).cls = true ∧
    gives (exec (.shardLoadData 3 (ent 0x10 0 0 0x1000 4) 4095) (rfSet (got [1, 2, 3, 4] ringAt) .baybStat 1 62 2 1))
      (rfSet (got [1, 2, 3, 4] ringAt) .baybStat 1 62 2 1) = true ∧
    rangeHeld (got [1, 2, 3, 4] ringAt) 0x1000 4 (hostAcc ringAt 3).cls = false ∧
    (vend (setVend (sesSt { st := .open }) 2 { st := .live, cons := 2, pcons := 1 }) 2).pcons ≠ 2 ∧
    ans (exec (.sesMigrate 3 (ent 6 h5 0x10002)) (setVend (sesSt { st := .open }) 2 { st := .live, cons := 2, pcons := 1 })) (fun t =>
      decide ((ses t 5).st = .open ∧ lastStatus t = 6)) = true := by decide +kernel

/-- A pass whose image is not buffered waits while the rafter's bay is in reset. -/
theorem test_BatchesAndBudget_12 :
    (match fetch (rfSet (passSt 1) .baybStat 3 62 2 1) 3 none 0 with | .hold _ => true | _ => false) = true ∧
    ans (exec (.passTake 3) (rfSet (passSt 1) .baybStat 3 62 2 1)) (fun t =>
      decide ((raf t 3).st = .idle ∧ (raf t 3).reads.length = 1 ∧ (raf t 3).slot0 = some 1)) = true := by decide +kernel

/-- A line of session 5's page 2 waits in bay 0 on its way to HBM. -/
def heldBack : State :=
  let s := sesSt { st := .parked, wb := true, hot := some 4, pages := [2] }
  setBay s 0 { away := [{ runs := [(pageAddr s 2, [1])], acc := {} }] }

theorem test_CommitAndRelease_12 : backing (ses (sesSt { st := .open, wb := true, hot := some 4, olds := [6] }) 5) = true ∧
    backHeld (sesSt { st := .open, wb := true, hot := some 4, olds := [6] }) (ses (sesSt { st := .open, wb := true, hot := some 4, olds := [6] }) 5) = false ∧
    ans (exec (.hotPageWritebackDone 5) (sesSt { st := .open, wb := true, hot := some 4, olds := [6] })) (fun t =>
      (ses t 5).wb && decide ((ses t 5).olds = [])) = true ∧
    backHeld heldBack (ses heldBack 5) = true ∧ gives (exec (.hotPageWritebackDone 5) heldBack) heldBack = true := by decide +kernel

/-- What the gate unit reads waits for a bay in reset. -/
theorem test_GateUnit_12 :
    bayAway (rfSet (gateRep [{ id := 4, group := 7, fill := 0, rows := [], targets := [], rep := 3, repSlot := 0 }]) .baybStat 3 62 2 1)
      (areaAddr (rfSet (gateRep [{ id := 4, group := 7, fill := 0, rows := [], targets := [], rep := 3, repSlot := 0 }]) .baybStat 3 62 2 1) 3 0 0) =
      isBay (areaAddr live 3 0 0) ∧
    packetHeld (rfSet (gateEnd dispatchW) .baybStat 4 62 2 1) 2 { pseq := 0, off := 0, size := 64, units := 1 } (gateAcc live) = true ∧
    gives (exec (.gateDispatchReceived 2) (rfSet (gateEnd dispatchW) .baybStat 4 62 2 1)) (rfSet (gateEnd dispatchW) .baybStat 4 62 2 1) = true ∧
    gives (exec (.gateReturnReceived 2) (rfSet (gateEnd [0x0000001201000000]) .baybStat 4 62 2 1))
      (rfSet (gateEnd [0x0000001201000000]) .baybStat 4 62 2 1) = true ∧
    gives (exec (.migrationPacket 2) (rfSet (migEnd 64 live) .baybStat 4 62 2 1)) (rfSet (migEnd 64 live) .baybStat 4 62 2 1) = true ∧
    packetHeld (gateEnd dispatchW) 2 { pseq := 0, off := 0, size := 64, units := 1 } (gateAcc live) = false := by decide +kernel

/-- Bay 3 with a write to be issued again, and with one that came over the mesh and stands at its stop. -/
theorem test_BayOperations_11 : subWaits (setBay live 3 { redo := [reqW] }) 3 0 = true ∧ redoOf (setBay live 3 { redo := [reqW] }) 3 0 = some reqW ∧
    reqHeld live reqW = false ∧ readyOf (setAsked live 3 0 true (some reqW)) 3 0 true = some reqW ∧
    ans (exec (.subarrayAccess 3 0 none none) (setBay live 3 { redo := [reqW] })) (fun t =>
      decide ((bay t 3).redo = [] ∧ readByte t.mem 0x3008 = 77)) = true ∧
    ({ live with mesh := { arrived := [(3, flit)] } } : State).mesh.arrived ≠ [] ∧
    ans (exec (.subarrayAccess 3 0 none (some reqW)) { live with mesh := { arrived := [(3, flit)] } }) (fun t => decide (t.mesh.arrived = [])) = true ∧
    (match exec (.scrubLine 3 0) { setBay live 3 { scrub := 98302 } with mesh := { arrived := [(3, flit)] } } with | .next _ => false | _ => true) = true ∧
    reqHeld (rgSet live .hbmsQlvl 0 0 0xFFFF000000000000) { addr := 0x1000000000, op := .readLine, org := .seq 3 } = true := by decide +kernel

/-- A fill whose requests a whole-line write has overtaken is dropped; one that two requests wait for serves both. -/
theorem test_BayOperations_12 : fillWay (fillSt 0) 0 fill0 = (setCline (fillSt 0) 0 (setOf fill0.line) 0 { tag := tagOf fill0.line, valid := true }, 0) ∧
    ans (exec (.cacheFillReturn 0 (List.replicate 256 5) 0) (setBay (fillSt 0) 0 { fills := [{ fill0 with done := true }] })) (fun t =>
      decide ((bay t 0).fills = [] ∧ (cline t 0 0 0).valid = false)) = true ∧
    ans (exec (.cacheFillReturn 0 (List.replicate 256 5) 0) (setBay (fillSt 0) 0 { fills := [{ fill0 with
      more := [{ addr := 0x1000000008, op := .writeWords [9], org := .seq 3, par := [xorBits 9] }] }] })) (fun t =>
      decide (readBytes t.mem 0 9 = [5, 5, 5, 5, 5, 5, 5, 5, 9])) = true := by decide +kernel

/-- A lane test withdraws what waits at the spar port, and serves it at its end; a notice word waits meanwhile. -/
theorem test_MeshSparEaves_12 :
    ans (exec (.controlHandshakeError 3) (setAsked live 3 0 false (some reqW))) (fun t =>
      decide ((sparOf t 3).back = [reqW] ∧ askedOf t 3 0 false = none)) = true ∧
    ans (exec (.laneTestEnd 3 []) (setSpar live 3 { testing := some 5, back := [reqW], late := [(9, 0, 33)] })) (fun t =>
      decide ((sparOf t 3).back = [] ∧ readByte t.mem 0x3008 = 77 ∧ storeWord (raf t 3) (noticeOff 9) ≠ 0)) = true ∧
    (parityBad (opWords reqBad.op) reqBad.par).isSome = true ∧
    ans (exec (.purlinFlitArrival 5 { flit with req := reqBad }) { live with mesh := { moving := [(4, 5, { flit with dst := .bay 6 }), (22, 5, { flit with req := reqBad })] } }) (fun t =>
      decide (t.mesh.row = [(272 * 22 + 5, 1)] ∧ t.mesh.moving.length = 2)) = true := by decide +kernel

/-- A word crosses eaves link 1 with its flit; an end that is not whole is held back at the receiving end. -/
theorem test_BoundaryQueues_12 : eavesTx 31 = true ∧ (eavesOf (eavesUp [1]) 1).up = true ∧ crossWaits (eavesUp [1]) 31 = false ∧
    crossWaits (setQueue (eavesUp [1]) 35 { words := List.replicate 2017 ⟨0, false, false, 0⟩ }) 31 = true ∧
    ans (exec (.queueWordRead 31) (setQueue (eavesUp [1]) 31 { words := [⟨7, true, false, 0⟩, ⟨5, false, true, 0⟩] })) (fun t =>
      decide ((eavesOf t 1).part0 = [⟨7, true, false, 0⟩] ∧ (queue t 35).words = [] ∧ t.rdata = 7)) = true ∧
    ans (exec (.queueWordRead 31) { setQueue (eavesUp [1]) 31 { words := [⟨5, false, true, 0⟩] } with eaves := [(1, { up := true, part0 := [⟨7, true, false, 0⟩] })] }) (fun t =>
      decide ((eavesOf t 1).part0 = [] ∧ (queue t 35).words = [⟨7, true, false, 0⟩, ⟨5, false, true, 0⟩])) = true ∧
    ans (exec (.queueWordRead 39) (setQueue (eavesUp [1]) 39 { words := [⟨7, false, true, 0⟩] })) (fun t =>
      decide (hopRow t (eavesHop 1) = 1 ∧ (queue t 39).words.length = 1)) = true ∧
    ans (exec (.queueWordWrite 2 77 true true 0) (rfSet live .lnkpRxqCtl 2 25 1 1)) (fun t => decide ((port t 2).pktn = 1)) = true := by
  decide +kernel

/-- The words of a fault record that waits come into BOOT_XWQ, are read there, and reach the flash. -/
theorem test_BoundaryQueues_13 : (feedLog frec).flash.fed = true ∧ (queue (feedLog frec) 59).words.length = 16 ∧
    ans (exec (.queueWordRead 59) frec) (fun t => decide (t.flash.took.length = 1)) = true := by decide +kernel

theorem test_HbmRequests_12 : hbmDead (hbmSt 0 []) 0x1000000000 = false ∧ hbmDead (hbmSt 2 []) 0x1000000000 = true ∧
    ans (exec (.hbmReadReturn 0 0 false 0 0 5) (hbmSt 0 [{ hent with issued := true }])) (fun t =>
      decide ((stack t 0).given = [(0x1000000000, 3, 2)])) = true ∧
    ((List.range 32).all fun i => !hbmBad (hbmSt 0 []) (0x1000000000 + 8 * i)) = true := by decide +kernel

/-- A Thatch sensor is not read while the way to it is taken over; a record waits for the erase of its sector. -/
theorem test_HousekeepingAndFaultLog_12 : eavesChan 3 = true ∧ eavesChan 320 = false ∧
    flowWaits (takenOver (flowHome .housekeeping) (hkSt 3)) .housekeeping = true ∧
    gives (exec (.hkChannelRead (.value 77)) (takenOver (flowHome .housekeeping) (hkSt 3))) (takenOver (flowHome .housekeeping) (hkSt 3)) = true ∧
    ans (exec .faultRecordProgrammed { frec with flash := { frec.flash with erasing := some 1 } }) (fun t =>
      t.flash.fed && decide (t.flash.waiting.length = 1)) = true ∧
    ans (exec .faultRecordProgrammed (setQueue frec 59 { words := [⟨0, false, true, 0⟩] })) (fun t =>
      !t.flash.fed && decide (t.flash.waiting.length = 1)) = true := by decide +kernel

/-- A packet whose bytes a channel reads from bay 3, and a GET whose window lies there, wait while the bay is in reset. -/
theorem test_ValleyData_12 :
    (srcHeld (rfSet live .baybStat 3 62 2 1) (.chan 3 2 1 0x3000 8)).isSome = true ∧ (srcHeld live (.chan 3 2 1 0x3000 8)).isNone = true ∧
    (srcHeld live (.bytes [1])).isNone = true ∧
    ans (exec (.valleyPacketSend 2) (rfSet (vSt { st := .live, granted := 16, sends := [{ pseq := 0, src := .chan 3 2 1 0x3000 8, units := 1 }] }) .baybStat 3 62 2 1))
      (fun t => decide ((raf t 3).reads.length = 1 ∧ ((vend t 2).sends.map (·.sent)) = [none])) = true ∧
    windowWaits (rfSet (vSt winEnd) .baybStat 8 62 2 1) (vpkt 1 0 (mkWord [(62, 2, 1), (40, 17, 8), (0, 40, 0x10)]) []) = true ∧
    gives (exec (.get (vpkt 1 0 (mkWord [(62, 2, 1), (40, 17, 8), (0, 40, 0x10)]) [])) (rfSet (vSt winEnd) .baybStat 8 62 2 1))
      (rfSet (vSt winEnd) .baybStat 8 62 2 1) = true ∧
    windowWaits (vSt winEnd) (vpkt 1 0 (mkWord [(62, 2, 1), (40, 17, 8), (0, 40, 0x10)]) []) = false := by decide +kernel

/-- A warm start takes the rate saved for a stack: save 0 holds code 2 of stack 4. -/
theorem test_BringupSteps_12 :
    savedRate { rfSet (boot 6 1) .bootStat 0 56 1 1 with flash := { save0 := some { count := 1, serial := 0, rates := [(4, 3)], ports := [] } } } 4 = some 2 ∧
    savedRate { rfSet (boot 6 1) .bootStat 0 56 1 1 with flash := { save0 := some { count := 1, serial := 0, rates := [(4, 3)], ports := [] } } } 5 = none ∧
    savedRate (boot 6 1) 4 = none := by decide +kernel

/-- A notice waits in line while eaves link 0 is taken over, and on a link that is up it goes to the ring. -/
theorem test_NoticesAndCounters_12 : flowWaits (takenOver 0 ringOpenSt) .notices = true ∧
    (accessNotice (takenOver 0 ringOpenSt) .host 1 0 0).notices.lined ≠ [] ∧
    flowWaits ringOpenSt .notices = false ∧ ringOpenSt.notices.lined = [] ∧
    (accessNotice (boot 4 0) .host 1 0 0).notices.next = 1 := by decide +kernel

/-- A staged section has its digest, or the step ends; the host's section is fetched first. -/
theorem test_LoadAndStageList_12 : (stageSection (loadGot sectBytes) 0 sectBytes).2 = none ∧
    (stageSection (loadGot sectBytes) 0 [1]).2 = some (0x40, 2) ∧
    (fetchFor (loadGot sectBytes) 17).isSome = true ∧ (fetchFor (setFetch (loadGot sectBytes) 17 none) 17) = none ∧
    loadStaged (loadGot sectBytes) = false ∧ attended (loadGot sectBytes) = true := by decide +kernel

/-- The generator of RS(544,514) as IEEE 802.3 tabulates its coefficients g0 to g30, here from g30 = 1 down. -/
theorem test_fecGenerator : rsGen.map (fun a => a.toNat) = [1, 575, 552, 187, 230, 552, 1, 108, 565, 282, 249, 593, 132, 94, 720, 495, 385,
    942, 503, 883, 361, 788, 610, 193, 392, 127, 185, 158, 128, 834, 523] := by decide +kernel

end Sys2Proof.Tests
end

section
/-! What a stale handle is answered (R78, R107 item 4), and the fetch that SES_APPEND gives up with it. -/

open Sys2Proof Sys2Proof.Claim

namespace Sys2Proof.Machine

/-! ## The fetches of host memory, which a completion and the reading of further commands leave as they are -/

theorem fetchFor_setFetch (s : State) (k j : Nat) (x : Option HFetch) :
    fetchFor (setFetch s k x) j = if j = k then x else fetchFor s j := tget_tput _ _ _ _ _

theorem writeComp_fetches (s : State) (c : Comp) : (writeComp s c).host.fetches = s.host.fetches := by
  unfold writeComp
  extract_lets r tail w0 t tail' u
  split <;> rfl

theorem putComp_fetches (s : State) (c : Comp) : (putComp s c).host.fetches = s.host.fetches := by
  unfold putComp
  split
  · rfl
  · split
    · rfl
    · exact writeComp_fetches s c

theorem ringFetch_fetches (s : State) : (ringFetch s).host.fetches = s.host.fetches := by
  unfold ringFetch
  refine List.foldlRecOn _ _ (motive := fun t : State => t.host.fetches = s.host.fetches) rfl fun t h r _ => ?_
  split <;> exact h

theorem fetchFor_answered (s : State) (r : Fin 16) (e : Entry) (status : Nat) (h : BitVec 32) (w2 : Word) (k : Nat) :
    fetchFor (answered s r e status h w2) k = fetchFor s k := by
  have hf : (answered s r e status h w2).host.fetches = s.host.fetches :=
    (ringFetch_fetches _).trans (putComp_fetches s _)
  simp only [fetchFor, hf]

/-! ## A ring command past the checks of R107 items 2 and 3 -/

theorem ringDo_of_ringTakes {s : State} {r : Fin 16} {e : Entry} {op : Nat} (h : ringTakes s r e op = true)
    (body : State → State) : ringDo s r e op body = .next (ringFetch (body (takeArrived s r e))) := by
  simp only [ringTakes, Bool.and_eq_true, Bool.not_eq_true', Option.isNone_iff_eq_none] at h
  obtain ⟨⟨⟨⟨⟨hop, hon⟩, hrun⟩, hflow⟩, hbound⟩, hearly⟩ := h
  have hearly' : early (takeArrived s r e) op e = none := hearly
  rw [ringDo_completes s r e op body hop hon hrun hflow hbound, hearly']

/-- A command that gets by without bytes of the host is carried out at once, with no fetch left under its ring. -/
theorem ringData_of_not_wants (s : State) (r : Fin 16) (e : Entry) (op len : Nat) (cut : Fin 4096)
    (body : State → List Byte → State) : ringData s r e op len cut false body =
      ringDo s r e op fun s => body (setFetch s r none) ((fetchedFor s r len).getD []) := by
  simp only [ringData, Bool.false_and, Bool.false_eq_true, if_false]
  split_ifs with hop hoff hwait
  · simp only [ringDo, if_pos hop]
  · simp only [ringDo, if_neg hop, if_pos hoff]
  · simp only [ringDo, if_neg hop, if_neg hoff, if_pos hwait]
  · rfl

theorem sesCmd_of_stale {s : State} {r : Fin 16} {e : Entry} (h : sesOfHandle s (entHandle e) = none) (bad : Bool)
    (body : State → Nat → State × Nat) : sesCmd s r e bad body = cmdComp s r e 0x03 (entHandle e) := by
  simp only [sesCmd, h]

/-- SES_APPEND with a handle that is not valid is refused with BAD_HANDLE, and what its ring was fetching is given up. -/
theorem execSesAppend_of_stale {s : State} {r : Fin 16} {e : Entry} (ht : ringTakes s r e 0x02 = true)
    (hs : sesOfHandle s (entHandle e) = none) (cut : Fin 4096) :
    execSesAppend r e cut s = .next (answered (setFetch (takeArrived s r e) r none) r e 0x03 (entHandle e)) := by
  have hs' : sesOfHandle (setFetch (takeArrived s r e) r none) (entHandle e) = none := hs
  simp only [execSesAppend, hs, Bool.and_false, ringData_of_not_wants, ringDo_of_ringTakes ht, sesCmd_of_stale hs']
  rfl

/-- So where the ring has a fetch under way, the refusal changes more than the completion and the reading on. -/
theorem sesAppend_of_stale_ne_answered {s : State} {r : Fin 16} {e : Entry} (ht : ringTakes s r e 0x02 = true)
    (hs : sesOfHandle s (entHandle e) = none) (hf : fetchFor s r ≠ none) (cut : Fin 4096) :
    exec (.sesAppend r e cut) s ≠ .next (answered (takeArrived s r e) r e 0x03 (entHandle e)) := by
  intro h
  have hx : exec (.sesAppend r e cut) s =
      .next (answered (setFetch (takeArrived s r e) r none) r e 0x03 (entHandle e)) := execSesAppend_of_stale ht hs cut
  have heq := Host.Outcome.next.inj (hx.symm.trans h)
  have hfetch := congrArg (fetchFor · r) heq
  simp only [fetchFor_answered, fetchFor_setFetch, if_true] at hfetch
  exact hf hfetch.symm

/-! ## A session that is closed while its prompt is being fetched -/

/-- The entry of SES_APPEND of two tokens at host address 0x1000 for slot 5, generation 1. -/
def appendEntry : Entry := { w0 := mkWord [(56, 8, 2), (0, 32, 0x100005)], w1 := 0x1000, w2 := 2 }

/-- The entry of SES_CLOSE for the same session. -/
def closeEntry : Entry := { w0 := mkWord [(56, 8, 5), (0, 32, 0x100005)] }

/-- A device in service with rings 3 and 4 in use and slot 5 OPEN: ring 3 appends to the session, ring 4 closes it, and its
pages are released before the bytes of the append have come. -/
def closeDuringAppend : State :=
  let ringCtl := mkWord [(63, 1, 1), (58, 5, 6), (53, 5, 7)]
  let s := rgSet State.reset .sysState 0 0 1
  let s := rgSet (rgSet s .sesrRctl 3 0 ringCtl) .sesrRctl 4 0 ringCtl
  { setSes s 5 { st := .open } with
    pending := [.sesAppend 3 appendEntry 4095, .sesClose 4 closeEntry, .sessionPagesReleased 5] }

/-- The device after these three commands. -/
def closedDuringAppend : State :=
  match core.run 3 closeDuringAppend with
  | .next s => s
  | _ => closeDuringAppend

theorem ringTakes_closedDuringAppend : ringTakes closedDuringAppend 3 appendEntry 0x02 = true := by decide +kernel

theorem sesOfHandle_closedDuringAppend : sesOfHandle closedDuringAppend (entHandle appendEntry) = none := by decide +kernel

theorem fetchFor_closedDuringAppend : fetchFor closedDuringAppend (3 : Fin 16) ≠ none := by decide +kernel

/-- Refutes O57, by its clause on SES_APPEND: a session is closed while ring 3 fetches the tokens of an append to it, so that the
append's handle is stale when the command is sent again. The refusal with BAD_HANDLE then gives the fetch up (R107 item 4, and
`Obligations.RingRefusals`), where the clause has the fetch stay as it was. -/
theorem not_handleGenerations : ¬ Obligations.HandleGenerations := by
  unfold Obligations.HandleGenerations
  rintro ⟨-, -, hrefused, -⟩
  have hrefused := (hrefused 3 appendEntry 4095 closedDuringAppend _ sesOfHandle_closedDuringAppend rfl).1
    ringTakes_closedDuringAppend
  exact sesAppend_of_stale_ne_answered ringTakes_closedDuringAppend sesOfHandle_closedDuringAppend
    fetchFor_closedDuringAppend 4095 hrefused

end Sys2Proof.Machine
end

section
/-! What TFLOOR does to a course (R361): the clamp that a reading sets and lifts, and the clamp's place in the ceiling and in a
tick of the voltage loop (R343, R344). -/

namespace Sys2Proof.Machine

/-! ## A field and a bit of a word as they read after a write -/

theorem testBit_fld (w : Word) (lo n k : Nat) : (fld w lo n).testBit k = (decide (k < n) && bitOf w (lo + k)) := by
  simp only [fld, bitOf, Nat.testBit_mod_two_pow, Nat.testBit_div_two_pow, BitVec.testBit_toNat, Nat.add_comm k lo]

theorem fld_lt (w : Word) (lo n : Nat) : fld w lo n < 2 ^ n := Nat.mod_lt _ (Nat.two_pow_pos n)

theorem bitOf_maskOf (lo n i : Nat) : bitOf (maskOf lo n) i = decide (i < 64 ∧ lo ≤ i ∧ i - lo < n) := by
  simp only [bitOf, maskOf, BitVec.getLsbD_ofNat, Nat.testBit_mul_two_pow, Nat.testBit_two_pow_sub_one, Bool.decide_and]

/-- A bit of a word with a field set: the value's inside the field, the word's own elsewhere. -/
theorem bitOf_setFld (w : Word) (lo n v : Nat) {i : Nat} (hi : i < 64) :
    bitOf (setFld w lo n v) i = if lo ≤ i ∧ i - lo < n then v.testBit (i - lo) else bitOf w i := by
  have hmask := bitOf_maskOf lo n i
  simp only [bitOf] at hmask
  simp only [bitOf, setFld, BitVec.getLsbD_or, BitVec.getLsbD_and, BitVec.getLsbD_not, hmask, BitVec.getLsbD_ofNat,
    Nat.testBit_mul_two_pow, Nat.testBit_mod_two_pow, hi]
  split_ifs with h
  · simp [h]
  · by_cases hlo : lo ≤ i
    · have hn : ¬ i - lo < n := fun hn => h ⟨hlo, hn⟩
      simp [hn]
    · simp [hlo]

/-- A field that lies in the word reads as it was written, modulo its width. -/
theorem fld_setFld (w : Word) {lo n : Nat} (v : Nat) (h : lo + n ≤ 64) : fld (setFld w lo n v) lo n = v % 2 ^ n := by
  refine Nat.eq_of_testBit_eq fun k => ?_
  rw [testBit_fld, Nat.testBit_mod_two_pow]
  by_cases hk : k < n
  · rw [bitOf_setFld w lo n v (by omega)]
    simp [hk]
  · simp [hk]

theorem bitOf_setBit (w : Word) {i : Nat} (b : Bool) (h : i < 64) : bitOf (setBit w i b) i = b := by
  rw [setBit, bitOf_setFld w i 1 _ h]
  cases b <;> simp

theorem rf_rfSet (s : State) (r : Reg) (i : Nat) {lo n : Nat} (v : Nat) (h : lo + n ≤ 64) :
    rf (rfSet s r i lo n v) r i lo n = v % 2 ^ n := by
  rw [rf, rfSet, rg_rgSet, fld_setFld _ _ h]

/-! ## The registers that a notice leaves as they are

A notice writes BOOT_STAT, MON_NSTAT and MON_NTAIL, and through the log an event counter of the Truss bank; so it leaves every
register of the Ridge die's blocks between those of bring-up and of the monitors (R529) as it was. -/

/-- The offsets from the security engine's registers up to those of the monitors. -/
def betweenBootAndMon (o : Nat) : Prop := 0x200000 ≤ o ∧ o < 0xA00000

/-- `t` has the registers of `s` between those of bring-up and of the monitors. -/
structure SameMid (s t : State) : Prop where
  rg_eq : ∀ r i j, betweenBootAndMon (regOff r i j) → rg t r i j = rg s r i j

namespace SameMid

theorem refl (s : State) : SameMid s s := ⟨fun _ _ _ _ => rfl⟩

theorem trans {s t u : State} (h : SameMid s t) (k : SameMid t u) : SameMid s u :=
  ⟨fun r i j hm => (k.rg_eq r i j hm).trans (h.rg_eq r i j hm)⟩

/-- A state whose registers are all those of `t`. -/
theorem of_regs {s t u : State} (h : SameMid s t) (hu : u.regs = t.regs := by rfl) : SameMid s u :=
  ⟨fun r i j hm => (rg_congr_regs hu r i j).trans (h.rg_eq r i j hm)⟩

theorem ite {s t u : State} {c : Prop} [Decidable c] (h : SameMid s t) (k : SameMid s u) : SameMid s (if c then t else u) := by
  split <;> assumption

theorem rf {s t : State} (h : SameMid s t) {r : Reg} {i : Nat} (hm : betweenBootAndMon (regOff r i 0)) (lo n : Nat) :
    Machine.rf t r i lo n = Machine.rf s r i lo n := by
  rw [Machine.rf, Machine.rf, h.rg_eq r i 0 hm]

end SameMid

theorem sameMid_rgSet (s : State) {r : Reg} {i j : Nat} (v : Word) (h : ¬ betweenBootAndMon (regOff r i j)) :
    SameMid s (rgSet s r i j v) :=
  ⟨fun _ _ _ hm => rg_rgSet_of_ne s v fun heq => h (heq ▸ hm)⟩

theorem sameMid_rfSet (s : State) {r : Reg} {i : Nat} (lo n v : Nat) (h : ¬ betweenBootAndMon (regOff r i 0)) :
    SameMid s (rfSet s r i lo n v) := sameMid_rgSet s _ h

theorem not_between_bootStat : ¬ betweenBootAndMon (regOff .bootStat 0 0) := by
  simp [betweenBootAndMon, regOff, regRow]

theorem not_between_monNtail : ¬ betweenBootAndMon (regOff .monNtail 0 0) := by
  simp [betweenBootAndMon, regOff, regRow]

theorem not_between_monNstat : ¬ betweenBootAndMon (regOff .monNstat 0 0) := by
  simp [betweenBootAndMon, regOff, regRow]

theorem not_between_monTcntk (i : Nat) : ¬ betweenBootAndMon (regOff .monTcntk i 0) := by
  simp only [betweenBootAndMon, regOff, regRow]
  omega

theorem sameMid_bumpOne_monTcntk (i src unit k : Nat) (s : State) :
    SameMid s (bumpOne .monTselk .monTcntk i 0 src unit k s) :=
  SameMid.ite (sameMid_rgSet s _ (not_between_monTcntk i)) (SameMid.refl s)

theorem sameMid_countT (s : State) (src unit k : Nat) : SameMid s (countT s src unit k) :=
  SameMid.ite (List.foldlRecOn _ _ (motive := SameMid s) (SameMid.refl s)
    fun t h i _ => h.trans (sameMid_bumpOne_monTcntk i src unit k t)) (SameMid.refl s)

theorem sameMid_logWrite (s : State) (q : BitVec 31) (m : Notice) : SameMid s (logWrite s q m) :=
  SameMid.ite (sameMid_countT s ..).of_regs (SameMid.refl s)

theorem noticeRecord_regs (s : State) (a : Nat) (w0 w1 w2 w3 : Word) : (noticeRecord s a w0 w1 w2 w3).regs = s.regs := by
  unfold noticeRecord
  split <;> rfl

theorem sameMid_ringWrite (s : State) (q : BitVec 31) (m : Notice) : SameMid s (ringWrite s q m) := by
  unfold ringWrite
  extract_lets tail w0 t tail' u
  have ht : SameMid s t := (SameMid.refl s).of_regs (noticeRecord_regs ..)
  have hu : SameMid t u := sameMid_rfSet t _ _ _ not_between_monNtail
  exact (ht.trans hu).of_regs

theorem sameMid_setNext (s : State) (q : BitVec 31) : SameMid s (setNext s q) :=
  (SameMid.refl s).of_regs.trans (sameMid_rfSet _ _ _ _ not_between_monNstat)

theorem sameMid_emitNotice (s : State) (q : BitVec 31) (m : Notice) : SameMid s (emitNotice s q m) := by
  unfold emitNotice
  extract_lets t u
  have ht : SameMid s t := sameMid_logWrite s q m
  have hu : SameMid t u := sameMid_rfSet t _ _ _ not_between_monNstat
  exact (ht.trans (sameMid_ringWrite t q m)).ite ((ht.trans hu).of_regs.ite ht)

theorem sameMid_putNotice (s : State) (m : Notice) : SameMid s (putNotice s m) :=
  (sameMid_setNext s _).trans (sameMid_emitNotice ..)

theorem sameMid_lostNotice (s : State) : SameMid s (lostNotice s) := by
  unfold lostNotice
  split
  · exact ((SameMid.refl s).of_regs.trans (sameMid_putNotice ..)).ite (SameMid.refl s)
  · exact SameMid.refl s

theorem sameMid_holdNotice (s : State) (m : Notice) : SameMid s (holdNotice s m) :=
  SameMid.ite (((SameMid.refl s).of_regs.trans (sameMid_setNext ..)).trans (sameMid_rfSet _ _ _ _ not_between_bootStat))
    (sameMid_rfSet s _ _ _ not_between_bootStat)

theorem sameMid_raiseR (s : State) (typ src : Nat) (w2 w3 : Word) : SameMid s (raiseR s typ src w2 w3) :=
  (SameMid.refl s).ite (((sameMid_lostNotice s).trans (sameMid_putNotice ..)).ite (sameMid_holdNotice s _))

theorem sameMid_condChange (s : State) (q cond : Nat) (was now : Bool) : SameMid s (condChange s q cond was now) :=
  (SameMid.refl s).ite (sameMid_raiseR ..)

/-! ## A reading judged: the floor condition and the clamp -/

theorem between_thmqStat {q : Nat} (hq : q < 81) : betweenBootAndMon (regOff .thmqStat q 0) := by
  simp only [betweenBootAndMon, regOff, regRow]
  omega

theorem between_pwrqVctl {q : Nat} (hq : q < 81) : betweenBootAndMon (regOff .pwrqVctl q 0) := by
  simp only [betweenBootAndMon, regOff, regRow]
  omega

theorem between_pwrCtl : betweenBootAndMon (regOff .pwrCtl 0 0) := by
  simp [betweenBootAndMon, regOff, regRow]

theorem thmqStat_ne_pwrqVctl {q : Nat} (hq : q < 81) (i : Nat) : regOff .thmqStat q 0 ≠ regOff .pwrqVctl i 0 := by
  simp only [regOff, regRow]
  omega

theorem pwrCtl_ne_thmqStat {q : Nat} (hq : q < 81) : regOff .pwrCtl 0 0 ≠ regOff .thmqStat q 0 := by
  simp only [regOff, regRow]
  omega

/-- Whether the floor condition holds of course `q` after a reading of `t` (R357, R361). -/
def floorHolds (s : State) (q : Nat) (t : Int) : Bool :=
  holdsNow (rbit s .thmqStat q 15) (decide (tlim s 40 ≤ t)) (decide (t ≤ tlim s 40 - 8))

/-- What a reading does to the registers of the middle blocks, said once: THMq_STAT takes a value whose FLOOR bit is the
condition, and where the condition has changed TCLAMP becomes 550 mV or the grade's ceiling; the notices change none of them. -/
theorem judgeCourse_cases (s : State) (q : Nat) (t : Int) (rise : Nat) :
    ∃ (v : Word) (u : State), bitOf v 15 = floorHolds s q t ∧ SameMid (rgSet s .thmqStat q 0 v) u ∧
      judgeCourse s q t rise = if rbit s .thmqStat q 15 = floorHolds s q t then u
        else rfSet u .pwrqVctl q 28 10 (if floorHolds s q t then 550 else gvmax u) := by
  unfold judgeCourse
  extract_lets v warn dt dr floor v' wasT wasR s1 heat s2 s3 s4 s5
  have h2 : SameMid s1 s2 := (SameMid.refl s1).of_regs
  have h3 : SameMid s2 s3 := sameMid_condChange ..
  have h4 : SameMid s3 s4 := (sameMid_condChange ..).trans (sameMid_condChange ..)
  have h5 : SameMid s4 s5 := sameMid_condChange ..
  exact ⟨v', s5, bitOf_setBit _ floor (by omega), ((h2.trans h3).trans h4).trans h5, rfl⟩

/-- FLOOR of THMq_STAT follows the condition. -/
theorem rbit_judgeCourse_floor (s : State) {q : Nat} (hq : q < 81) (t : Int) (rise : Nat) :
    rbit (judgeCourse s q t rise) .thmqStat q 15 = floorHolds s q t := by
  obtain ⟨v, u, hv, hu, hjudge⟩ := judgeCourse_cases s q t rise
  have hstat : rg u .thmqStat q = v := (hu.rg_eq _ _ _ (between_thmqStat hq)).trans (rg_rgSet ..)
  rw [hjudge, rbit]
  by_cases hsame : rbit s .thmqStat q 15 = floorHolds s q t
  · rw [if_pos hsame, hstat, hv]
  · rw [if_neg hsame, rfSet, rg_rgSet_of_ne _ _ (thmqStat_ne_pwrqVctl hq q), hstat, hv]

/-- TCLAMP changes where the floor condition does: to 550 mV as it is entered, to the grade's ceiling as it clears. -/
theorem rf_judgeCourse_tclamp (s : State) {q : Nat} (hq : q < 81) (t : Int) (rise : Nat) :
    rf (judgeCourse s q t rise) .pwrqVctl q 28 10 =
      if rbit s .thmqStat q 15 = floorHolds s q t then rf s .pwrqVctl q 28 10
      else if floorHolds s q t then 550 else gvmax s := by
  obtain ⟨v, u, -, hu, hjudge⟩ := judgeCourse_cases s q t rise
  have hclamp : rf u .pwrqVctl q 28 10 = rf s .pwrqVctl q 28 10 := by
    rw [hu.rf (between_pwrqVctl hq), rf, rg_rgSet_of_ne s v (thmqStat_ne_pwrqVctl hq q).symm, rf]
  have hgrade : gvmax u = gvmax s := by
    rw [gvmax, hu.rf between_pwrCtl, rf, rg_rgSet_of_ne s v (pwrCtl_ne_thmqStat hq), gvmax, rf]
  have hlt : gvmax s < 2 ^ 10 := fld_lt ..
  rw [hjudge]
  split_ifs
  · exact hclamp
  · exact rf_rfSet u _ _ _ (by omega)
  · rw [rf_rfSet u _ _ _ (by omega), hgrade, Nat.mod_eq_of_lt hlt]

/-! ## When the condition is entered, stays and clears -/

theorem floorHolds_of_reached {s : State} {q : Nat} {t : Int} (hwas : rbit s .thmqStat q 15 = false) (ht : tlim s 40 ≤ t) :
    floorHolds s q t = true := by
  simp [floorHolds, holdsNow, hwas, ht]

theorem floorHolds_of_cleared {s : State} {q : Nat} {t : Int} (hwas : rbit s .thmqStat q 15 = true)
    (ht : t ≤ tlim s 40 - 8) : floorHolds s q t = false := by
  simp [floorHolds, holdsNow, hwas, ht]

theorem floorHolds_of_not_cleared {s : State} {q : Nat} {t : Int} (hwas : rbit s .thmqStat q 15 = true)
    (ht : tlim s 40 - 8 < t) : floorHolds s q t = true := by
  simp [floorHolds, holdsNow, hwas, ht]

/-! ## The ceiling and the tick -/

/-- The least of a list lies at or below each of its elements. -/
theorem leastBy_le {α : Type} (key : α → Nat) {l : List α} {a : α} (h : a ∈ l) :
    ∃ b, leastBy key l = some b ∧ key b ≤ key a := by
  induction l with
  | nil => cases h
  | cons x l ih =>
    simp only [leastBy]
    rcases List.mem_cons.mp h with rfl | htail
    · cases leastBy key l with
      | none => exact ⟨a, rfl, le_rfl⟩
      | some b =>
        by_cases hab : key a ≤ key b
        · exact ⟨a, if_pos hab, le_rfl⟩
        · exact ⟨b, if_neg hab, by omega⟩
    · obtain ⟨b, hb, hba⟩ := ih htail
      rw [hb]
      by_cases hxb : key x ≤ key b
      · exact ⟨x, if_pos hxb, hxb.trans hba⟩
      · exact ⟨b, if_neg hxb, hba⟩

theorem ceilTerm_le_of_mem {s : State} {q : Nat} {e : Nat × Nat} (h : e ∈ ceilTerms s q) : (ceilTerm s q).2 ≤ e.2 := by
  obtain ⟨b, hb, hle⟩ := leastBy_le Prod.snd h
  rw [ceilTerm, hb]
  exact hle

/-- The thermal clamp is a term of the ceiling (R343), so the ceiling lies above it only at the floor. -/
theorem ceilOf_le_clamp (s : State) (q : Nat) : ceilOf s q ≤ max 550 (rf s .pwrqVctl q 28 10) := by
  have hmem : (5, rf s .pwrqVctl q 28 10) ∈ ceilTerms s q := by simp [ceilTerms]
  exact max_le_max le_rfl (ceilTerm_le_of_mem hmem)

/-- A set point above the ceiling goes down before the margin, idleness or the target is looked at (R344). -/
theorem tickVset_of_above_ceil {s : State} {q ceil : Nat} (h : ceil < rf s .pwrqVstat q 48 10) (idle : Bool) :
    tickVset s q ceil idle = max ceil (rf s .pwrqVstat q 48 10 - 10) := if_pos h

/-- Settles O59: a reading sets FLOOR and TCLAMP as the condition goes (`rbit_judgeCourse_floor`, `rf_judgeCourse_tclamp`), and
the clamp is a term of the ceiling that a tick obeys first. -/
theorem floorClampsCourse : Obligations.FloorClampsCourse := by
  unfold Obligations.FloorClampsCourse
  refine ⟨fun s q rise t hq => ?_, ceilOf_le_clamp, fun s q ceil idle h => tickVset_of_above_ceil h idle⟩
  rw [rbit_judgeCourse_floor s hq, rf_judgeCourse_tclamp s hq]
  refine ⟨fun hwas ht => ?_, fun hwas ht => ?_, fun hwas ht => ?_⟩
  · simp [hwas, floorHolds_of_reached hwas ht]
  · simp [hwas, floorHolds_of_cleared hwas ht]
  · simp [hwas, floorHolds_of_not_cleared hwas ht]

end Sys2Proof.Machine
end

section
/-! The level that a port trains to (R390), and what entering UP makes of its receive queue's per-complete-packet notice (R71). -/

namespace Sys2Proof.Machine

/-! ## A field of a word that a write of another field leaves as it is -/

theorem fld_setFld_of_disjoint (w : Word) {lo n lo' n' : Nat} (v : Nat) (hword : lo + n ≤ 64)
    (h : lo + n ≤ lo' ∨ lo' + n' ≤ lo) : fld (setFld w lo' n' v) lo n = fld w lo n := by
  refine Nat.eq_of_testBit_eq fun k => ?_
  rw [testBit_fld, testBit_fld]
  by_cases hk : k < n
  · rw [bitOf_setFld w lo' n' v (by omega), if_neg (by omega)]
  · simp [hk]

theorem rbit_rfSet_one (s : State) (r : Reg) (i : Nat) {b : Nat} (c : Prop) [Decidable c] (hb : b < 64) :
    rbit (rfSet s r i b 1 (if c then 1 else 0)) r i b = decide c := by
  have hbit : (if c then 1 else 0) = if decide c = true then 1 else 0 := by simp
  rw [rbit, rfSet, rg_rgSet, hbit, ← setBit, bitOf_setBit _ _ hb]

/-! ## The registers that a port's step in training leaves as they are -/

/-- Taking again what ends wait for changes ends of valleys alone. -/
theorem markWaits_regs (s : State) : (markWaits s).regs = s.regs := by
  unfold markWaits
  refine List.foldlRecOn _ _ (motive := fun t : State => t.regs = s.regs) rfl fun t h e _ => ?_
  split <;> exact h

theorem lnkpStat_ne_lnkpRxqCtl (p : Nat) : regOff .lnkpStat p 0 ≠ regOff .lnkpRxqCtl p 0 := by
  simp only [regOff, regRow]
  omega

/-- A step of training changes STATE, not the level. -/
theorem portLevel_toStep (s : State) (p st : Nat) : portLevel (toStep s p st) p = portLevel s p := by
  have hstat : rg (toStep s p st) .lnkpStat p = setFld (rg s .lnkpStat p) 60 4 st := rg_rgSet ..
  rw [portLevel, rf, hstat, fld_setFld_of_disjoint _ _ (by omega) (by omega), portLevel, rf]

/-! ## LEVEL -/

/-- LEVEL in its state writes the lower of the two highest levels to LNKp_STAT, and moves on to EQ. -/
theorem execLevel_of_acts {s : State} {p : Fin 13} (hact : portActs s p = true) (hst : portState s p = 2) (gen : Fin 8)
    (maxlvl : Fin 4) (dev : BitVec 16) (pport : Fin 13) :
    ∃ v, fld v 58 2 = max 1 (min (rf s .lnkpCtl p 61 2) maxlvl.val) ∧
      execLevel p gen maxlvl dev pport s = .next (toStep (rgSet s .lnkpStat p 0 v) p 3) := by
  refine ⟨_, ?_, if_neg (by simp [hact, hst])⟩
  have hlt : max 1 (min (rf s .lnkpCtl p 61 2) maxlvl.val) < 2 ^ 2 := by omega
  simp (disch := omega) only [mkWord, List.foldl, fld_setFld_of_disjoint, fld_setFld, Nat.mod_eq_of_lt hlt]

/-- The level after LEVEL is the lower of the two, where both are levels (R390). -/
theorem exec_level_portLevel {s : State} {p : Fin 13} (hact : portActs s p = true) (hst : portState s p = 2) (gen : Fin 8)
    {maxlvl : Fin 4} (dev : BitVec 16) (pport : Fin 13) (hpartner : 1 ≤ maxlvl.val) (hown : 1 ≤ rf s .lnkpCtl p 61 2) :
    ∃ t, exec (.level p gen maxlvl dev pport) s = .next t ∧ portLevel t p = min (rf s .lnkpCtl p 61 2) maxlvl.val := by
  obtain ⟨v, hv, hexec⟩ := execLevel_of_acts hact hst gen maxlvl dev pport
  refine ⟨_, hexec, ?_⟩
  rw [portLevel_toStep, portLevel, rf, rg_rgSet, hv]
  exact max_eq_right (le_min hown hpartner)

/-! ## The entry to UP -/

/-- Entering UP writes STATE, FAILS and RTT of LNKp_STAT. -/
theorem rg_enterUp_lnkpStat (s : State) (p : Nat) :
    rg (enterUp s p) .lnkpStat p = setFld (setFld (setFld (rg s .lnkpStat p) 60 4 6) 8 8 0) 16 16 0 := by
  rw [enterUp, rg_congr_regs (markWaits_regs _), rfSet, rg_rgSet_of_ne _ _ (lnkpStat_ne_lnkpRxqCtl p)]
  simp only [rfSet, setPortState, rg_rgSet]
  rfl

theorem portUp_enterUp (s : State) (p : Nat) : portUp (enterUp s p) p = true := by
  simp (disch := omega) only [portUp, rf, rg_enterUp_lnkpStat, fld_setFld_of_disjoint, fld_setFld]
  rfl

theorem portLevel_enterUp (s : State) (p : Nat) : portLevel (enterUp s p) p = portLevel s p := by
  simp (disch := omega) only [portLevel, rf, rg_enterUp_lnkpStat, fld_setFld_of_disjoint]

/-- PKTN of the receive queue tells whether the level is below U3 (R71). -/
theorem rbit_enterUp_pktn (s : State) (p : Nat) : rbit (enterUp s p) .lnkpRxqCtl p 25 = decide (portLevel s p < 3) := by
  rw [enterUp, rbit, rg_congr_regs (markWaits_regs _), ← rbit, rbit_rfSet_one _ _ _ _ (by omega)]
  simp (disch := omega) only [portLevel, rf, rfSet, setPortState, rg_rgSet, fld_setFld_of_disjoint]
  rfl

/-- QUAL with every lane within its limits enters UP as the window ends. -/
theorem execQual_of_lanesGood {s : State} {p : Fin 13} (hact : portActs s p = true) (hst : portState s p = 5)
    (hgood : ∀ l, l < 8 → laneGood s p l = true) :
    execQual p s = .next (enterUp (dueR s ((port s p).stepAt.toNat + qualTime s (portLevel s p))) p) := by
  refine (if_neg (by simp [hact, hst])).trans (if_pos (List.all_eq_true.mpr fun l hl => ?_))
  have hl' : laneGood s p l = true := hgood l (List.mem_range.mp hl)
  exact Bool.or_eq_true_iff.mpr (.inr hl')

/-- Settles O60: LEVEL stores the lower of the two highest levels (`exec_level_portLevel`), and QUAL enters UP with PKTN set
where the level is below U3 (`rbit_enterUp_pktn`). -/
theorem portTrainsToLowerLevel : Obligations.PortTrainsToLowerLevel := by
  unfold Obligations.PortTrainsToLowerLevel
  refine fun p s hact => ⟨fun g m dev pp hst hpartner hown => ?_, fun hst _ hgood => ?_⟩
  · obtain ⟨t, hexec, hlevel⟩ := exec_level_portLevel hact hst g dev pp hpartner hown
    exact ⟨t, hexec, hlevel, by omega, by omega⟩
  · have hpktn := rbit_enterUp_pktn (dueR s ((port s p).stepAt.toNat + qualTime s (portLevel s p))) p
    refine ⟨_, execQual_of_lanesGood hact hst hgood, portUp_enterUp .., portLevel_enterUp .., fun hlow => ?_, fun hhigh => ?_⟩
    · exact hpktn.trans (decide_eq_true (show portLevel s p < 3 by omega))
    · exact hpktn.trans (decide_eq_false (show ¬ portLevel s p < 3 by omega))

end Sys2Proof.Machine
end
